-- ==== Sys2Proof/Word.lean ====
section
/-!
DEFINITION. The word types of the BV-NL4 and the plainest arithmetic on them: 64-bit registers, 1 KiB-vector parts,
bytes, and the sparse maps that hold memories.
-/

namespace Sys2Proof

/-- A scalar register, an address under computation, a slot word (R19, R51). -/
abbrev Word := BitVec 64

/-- A byte of any memory. -/
abbrev Byte := BitVec 8

/-- One cluster's part of a vector register: 128 bytes (R21). -/
abbrev VReg := BitVec 1024

/-- A predicate register: bit b belongs to byte b of a vector register (R22). -/
abbrev PReg := BitVec 128

/-- A V-die plate or a DQ entry: 1 KiB (R178, R26). -/
abbrev KiB := BitVec 8192

/-- An M-die plate: 4 KiB (R178). -/
abbrev Plate4 := BitVec 32768

/-- The signed value of a 64-bit pattern (`sx` of R112). -/
def sx (v : Word) : Int := v.toInt

/-- The 64-bit pattern of an integer modulo 2^64. -/
def wordOfInt (i : Int) : Word := BitVec.ofInt 64 i

/-- Bits [hi:lo] of a natural number read as bits. -/
def bits (hi lo n : Nat) : Nat := (n >>> lo) % 2 ^ (hi - lo + 1)

/-- Bit n of a natural number. -/
def bit (n x : Nat) : Bool := x.testBit n

/-- A Boolean as a number. -/
def b2n (b : Bool) : Nat := if b then 1 else 0

/-- The signed value of the w-bit pattern n (n below 2^w). -/
def sval (w n : Nat) : Int := if 2 * (n % 2 ^ w) < 2 ^ w then (n % 2 ^ w : Int) else (n % 2 ^ w : Int) - 2 ^ w

/-- The w-bit two's-complement pattern of an integer. -/
def wrapTo (w : Nat) (i : Int) : Nat := (i % (2 ^ w : Int)).toNat

/-- Division rounding up. -/
def ceilDiv (a b : Nat) : Nat := (a + b - 1) / b

/-- The number of one bits among the low n bits. -/
def popCount : Nat → Nat → Nat
  | 0, _ => 0
  | n + 1, x => b2n (x.testBit n) + popCount n x

/-- Read of a fixed-size table by number; out of range gives the default. -/
def tget {α : Type} {n : Nat} (v : Vector α n) (i : Nat) (d : α) : α := v[i]?.getD d

/-- Write of a fixed-size table by number; out of range changes nothing. -/
def tset {α : Type} {n : Nat} (v : Vector α n) (i : Nat) (x : α) : Vector α n := v.setIfInBounds i x

/-- Change of one entry of a fixed-size table; out of range changes nothing. -/
def tmod {α : Type} {n : Nat} (v : Vector α n) (i : Nat) (f : α → α) : Vector α n :=
  match v[i]? with
  | some x => v.setIfInBounds i (f x)
  | none => v

end Sys2Proof
end

