-- ==== Sys2Proof/Config.lean ====
section
/-!
DEFINITION. What one BV-NL4 package fixes and what the spec leaves open. The opaque constants are the free values:
nothing in Lean can evaluate them, so a statement that mentions a run holds for every value of them (log 4).
-/

namespace Sys2Proof.Config

/-- The n-th free choice of a count or of an order that the spec leaves open (R262, R315, R255, R286, R328; log 4). -/
opaque freeNat : Nat → Nat

/-- The n-th free choice between two values the spec allows (R268, R198; log 4). -/
opaque freeBool : Nat → Bool

/-- The choice that the n-th read of a bank makes for an aligned word whose writes through the other view are not joined
(R268; log 4). -/
opaque freeChoice : Nat → Nat → Nat

/-- The n-th free pattern: a value that the spec does not state (R187 switch bits of a live plate; log 4). -/
opaque freeBits : Nat → Nat

/-- TRAPINFO of a cause whose content Table 12-3 names as two numbers without their places (region and index, source die
code and CHAN; log 4). -/
opaque pairInfo : Nat → Nat → Nat

/-- The ML-DSA-87 signature of a byte string under the device identity key, whose secrets the spec does not give
(R367; log 4). -/
opaque deviceSignature : List (BitVec 8) → List (BitVec 8)

/-- The firmware version words of a report, of the firmware image that has booted (R367; log 4). -/
opaque firmwareVersions : List (BitVec 8) → List (BitVec 8)

/-- The digest of the n-th firmware that boot measures, out of the image in flash (R366, R367; log 4). -/
opaque firmwareDigest : List (BitVec 8) → Nat → BitVec 512

/-- The correctly rounded special functions are computed from an approximation with this many fraction bits
(R158; log 6). -/
def vsfBits : Nat := 640

/-- Fuses: which die codes 0 to 9 are present (Table 14-4; log 5). -/
def diesPresent : BitVec 10 := 0x3FF#10

/-- Which of the 14 physical Lantern engines work (R337, R339; log 5). -/
def lanternsPresent : BitVec 14 := 0x3FFF#14

/-- Edge latency in counts (R332). -/
def edgeLatency : Nat := 20

/-- Counts from an OQPUSH until its entry can be popped (R33). -/
def oqLatency : Nat := 24

/-- A hold of this many cycles raises region-overrun (R40). -/
def holdLimit : Nat := 65536

/-- A region may count this many steps (R307). -/
def regionLimit : Nat := 65536

/-- A claim is taken after this many blocked counts (R288). -/
def claimCounts : Nat := 2 ^ 20

/-- Counts that a group without owner stays powered (R298). -/
def powerDownCounts : Nat := 65536

/-- An elastic request without a reply ends as PATH-LOST after this many counts (R350). -/
def pathLostCounts : Nat := 2 ^ 22

/-- Steps after which an idle step is inserted (R301). -/
def idleInsertion : Nat := 63

/-- Flits kept in a replay ring (R337, R338). -/
def replayRing : Nat := 65536

end Sys2Proof.Config
end

