-- ==== Sys2Proof/Syntax.lean ====
section
/-!
DEFINITION. The syntax of the BV-NL4: the field values of the slot words and one constructor of `Instr` for each row of
the table of operations and events.
-/

namespace Sys2Proof

/-- The two die types that run programs (R1). -/
inductive DieKind where
  | v
  | m
  deriving DecidableEq, Repr, Inhabited

/-- Element formats (Table 2-6). -/
inductive Fmt where
  | f64 | f32 | f16 | bf16 | f8a | f8b | f4
  | i8 | i16 | i32 | i64 | i4
  | n8 | n16 | n32 | n64
  | hb8a | hb8b | hb4 | hbi8 | hbi4
  deriving DecidableEq, Repr, Inhabited

/-- Rounding modes (Table 2-7). -/
inductive Rnd where
  | ne | tz | up | dn | st
  deriving DecidableEq, Repr, Inhabited

/-- Overflow policies (Table 2-7). -/
inductive Ovf where
  | sat | inf | nan | trap
  deriving DecidableEq, Repr, Inhabited

/-- Scopes of FENCE, DRAIN and BARARR (Table 10-2). -/
inductive Scope where
  | ctx | pair | pkg | dom
  deriving DecidableEq, Repr, Inhabited

/-- What every slot word carries beside its operands: the class index of its slot, the guard, and the extension field
lent to it, if X is set (Table 2-3, R61). -/
structure Hdr where
  cls : BitVec 4
  g : BitVec 4
  gn : Bool
  ext : Option (BitVec 20)
  deriving DecidableEq, Repr, Inhabited

/-- SCALAR-RRR (Table 2-4). -/
structure RRR where
  d : BitVec 6
  x : BitVec 6
  y : BitVec 6
  z : BitVec 6
  fn : BitVec 6
  rnd : Rnd
  deriving DecidableEq, Repr, Inhabited

/-- SCALAR-RI (Table 2-4); `imm` is the 32-bit field, widened through the extension. -/
structure RI where
  d : BitVec 6
  x : BitVec 6
  fn : BitVec 6
  imm : BitVec 32
  deriving DecidableEq, Repr, Inhabited

/-- BRANCH (Table 2-4). -/
structure Branch where
  fn : BitVec 4
  x : BitVec 6
  y : BitVec 6
  off : BitVec 34
  deriving DecidableEq, Repr, Inhabited

/-- SYS (Table 2-4). -/
structure Sys where
  d : BitVec 6
  x : BitVec 6
  sr : BitVec 8
  scope : Scope
  cls : BitVec 4
  imm : BitVec 24
  deriving DecidableEq, Repr, Inhabited

/-- VEC-RRRR (Table 2-4). -/
structure VRRRR where
  d : BitVec 6
  x : BitVec 6
  y : BitVec 6
  z : BitVec 6
  fmt : Fmt
  ovf : Ovf
  rnd : Rnd
  ftz : Bool
  sub : BitVec 6
  deriving DecidableEq, Repr, Inhabited

/-- VEC-RRI (Table 2-4). -/
structure VRRI where
  d : BitVec 6
  x : BitVec 6
  fmt : Fmt
  ovf : Ovf
  rnd : Rnd
  ftz : Bool
  sub : BitVec 6
  imm : BitVec 21
  deriving DecidableEq, Repr, Inhabited

/-- NET (Table 2-4). -/
structure Net where
  d : BitVec 6
  pl : BitVec 12
  b : BitVec 6
  roff : BitVec 18
  sub : BitVec 4
  deriving DecidableEq, Repr, Inhabited

/-- IDX (Table 2-4). -/
structure Idx where
  d : BitVec 6
  x : BitVec 6
  y : BitVec 6
  tk : BitVec 3
  fmt : Fmt
  sub : BitVec 6
  imm : BitVec 18
  deriving DecidableEq, Repr, Inhabited

/-- TILE (Table 2-4). -/
structure Tile where
  td : BitVec 3
  tx : BitVec 3
  fa : Fmt
  fb : Fmt
  n : BitVec 6
  cap : BitVec 7
  b : BitVec 6
  ks : BitVec 3
  js : BitVec 3
  sp : Bool
  deriving DecidableEq, Repr, Inhabited

/-- TILE-ST (Table 2-4). -/
structure TileSt where
  td : BitVec 3
  rg : BitVec 3
  nrg : BitVec 3
  fd : Fmt
  ovf : Ovf
  rnd : Rnd
  ftz : Bool
  el : BitVec 2
  dl : BitVec 4
  b : BitVec 6
  deriving DecidableEq, Repr, Inhabited

/-- SCALE (Table 2-4). -/
structure Scale where
  kj : Bool
  kn : BitVec 3
  tg : BitVec 2
  b : BitVec 6
  imm : BitVec 18
  n : BitVec 6
  deriving DecidableEq, Repr, Inhabited

/-- XFER (Table 2-4). -/
structure Xfer where
  d : BitVec 6
  x : BitVec 6
  y : BitVec 6
  z : BitVec 6
  pr : BitVec 3
  scope : Scope
  sub : BitVec 6
  imm : BitVec 15
  deriving DecidableEq, Repr, Inhabited

/-- A frame between modules: its header flit and its data (Table 13-7). -/
structure Frame where
  kind : Nat
  hop : Nat
  srcPkg : Nat
  srcDie : Nat
  dstPkg : Nat
  dstDie : Nat
  chan : Nat
  seq : Nat
  addr : Nat
  gang : Nat
  op : Nat
  data : List Byte
  /-- the address space of a row request (R190) -/
  asid : Nat := 0
  /-- elements of a row reply that faulted: place, cause, address (R191) -/
  faults : List (Nat × Nat × Nat) := []
  /-- the port die at which it came in, once it has -/
  port : Option Nat := none
  deriving DecidableEq, Repr, Inhabited

/-- What a flit of a Lantern carries: the number of its frame among those of its link identity, whether it is timed, whether its
CRC is good, and the frame that its arrival completes, if it is a frame's last flit (R338, R345). -/
structure Flit where
  frame : Nat := 0
  timed : Bool
  crcOk : Bool
  done : Option Frame
  deriving DecidableEq, Repr, Inhabited

/-- A request of another package's dispatcher to reserve members here (R296), for a task or head of a level, known there by a
number; whether it is to take a claim (R288); for a successor, the index of the task that the gang's members have named
(R299). -/
structure Reservation where
  fromPkg : Nat
  gang : Nat
  level : Nat
  holder : Nat
  claim : Bool
  succ : Option Nat
  asid : Nat
  digest : BitVec 512
  decided : Nat
  entries : List (BitVec 128)
  ranks : List Nat
  record : BitVec 2048
  deriving DecidableEq, Repr, Inhabited

/-- The answer to a reservation request: a ready count, or a refusal with its status (R296). Status 0 is a refusal for
lack of resources. With it the number of cold groups and the power-up counts that the package has given out (R298); and the
home's decision, which names the task or head again, with the cold groups of the whole gang and how many of them come before the
package's own. -/
structure ReserveAnswer where
  gang : Nat
  pkg : Nat
  holder : Nat
  taken : List Nat
  ready : Option Nat
  status : Nat
  groups : Nat
  /-- the case of R285 that refuses -/
  case_ : Nat := 0
  /-- what lacks can be claimed (R288) -/
  lacks : Bool := false
  /-- cold groups of the gang before those of the package -/
  before : Nat := 0
  /-- members and the dies assigned to them (R295): of the package that answers; in a decision those of the whole gang -/
  dies : List (Nat × Nat) := []
  deriving DecidableEq, Repr, Inhabited

/-- Why a gang is aborted (R304): a trap of the gang, or an event outside it. -/
inductive AbortCause where
  | trap
  | outside
  deriving DecidableEq, Repr, Inhabited

/-- What the environment supplies to a power-on: the first failing check of a boot stage, and what domain
initialisation finds: the package's identifier, the
identifiers present in the domain, the measured flights, and the digests of the stages (R366, R335, R354). -/
structure BootInputs where
  failStage : Option (Nat × Nat × Nat)
  pkg : BitVec 10
  domain : List Nat
  flt : List Nat
  deriving DecidableEq, Repr, Inhabited

/-- What firmware measures in a telemetry window (R370): temperatures of die codes 0 to 9 in eighths of a degree, and
the module power in watts. -/
structure Measures where
  temps : List Int
  power : Nat
  deriving DecidableEq, Repr, Inhabited

/-- The steps of the machine: one constructor for each row of the table of operations and events. Slot instructions
carry their header and their operand fields; events carry what they act on. -/
inductive Instr where
  /-- Writes the sum of x and y, modulo 2^64, to d after 1 step. (R114) -/
  | add (h : Hdr) (o : RRR)
  /-- Writes the difference of x and y, modulo 2^64, to d after 1 step. (R114) -/
  | sub (h : Hdr) (o : RRR)
  /-- Writes x plus the signed immediate, modulo 2^64, to d. (R115) -/
  | addi (h : Hdr) (o : RI)
  /-- Loads the sign-extended immediate into d. (R115) -/
  | li (h : Hdr) (o : RI)
  /-- Replaces the high 32 bits of d with the immediate and keeps its low 32 bits. (R115) -/
  | lih (h : Hdr) (o : RI)
  /-- Writes x to d if the named q predicate is 1, and y otherwise. (R114) -/
  | sel (h : Hdr) (o : RRR)
  /-- Writes the signed minimum of x and y to d. (R114) -/
  | min (h : Hdr) (o : RRR)
  /-- Writes the signed maximum of x and y to d. (R114) -/
  | max (h : Hdr) (o : RRR)
  /-- Writes the unsigned minimum of x and y to d. (R114) -/
  | minn (h : Hdr) (o : RRR)
  /-- Writes the unsigned maximum of x and y to d. (R114) -/
  | maxn (h : Hdr) (o : RRR)
  /-- Writes the integer compare condition on x and y to a q register. (R114) -/
  | cmp (h : Hdr) (o : RRR)
  /-- Writes the bitwise and of x and y to d. (R114) -/
  | and (h : Hdr) (o : RRR)
  /-- Writes the bitwise or of x and y to d. (R114) -/
  | or (h : Hdr) (o : RRR)
  /-- Writes the bitwise exclusive-or of x and y to d. (R114) -/
  | xor (h : Hdr) (o : RRR)
  /-- Writes x and not y to d. (R114) -/
  | andn (h : Hdr) (o : RRR)
  /-- Writes x or not y to d. (R114) -/
  | orn (h : Hdr) (o : RRR)
  /-- Shifts x left logically by y[5:0]. (R114) -/
  | shl (h : Hdr) (o : RRR)
  /-- Shifts x right logically by y[5:0]. (R114) -/
  | shr (h : Hdr) (o : RRR)
  /-- Shifts x right arithmetically by y[5:0]. (R114) -/
  | shra (h : Hdr) (o : RRR)
  /-- Rotates x left by y[5:0]. (R114) -/
  | rotl (h : Hdr) (o : RRR)
  /-- Writes the number of leading zeros of x to d. (R114) -/
  | clz (h : Hdr) (o : RRR)
  /-- Writes the number of one bits of x to d. (R114) -/
  | popc (h : Hdr) (o : RRR)
  /-- Extracts a bit field of x, zero-extended, into d. (R115) -/
  | bfx (h : Hdr) (o : RI)
  /-- Inserts the low bits of x into a bit field of d. (R115) -/
  | bfi (h : Hdr) (o : RI)
  /-- Writes the low 64 bits of the product of x and y to d after 3 steps. (R114) -/
  | mul (h : Hdr) (o : RRR)
  /-- Writes the high 64 bits of the signed product of x and y to d. (R114) -/
  | mulh (h : Hdr) (o : RRR)
  /-- Writes the high 64 bits of the unsigned product of x and y to d. (R114) -/
  | mulhn (h : Hdr) (o : RRR)
  /-- Writes x times y plus z, modulo 2^64, to d. (R114) -/
  | madd (h : Hdr) (o : RRR)
  /-- Writes the signed quotient to d after 18 steps; division by zero sets DZ. (R116) -/
  | divs (h : Hdr) (o : RRR)
  /-- Writes the unsigned quotient to d after 18 steps; division by zero sets DZ. (R116) -/
  | divn (h : Hdr) (o : RRR)
  /-- Writes the signed remainder to d after 18 steps; division by zero sets DZ. (R116) -/
  | rems (h : Hdr) (o : RRR)
  /-- Writes the unsigned remainder to d after 18 steps; division by zero sets DZ. (R116) -/
  | remn (h : Hdr) (o : RRR)
  /-- Adds x and y in FP64 or FP32 with one rounding. (R117) -/
  | fadd (h : Hdr) (o : RRR)
  /-- Multiplies x and y in FP64 or FP32 with one rounding. (R117) -/
  | fmul (h : Hdr) (o : RRR)
  /-- Computes x times y plus z in FP64 or FP32 with one rounding. (R117) -/
  | fma (h : Hdr) (o : RRR)
  /-- Divides x by y in FP64 or FP32 with one rounding, after 16 steps. (R117) -/
  | fdiv (h : Hdr) (o : RRR)
  /-- Converts between FP64, FP32 and I64 as FN[2:0] selects. (R118) -/
  | fcvt (h : Hdr) (o : RRR)
  /-- Writes a floating-point compare condition to a q register after 2 steps. (R118) -/
  | fcmp (h : Hdr) (o : RRR)
  /-- Loads 1 to 8 bytes from the linear view of the die's own bank wall into d after 4 steps. (R119) -/
  | lds (h : Hdr) (o : RI)
  /-- Stores 1 to 8 bytes to the linear view of the bank wall; the write lands after 4 steps. (R119) -/
  | sts (h : Hdr) (o : RI)
  /-- Issues a translated or bank read that sets a promise and lands its value at PSTEP. (R121) -/
  | ldh (h : Hdr) (o : RI)
  /-- Places a translated store in the region's deferred-write set and sets a promise. (R122) -/
  | sth (h : Hdr) (o : RI)
  /-- Atomically adds y to a 32-bit or 64-bit word and returns the old value through a promise. (R123) -/
  | aadd (h : Hdr) (o : RRR)
  /-- Atomically increments a word and returns the old value through a promise. (R123) -/
  | ainc (h : Hdr) (o : RRR)
  /-- Atomically replaces a word equal to y with z and returns the old value through a promise. (R123) -/
  | acas (h : Hdr) (o : RRR)
  /-- Atomically exchanges a word with y and returns the old value through a promise. (R123) -/
  | axchg (h : Hdr) (o : RRR)
  /-- Branches unconditionally to a group offset relative to its own group. (R125) -/
  | br (h : Hdr) (o : Branch)
  /-- Branches when the condition on s[x] and s[y] holds. (R125) -/
  | brc (h : Hdr) (o : Branch)
  /-- Branches and writes the offset of the following group to s[x]. (R125) -/
  | call (h : Hdr) (o : Branch)
  /-- Sets the PC to s[x], as a return. (R126) -/
  | ret (h : Hdr) (o : Branch)
  /-- Sets the PC to s[x], as an indirect jump; a target that is not a group start faults. (R126) -/
  | jmpi (h : Hdr) (o : Branch)
  /-- Decrements LC and branches back, rotating VRB and writing the stage predicate p8. (R127) -/
  | loop (h : Hdr) (o : Branch)
  /-- Holds its group until the gang step reaches s[x] plus the immediate. (R129) -/
  | waitt (h : Hdr) (o : Sys)
  /-- Holds its group until a 64-bit word reads zero or nonzero, then lands that value in d. (R130) -/
  | waitb (h : Hdr) (o : Sys)
  /-- Ends the context's last region, releases its deferred writes and stops issue. (R135) -/
  | exit (h : Hdr) (o : Sys)
  /-- Exits as EXIT and names a successor task to start in place when the gang ends. (R136) -/
  | exits (h : Hdr) (o : Sys)
  /-- Raises the software trap with cause n. (R137) -/
  | trap (h : Hdr) (o : Sys)
  /-- From a handler, resumes the served context at checkpoint k. (R138) -/
  | rett (h : Hdr) (o : Sys)
  /-- Reads a system register into d after 1 step. (R139) -/
  | rdsr (h : Hdr) (o : Sys)
  /-- Writes s[x] to the RW or WC fields of a system register at the end of its issue step. (R139) -/
  | wrsr (h : Hdr) (o : Sys)
  /-- Holds until every released access of the context has performed at the scope, and acts as a view join. (R131) -/
  | fence (h : Hdr) (o : Sys)
  /-- Holds until the context's released accesses of one class have performed at the scope. (R132) -/
  | drain (h : Hdr) (o : Sys)
  /-- Sets CTXMODE.G, entering guarded mode. (R134) -/
  | guardEnter (h : Hdr) (o : Sys)
  /-- Clears CTXMODE.G, leaving guarded mode. (R134) -/
  | guardLeave (h : Hdr) (o : Sys)
  /-- An idle bundle advances the context by IDLE plus 1 steps while results in flight land. (R53) -/
  | idleBundle (n : BitVec 5) (ck vj : Bool)
  /-- Adds vector elements under the format, overflow and rounding fields. (R145) -/
  | vadd (h : Hdr) (o : VRRRR)
  /-- Subtracts vector elements. (R145) -/
  | vsub (h : Hdr) (o : VRRRR)
  /-- Multiplies vector elements. (R145) -/
  | vmul (h : Hdr) (o : VRRRR)
  /-- Writes the high half of the integer element products. (R145) -/
  | vmulh (h : Hdr) (o : VRRRR)
  /-- Computes the fused multiply-add x times y plus z per element. (R145) -/
  | vfma (h : Hdr) (o : VRRRR)
  /-- Computes the fused multiply-subtract x times y minus z per element. (R145) -/
  | vfms (h : Hdr) (o : VRRRR)
  /-- Writes the per-element minimum. (R145) -/
  | vmin (h : Hdr) (o : VRRRR)
  /-- Writes the per-element maximum. (R145) -/
  | vmax (h : Hdr) (o : VRRRR)
  /-- Writes the absolute value of each element. (R145) -/
  | vabs (h : Hdr) (o : VRRRR)
  /-- Writes the negation of each element. (R145) -/
  | vneg (h : Hdr) (o : VRRRR)
  /-- Multiplies elements of width w into results of width 2w from the selected half. (R146) -/
  | vmulw (h : Hdr) (o : VRRRR)
  /-- Bitwise and of vector registers. (R145) -/
  | vand (h : Hdr) (o : VRRRR)
  /-- Bitwise or of vector registers. (R145) -/
  | vor (h : Hdr) (o : VRRRR)
  /-- Bitwise exclusive-or of vector registers. (R145) -/
  | vxor (h : Hdr) (o : VRRRR)
  /-- Bitwise x and not y of vector registers. (R145) -/
  | vandn (h : Hdr) (o : VRRRR)
  /-- Shifts each element left logically. (R145) -/
  | vshl (h : Hdr) (o : VRRRR)
  /-- Shifts each element right logically. (R145) -/
  | vshr (h : Hdr) (o : VRRRR)
  /-- Shifts each element right arithmetically. (R145) -/
  | vshra (h : Hdr) (o : VRRRR)
  /-- Adds an immediate to each integer element. (R145) -/
  | vaddi (h : Hdr) (o : VRRI)
  /-- Writes an immediate into each selected element. (R145) -/
  | vmovi (h : Hdr) (o : VRRI)
  /-- Counts the leading zeros of each element. (R145) -/
  | vclz (h : Hdr) (o : VRRRR)
  /-- Counts the one bits of each element. (R145) -/
  | vpopc (h : Hdr) (o : VRRRR)
  /-- Writes a per-element compare result into a predicate, optionally in total order. (R148) -/
  | vcmp (h : Hdr) (o : VRRRR)
  /-- Compares each element with an immediate into a predicate. (R148) -/
  | vcmpi (h : Hdr) (o : VRRI)
  /-- Writes the smaller element to d and the larger to z in total order. (R150) -/
  | vcswp (h : Hdr) (o : VRRRR)
  /-- Selects x or y per element under a predicate. (R151) -/
  | vsel (h : Hdr) (o : VRRRR)
  /-- Broadcasts the low bits of a scalar register into every selected element. (R152) -/
  | vbcs (h : Hdr) (o : VRRRR)
  /-- Writes an arithmetic index sequence into the elements. (R153) -/
  | vidx (h : Hdr) (o : VRRI)
  /-- Rearranges elements within a register by the shuffle kind. (R154) -/
  | vshuf (h : Hdr) (o : VRRRR)
  /-- Copies a register from another cluster after 3 steps. (R155) -/
  | vxcp (h : Hdr) (o : VRRI)
  /-- Converts one part of the elements between formats. (R156) -/
  | vcvt (h : Hdr) (o : VRRRR)
  /-- Rounds each float element to an integral value of the same format. (R157) -/
  | vrndi (h : Hdr) (o : VRRRR)
  /-- Computes a correctly rounded special function per element. (R158) -/
  | vsf (h : Hdr) (o : VRRRR)
  /-- Quantises values into a block record with elected outliers in stipple entries. (R161) -/
  | vqblk (h : Hdr) (o : VRRI)
  /-- Checks and decodes a block record into BF16 or FP32 elements. (R162) -/
  | vdq (h : Hdr) (o : VRRRR)
  /-- Bitwise and of predicates. (R163) -/
  | pand (h : Hdr) (o : VRRRR)
  /-- Bitwise or of predicates. (R163) -/
  | por (h : Hdr) (o : VRRRR)
  /-- Bitwise exclusive-or of predicates. (R163) -/
  | pxor (h : Hdr) (o : VRRRR)
  /-- Bitwise not of a predicate. (R163) -/
  | pnot (h : Hdr) (o : VRRRR)
  /-- Moves values between predicate and vector files, by kind. (R164) -/
  | pmov (h : Hdr) (o : VRRRR)
  /-- Keeps only the lowest set element of a predicate. (R165) -/
  | pfirst (h : Hdr) (o : VRRRR)
  /-- Counts the set elements of a predicate into every lane. (R165) -/
  | pcnt (h : Hdr) (o : VRRRR)
  /-- Writes a prefix, suffix or stride pattern into a predicate. (R166) -/
  | pset (h : Hdr) (o : VRRI)
  /-- Accumulates the cross-cluster sum of each element into a latch. (R170) -/
  | racc (h : Hdr) (o : VRRRR)
  /-- Writes the tree sum of all selected elements into element 0 of a latch. (R170) -/
  | rsum (h : Hdr) (o : VRRRR)
  /-- Writes the maximum of the selected elements into a latch. (R171) -/
  | rmax (h : Hdr) (o : VRRRR)
  /-- Writes the minimum of the selected elements into a latch. (R171) -/
  | rmin (h : Hdr) (o : VRRRR)
  /-- Writes the index and bits of the greatest element into a latch. (R171) -/
  | rargmax (h : Hdr) (o : VRRRR)
  /-- Writes the prefix scan of the vector, with a carry in a latch. (R172) -/
  | rscan (h : Hdr) (o : VRRRR)
  /-- Writes a segmented prefix scan of the vector, with a carry in a latch. (R172) -/
  | rseg (h : Hdr) (o : VRRRR)
  /-- Converts latch elements into a vector register of one or all clusters. (R173) -/
  | rdrn (h : Hdr) (o : VRRRR)
  /-- Clears a reduction latch. (R174) -/
  | rclr (h : Hdr) (o : VRRRR)
  /-- Combines two latches element-wise by add, max or min. (R174) -/
  | rcmb (h : Hdr) (o : VRRRR)
  /-- Pushes 128 indices into AQ and reserves a DQ entry for their data. (R189) -/
  | ixpush (h : Hdr) (o : Idx)
  /-- Pops the DQ head entry into a vector register, or faults by its state. (R192) -/
  | ixpop (h : Hdr) (o : Idx)
  /-- Reads queue occupancy or head state by selector. (R193) -/
  | ixcnt (h : Hdr) (o : Idx)
  /-- Frees every AQ and DQ entry of the context. (R193) -/
  | ixclr (h : Hdr) (o : Idx)
  /-- Looks up a key in the tag table and returns the slot and address, or a miss. (R195) -/
  | tlook (h : Hdr) (o : Idx)
  /-- Reads the word or key half of a tag-table slot. (R195) -/
  | tlookRead (h : Hdr) (o : Idx)
  /-- Writes a key, address and user word into a way of the key's set. (R195) -/
  | tset (h : Hdr) (o : Idx)
  /-- Clears VALID of one tag-table slot. (R195) -/
  | tclr (h : Hdr) (o : Idx)
  /-- Clears VALID in every entry of the context's tag window. (R195) -/
  | tclrAll (h : Hdr) (o : Idx)
  /-- Pushes up to 128 index and value pairs to the scatter-accumulate engine. (R197) -/
  | scat (h : Hdr) (o : Idx)
  /-- Configures a scatter region with a base and a descriptor. (R196) -/
  | sacfgSet (h : Hdr) (o : Idx)
  /-- Returns the status word of a scatter region. (R196) -/
  | sacfgStat (h : Hdr) (o : Idx)
  /-- Clears SAT, NANV and OVF of a scatter region. (R196) -/
  | sacfgClr (h : Hdr) (o : Idx)
  /-- Reads bank words through a plate into a vector register after 8 steps. (R184) -/
  | nrd (h : Hdr) (o : Net)
  /-- Reads bank words through a live plate into a vector register. (R184) -/
  | nrdl (h : Hdr) (o : Net)
  /-- Writes a vector register through a plate into the bank after 6 steps. (R184) -/
  | nwr (h : Hdr) (o : Net)
  /-- M-die NW companion that names the plate and base of an MST or MQST. (R222) -/
  | nwrTile (h : Hdr) (o : Net)
  /-- Writes a vector register through a live plate into the bank. (R184) -/
  | nwrl (h : Hdr) (o : Net)
  /-- Reads through one plate and writes through the next plate. (R184) -/
  | ncopy (h : Hdr) (o : Net)
  /-- Fills every enabled column's word with a scalar value. (R184) -/
  | nfill (h : Hdr) (o : Net)
  /-- Reads a frame through a plate and sends it on a die edge at a gang step. (R185) -/
  | nsend (h : Hdr) (o : Net)
  /-- Takes the frame arriving now on an edge and writes it through a plate. (R185) -/
  | nrecv (h : Hdr) (o : Net)
  /-- Forwards an arriving frame through a plate's stages to another edge. (R185) -/
  | npass (h : Hdr) (o : Net)
  /-- Places up to 128 indices in waves of live plates and reports the remainder. (R187) -/
  | trace (h : Hdr) (o : Net)
  /-- Moves one 4 KiB frame from the bank wall into the weight buffer. (R204) -/
  | mwb (h : Hdr) (o : Net)
  /-- Loads and checks a B operand with its annex into a latch of every array of the group. (R206) -/
  | mldw (h : Hdr) (o : Tile)
  /-- Streams A rows against a latch and accumulates into a tile. (R214) -/
  | mma (h : Hdr) (o : Tile)
  /-- Streams A rows against a latch into a zeroed accumulator tile. (R214) -/
  | mmaz (h : Hdr) (o : Tile)
  /-- FP64-form MMA that uses one latch slot per row into a tile pair. (R218) -/
  | mmaF64 (h : Hdr) (o : Tile)
  /-- Clears a tile to +0. (R225) -/
  | mclr (h : Hdr) (o : Tile)
  /-- Copies one tile into another. (R225) -/
  | mcopy (h : Hdr) (o : Tile)
  /-- Zeroes a tile and clears its INUSE bit. (R225) -/
  | mfree (h : Hdr) (o : Tile)
  /-- Zeroes a latch, resets its annex and clears LINUSE. (R225) -/
  | mfreeLatch (h : Hdr) (o : Tile)
  /-- Converts and stores tile row-groups through the NW quarter. (R223) -/
  | mst (h : Hdr) (o : TileSt)
  /-- Quantises tile row-groups into block formats with scales and stipple lists. (R224) -/
  | mqst (h : Hdr) (o : TileSt)
  /-- Returns the tile, latch or group status word. (R226) -/
  | mstat (h : Hdr) (o : Tile)
  /-- Sets the group's select store to a select plate after 8 steps. (R209) -/
  | msel (h : Hdr) (o : Tile)
  /-- Loads scale-register entries from the bank after 6 steps. (R211) -/
  | mscld (h : Hdr) (o : Scale)
  /-- Pops the operand-queue head into d. (R254) -/
  | oqpop (h : Hdr) (o : Xfer)
  /-- Schedules a second-tier to bank transfer on granted timed burst slots and sets a promise. (R234) -/
  | tdmaIn (h : Hdr) (o : Xfer)
  /-- Reads bank granules into the deferred-write set for a timed write to second-tier memory. (R235) -/
  | tdmaOut (h : Hdr) (o : Xfer)
  /-- Starts an elastic load of up to 64 KiB into the bank, with a promise. (R237) -/
  | rld (h : Hdr) (o : Xfer)
  /-- Places up to 64 KiB of bank bytes in the deferred-write set for an elastic store. (R237) -/
  | rst (h : Hdr) (o : Xfer)
  /-- Sends a timed frame of bank granules to another die or package. (R239) -/
  | send (h : Hdr) (o : Xfer)
  /-- Takes a timed frame from staging and lands it in the bank. (R241) -/
  | recv (h : Hdr) (o : Xfer)
  /-- Starts a stencil exchange among the participants at its timetabled step. (R243) -/
  | xpose (h : Hdr) (o : Xfer)
  /-- Starts a collective reduction whose result every participant receives. (R244) -/
  | xred (h : Hdr) (o : Xfer)
  /-- Claims a queue slot atomically and defers the packet write into the ring. (R247) -/
  | cqpost (h : Hdr) (o : Xfer)
  /-- Initialises a barrier object's count and expected word. (R252) -/
  | barinit (h : Hdr) (o : Xfer)
  /-- Defers an arrival that decrements a barrier count after the region's other writes at release. (R253) -/
  | bararr (h : Hdr) (o : Xfer)
  /-- Pushes s[x] into the paired M-die context's operand queue. (R254) -/
  | oqpush (h : Hdr) (o : Xfer)
  /-- Queues a request to park wavelength groups of a Lantern. (R255) -/
  | lpark (h : Hdr) (o : Xfer)
  /-- Queues a request to wake wavelength groups, or to arm them on a queue threshold. (R255) -/
  | lwake (h : Hdr) (o : Xfer)
  /-- From a handler, selects the timetable phase for the next period boundary. (R256) -/
  | ttsel (h : Hdr) (o : Xfer)
  /-- Holds until every member presents, then re-bases GBASE by whole periods. (R257) -/
  | resync (h : Hdr) (o : Xfer)
  /-- Each cycle the sequencer issues the foreground or handler group and merges a background group if the masks are disjoint.
  (R300) -/
  | sequencerCycle (d : Nat)
  /-- After 63 consecutive non-empty foreground groups the sequencer inserts an idle step. (R301) -/
  | insertedIdleStep (d c : Nat)
  /-- A fixed-latency result lands in its destination when its remaining steps reach zero. (R35) -/
  | resultLanding (d c : Nat)
  /-- The value of an LDH or atomic lands in d at the end of its PSTEP or its completion count. (R121) -/
  | promisedValueLanding (d c id : Nat)
  /-- A held group issues once its wait condition, transfer or queue room is satisfied. (R128) -/
  | holdRelease (d c : Nat)
  /-- A hold that lasts 65,536 cycles raises the region-overrun trap. (R40) -/
  | holdOverrun (d c : Nat)
  /-- A region that would count a 65,537th step raises the fatal region-overrun trap. (R307) -/
  | regionOverrun (d c : Nat)
  /-- A tile operation completes and clears the tile's busy bit and counter. (R32) -/
  | tileOperationComplete (d g t : Nat)
  /-- An operand-queue entry becomes poppable 24 counts after its push. (R33) -/
  | oqEntryPoppable (d c id : Nat)
  /-- An AQ entry is translated and sent to memory, in push order. (R190) -/
  | aqEntryIssue (d c : Nat)
  /-- An element returns into its DQ entry, which becomes LANDED or POISONED. (R191) -/
  | ixElementReturn (d c id g : Nat)
  /-- A closed window of scatter updates performs at its cells. (R198) -/
  | scatterWindowPerform (d c r : Nat)
  /-- A walker completes a table walk for a slice miss, filling an entry or raising a fault. (R328) -/
  | translationWalk (d asid va : Nat)
  /-- A TDMA granule lands whole at its scheduled count with a before-image. (R234) -/
  | tdmaGranuleLand (d c id k : Nat)
  /-- An RLD granule lands whole in the bank, and the last one sets DONE. (R237) -/
  | rldGranuleLand (d c id k : Nat)
  /-- A released elastic write performs at its home. (R262) -/
  | deferredWritePerform (id : Nat)
  /-- A translated atomic performs indivisibly at the word's home. (R123) -/
  | atomicPerform (d c id : Nat)
  /-- A translated atomic's value returns and is recorded in the atomic log. (R124) -/
  | atomicValueReturn (d c id : Nat)
  /-- An arrival decrements a barrier count indivisibly, setting OVERRUN when it would go below zero. (R253) -/
  | barrierArrivalUpdate (id : Nat)
  /-- An NSEND or NPASS frame arrives at the adjacent die at its gang step. (R185) -/
  | nsendFrameArrival (d id : Nat)
  /-- A frame that no receiver takes at its arrival step is discarded, and the sending gang takes the timing trap. (R185) -/
  | frameNotTaken (d id : Nat)
  /-- A timed frame completes in receive staging and becomes takeable at step A. (R347) -/
  | timedFrameArrival (f : Frame)
  /-- A received granule lands in the bank with a before-image. (R241) -/
  | recvGranuleLand (d c id k : Nat)
  /-- An exchange frame arrives, and its elements are placed by the stencil map. (R358) -/
  | exchangeFrameArrival (f : Frame)
  /-- A target granule of a collective lands whole once its last element has arrived. (R358) -/
  | collectiveGranuleLand (d c id k : Nat)
  /-- At PSTEP a collective sets DONE and acts as release and acquire, or traps if a granule is late. (R245) -/
  | collectiveComplete (d c id : Nat)
  /-- A copy engine starts a copy packet once the earlier copy has completed and its WBAR reads zero. (R250) -/
  | copyPacketStart (q : Nat)
  /-- After the last granule, the engine decrements ABAR and writes the completion record. (R250) -/
  | copyComplete (q : Nat)
  /-- A task blocked for 2^20 counts takes a claim on the resources it needs. (R288) -/
  | resourceClaim (l : Nat)
  /-- At the start count S the placed gang's members begin, with GBASE equal to S. (R297) -/
  | gangStart (g : Nat)
  /-- A cold array group begins power-up in its slot. (R298) -/
  | groupPowerUpBegin (d g : Nat)
  /-- An array group becomes powered 256 counts after power-up begins, with zeroed state. (R298) -/
  | groupPowered (d g : Nat)
  /-- A group that no context has owned for 65,536 counts powers down. (R298) -/
  | groupPowerDown (d g : Nat)
  /-- Once every member presents, a gang checkpoint commits: release, free, capture and pending requests. (R309) -/
  | checkpointCommit (g : Nat)
  /-- After its DQ entries leave WAIT, a pre-empted member saves its state to the save area. (R326) -/
  | preemptSave (g : Nat)
  /-- At the re-based count C every member reissues its checkpoint group. (R315) -/
  | rollbackResume (g : Nat)
  /-- After the restore, the handler context of a faulting member's die starts in exposed mode. (R319) -/
  | handlerStart (d c : Nat)
  /-- At the checkpoint of a rerun, step counts and signatures are recorded and compared, which commits or retires dies. (R323) -/
  | rerunCheckpoint (g : Nat)
  /-- An aborted gang frees its resources, writes its dump if the cause was a trap, and writes its record. (R304) -/
  | gangAbort (g : Nat) (why : AbortCause)
  /-- Once every member has exited and every released write has performed, the gang ends. (R135) -/
  | gangEnd (g : Nat)
  /-- A launch completes: barriers are decremented and the completion record is written, status last. (R289) -/
  | taskComplete (l status cause : Nat)
  /-- A successor named by EXITS starts in place at the next fitting period boundary. (R299) -/
  | successorStart (g : Nat)
  /-- Once every member has presented RESYNC, all issue at count C with the new GBASE. (R257) -/
  | resyncRelease (g : Nat)
  /-- Transmission resumes on the spare with replay from E − 64. (R351) -/
  | failoverResume (ident : Nat)
  /-- A queued LPARK or LWAKE acts at the port die. (R255) -/
  | lanternRequestAct (id : Nat)
  /-- Armed groups begin waking when the elastic queue reaches the threshold. (R353) -/
  | armedWake (ident : Nat)
  /-- A waking group locks, and the striping widens from the next count. (R353) -/
  | groupLocked (ident : Nat) (mask : BitVec 64)
  /-- Groups needed by a timed run start waking 30 slots before it. (R344) -/
  | timetableWake (ident : Nat) (mask : BitVec 64)
  /-- After a timed run, groups not needed soon are parked. (R344) -/
  | timetablePark (ident : Nat) (mask : BitVec 64)
  /-- The Lanterns switch to the selected phase at the gang's period boundary. (R256) -/
  | phaseSwitch (g : Nat)
  /-- An elastic read frame is served at its home. (R354) -/
  | elasticRead (f : Frame)
  /-- An elastic write frame performs at its home. (R354) -/
  | elasticWrite (f : Frame)
  /-- An elastic atomic frame performs at its home. (R354) -/
  | elasticAtomic (f : Frame)
  /-- A read reply frame returns data to the requester. (R349) -/
  | readReply (f : Frame)
  /-- A row server reads the requested rows from its table entry. (R190) -/
  | rowRequest (f : Frame)
  /-- A row reply returns the packed elements to the DQ entry. (R190) -/
  | rowReply (f : Frame)
  /-- A PATH-LOST status frame poisons the request's entry, promise or completion. (R350) -/
  | statusFrame (f : Frame)
  /-- An intermediate port die forwards an elastic frame and increments HOP. (R349) -/
  | elasticForward (f : Frame)
  /-- A request with no reply after 2^22 counts ends as PATH-LOST. (R350) -/
  | pathLostTimeout (id : Nat)
  /-- An invalidation completes after every access that used an old entry has performed. (R328) -/
  | invalidationComplete (asid base len : Nat)
  /-- A pin removal takes effect after every transfer that used the entry has completed. (R329) -/
  | pinRemoval (d e : Nat)
  /-- The base timetable takes effect at the next multiple of 2^22 counts. (R343) -/
  | baseTimetableInstall (ident : Nat)
  /-- A write of PSUBL starts proofing of the staged image, or sets OVR while busy. (R368) -/
  | proofingSubmit (v : Word)
  /-- A write of OFFREQ refuses, reports NO-ROOM, or pre-empts and starts taking a die offline. (R306) -/
  | offlineRequest (v : Word)
  /-- A copy engine's destination granule performs whole at its home, in ascending address, with the source bytes read as they
  stood before the copy wrote. (R250) -/
  | copyGranulePerform (q k : Nat)
  /-- The dispatcher arbitrates launch queues and ready tasks and disposes of at most one launch. (R287) -/
  | launchRound
  /-- A package that loses lock aborts every gang and task with a context on it. (R336) -/
  | clockLockLoss
  /-- Mailbox command that registers a queue under an ASID. (R286) -/
  | qreg
  /-- Mailbox command that unregisters a queue, refused while WIX ≠ RIX. (R365) -/
  | qdereg
  /-- Mailbox command that sets the translation root of an ASID. (R327) -/
  | asidroot
  /-- Mailbox command that invalidates slice entries by ASID and range. (R328) -/
  | inval
  /-- Mailbox command that writes a pin-table entry. (R329) -/
  | pin
  /-- Mailbox command that writes a row-server entry. (R190) -/
  | rowsrv
  /-- Mailbox command that writes a forwarding entry. (R349) -/
  | fwd
  /-- Mailbox command that installs a base timetable. (R343) -/
  | basett
  /-- Mailbox command that registers or unregisters a sealed handler image. (R318) -/
  | handler
  /-- Mailbox command that pre-empts a gang at its next common checkpoint. (R302) -/
  | preempt
  /-- Mailbox command that ends a gang at its next commit with status ABORTED. (R304) -/
  | stop
  /-- Mailbox command that writes a signed attestation report. (R367) -/
  | attest
  /-- Mailbox command that frees a sealed image that nothing names. (R365) -/
  | unseal
  /-- Mailbox command that maps a BAR4 queue page to a stack frame. (R361) -/
  | qpage
  /-- Mailbox command that verifies a firmware image and stores it in flash. (R365) -/
  | fwstage
  /-- Proofing ends, writes PRES with the result or the handle and sends vector 1. (R66) -/
  | proofingDone
  /-- A copy engine moves a used frame to a new home and installs its remap entry. (R306) -/
  | frameMove
  /-- The offline request ends with code 2 or 4 and the die becomes offline. (R306) -/
  | offlineDone
  /-- A function-level reset aborts all work, unregisters queues and clears state. (R360) -/
  | functionLevelReset
  /-- An entry to D3hot has the effects of a function-level reset. (R360) -/
  | d3hotEntry
  /-- After a function-level reset or D3hot entry has cleared state, DEVSTAT.READY returns to 1 within 2^24 counts and the
  dispatcher accepts launches again. (R360) -/
  | readyReturn
  /-- An error retry moves later granules of the channel one slot and may set RETRY. (R236) -/
  | burstRetry (stack channel frame : Nat)
  /-- An uncorrectable memory error poisons the granule and the transfer's promise. (R236) -/
  | memoryUncorrectable (stack off : Nat)
  /-- A member package receives a request to reserve members of a multi-package gang. (R296) -/
  | reserveRequest (r : Reservation)
  /-- A package's reservation or refusal reply fixes the start or releases the reservations. (R296) -/
  | reserveReply (r : ReserveAnswer)
  /-- A detected storage error that cannot be repaired raises soft-error and starts a double rerun. (R322) -/
  | softError (d c kind num : Nat)
  /-- An uncorrectable error in the bank, weight buffer, tag table or plates raises a fatal trap. (R321) -/
  | bankUncorrectable (d c addr : Nat)
  /-- An edge flit with a bad CRC is resent; a second failure takes the edge out of service. (R334) -/
  | edgeCrcFail (e : Nat) (again : Bool)
  /-- The root's epoch arrives and BELFRY is loaded with it plus the measured delay. (R335) -/
  | epochArrival (v delay : Nat)
  /-- Power-on reset clears the state and runs the boot stages and domain initialisation. (R50) -/
  | powerOnReset (b : BootInputs)
  /-- A received flit is accepted in LSEQ order, or dropped as a duplicate or when the buffer is full. (R338) -/
  | flitReceive (ident lseq : Nat) (f : Flit)
  /-- A NACK makes the sender replay from the named flit, or reset the stream if the flit is gone. (R348) -/
  | nack (ident lseq : Nat)
  /-- A Lantern failure is detected, and its identity starts moving to the hot spare. (R351) -/
  | lanternFault (ident : Nat)
  /-- A host write to a BAR0 register that has no behaviour of its own. (R362) -/
  | registerWrite (off size : Nat) (v : Word)
  /-- A host read through BAR2 performs at its second-tier home. (R275) -/
  | hostBar2Read (off size : Nat)
  /-- A host write through BAR2 performs at its home in arrival order. (R275) -/
  | hostBar2Write (off : Nat) (data : List Byte)
  /-- A host access to a BAR4 queue page reaches its mapped frame. (R361) -/
  | hostBar4Access (off size : Nat) (data : Option (List Byte))
  /-- Every 65,536 counts firmware measures power and temperature and applies the limits. (R370) -/
  | telemetryWindow (m : Measures)
  /-- A PCI Express completion for a device read of host memory returns data, or Unsupported Request or Completer Abort status
  that is delivered as an address-range fault. (R327) -/
  | hostReadCompletion (id : Nat) (data : Option (List Byte))
  deriving DecidableEq, Repr

end Sys2Proof
end

