-- ==== Sys2Proof/Machine/Fields.lean ====
section
/-!
DEFINITION. What the fields of a slot word mean and which values proofing rejects: format codes and sets, widened
immediates, and for each instruction the limits of its own fields (02 R56–R63, 03 R74–R86, and the field limits that the
instruction chapters state).
-/

namespace Sys2Proof

/-- The rejection codes of Tables 2-10 and 14-9 (R66, R368). -/
inductive Reject where
  | imageFormat | dieKind | groupShape | maskOverlap | opcode | mbz | reservedValue | format | extension
  | collision | plate | bounds | target | inFlight | guardedRegion | regionLength | privilege | sealSpace | source
  deriving DecidableEq, Repr, Inhabited

/-- The code of a rejection (Table 2-10, R368). -/
def Reject.code : Reject → Nat
  | imageFormat => 0x0101 | dieKind => 0x0102 | groupShape => 0x0103 | maskOverlap => 0x0104 | opcode => 0x0105
  | mbz => 0x0106 | reservedValue => 0x0107 | format => 0x0108 | extension => 0x0109 | collision => 0x010A
  | plate => 0x010B | bounds => 0x010C | target => 0x010D | inFlight => 0x010E | guardedRegion => 0x010F
  | regionLength => 0x0110 | privilege => 0x0111 | sealSpace => 0x0112 | source => 0x0113

/-- The failure that proofing reports among several of one bundle: the lowest code (R66). -/
def Reject.lowest : List Reject → Option Reject
  | [] => none
  | r :: rs => match lowest rs with
    | none => some r
    | some q => some (if q.code < r.code then q else r)

/-- A check: its failure, if the condition holds. -/
def rejectIf (c : Bool) (r : Reject) : List Reject := if c then [r] else []

/-! ### Field value codes -/

/-- The FMT code of a format (Table 2-6). -/
def Fmt.code : Fmt → BitVec 5
  | f64 => 0x00 | f32 => 0x01 | f16 => 0x02 | bf16 => 0x03 | f8a => 0x04 | f8b => 0x05 | f4 => 0x06
  | i8 => 0x08 | i16 => 0x09 | i32 => 0x0A | i64 => 0x0B | i4 => 0x0C
  | n8 => 0x10 | n16 => 0x11 | n32 => 0x12 | n64 => 0x13
  | hb8a => 0x18 | hb8b => 0x19 | hb4 => 0x1A | hbi8 => 0x1B | hbi4 => 0x1C

/-- The format of a code; `none` for a reserved code (R59). -/
def Fmt.ofCode (c : BitVec 5) : Option Fmt :=
  match c.toNat with
  | 0x00 => some f64 | 0x01 => some f32 | 0x02 => some f16 | 0x03 => some bf16 | 0x04 => some f8a
  | 0x05 => some f8b | 0x06 => some f4 | 0x08 => some i8 | 0x09 => some i16 | 0x0A => some i32 | 0x0B => some i64
  | 0x0C => some i4 | 0x10 => some n8 | 0x11 => some n16 | 0x12 => some n32 | 0x13 => some n64
  | 0x18 => some hb8a | 0x19 => some hb8b | 0x1A => some hb4 | 0x1B => some hbi8 | 0x1C => some hbi4
  | _ => none

/-- The element width in bits (Table 2-6); for a block format the width of its elements (R90). -/
def Fmt.width : Fmt → Nat
  | f64 | i64 | n64 => 64
  | f32 | i32 | n32 => 32
  | f16 | bf16 | i16 | n16 => 16
  | f8a | f8b | i8 | n8 | hb8a | hb8b | hbi8 => 8
  | f4 | i4 | hb4 | hbi4 => 4

/-- A signed integer format. -/
def Fmt.isSigned : Fmt → Bool
  | i8 | i16 | i32 | i64 | i4 => true
  | _ => false

/-- An unsigned integer format. -/
def Fmt.isUnsigned : Fmt → Bool
  | n8 | n16 | n32 | n64 => true
  | _ => false

/-- An integer format. -/
def Fmt.isInt (f : Fmt) : Bool := f.isSigned || f.isUnsigned

/-- A format whose elements are integers: an integer format, or a block format of integers. -/
def Fmt.intElems (f : Fmt) : Bool := f.isInt || f == .hbi8 || f == .hbi4

/-- Set VF of Table 3-1. -/
def Fmt.inVF : Fmt → Bool
  | f64 | f32 | f16 | bf16 => true
  | _ => false

/-- Set VN of Table 3-1. -/
def Fmt.inVN : Fmt → Bool
  | f8a | f8b | f4 => true
  | _ => false

/-- A floating-point format. -/
def Fmt.isFloat (f : Fmt) : Bool := f.inVF || f.inVN

/-- Set HB of Table 3-1. -/
def Fmt.inHB : Fmt → Bool
  | hb8a | hb8b | hb4 | hbi8 | hbi4 => true
  | _ => false

/-- Set VI of Table 3-1. -/
def Fmt.inVI : Fmt → Bool
  | i8 | i16 | i32 | i64 | n8 | n16 | n32 | n64 => true
  | _ => false

/-- Set VW of Table 3-1. -/
def Fmt.inVW (f : Fmt) : Bool := f.inVI || f == .i4

/-- Sets VI and VF together. -/
def Fmt.inVIF (f : Fmt) : Bool := f.inVI || f.inVF

/-- The RND code (Table 2-7). -/
def Rnd.code : Rnd → BitVec 3
  | ne => 0 | tz => 1 | up => 2 | dn => 3 | st => 4

/-- The rounding mode of a code; `none` for 101 to 111, which are reserved (R60). -/
def Rnd.ofCode (c : BitVec 3) : Option Rnd :=
  match c.toNat with
  | 0 => some ne | 1 => some tz | 2 => some up | 3 => some dn | 4 => some st | _ => none

/-- The OVF code (Table 2-7). -/
def Ovf.code : Ovf → BitVec 2
  | sat => 0 | inf => 1 | nan => 2 | trap => 3

/-- The overflow policy of a code (Table 2-7). -/
def Ovf.ofCode (c : BitVec 2) : Ovf :=
  match c.toNat with
  | 0 => sat | 1 => inf | 2 => nan | _ => trap

/-- The SCOPE code (Table 2-4). -/
def Scope.code : Scope → BitVec 2
  | ctx => 0 | pair => 1 | pkg => 2 | dom => 3

/-- The scope of a code (Table 2-4). -/
def Scope.ofCode (c : BitVec 2) : Scope :=
  match c.toNat with
  | 0 => ctx | 1 => pair | 2 => pkg | _ => dom

/-! ### Extension fields and widened immediates (R61, R62, Table 2-9) -/

/-- KIND of the lent extension; 0 where none is lent. -/
def Hdr.kind (h : Hdr) : Nat := (h.ext.getD 0).toNat >>> 18

/-- WIDE of an extension of KIND 00; 0 where none is lent. -/
def Hdr.wide (h : Hdr) : Nat := if h.kind = 0 then (h.ext.getD 0).toNat % 2 ^ 18 else 0

/-- CMASK of an extension of KIND 01. -/
def Hdr.cmask (h : Hdr) : Nat := ((h.ext.getD 0).toNat >>> 10) % 2 ^ 8

/-- The low widening bits of KIND 01. -/
def Hdr.wide10 (h : Hdr) : Nat := (h.ext.getD 0).toNat % 2 ^ 10

/-- A signed immediate of w bits, widened by n bits where an extension is lent. -/
def Hdr.widenS (h : Hdr) (w : Nat) (imm : Nat) : Int :=
  match h.ext with
  | none => sval w imm
  | some _ => sval (w + 18) (h.wide * 2 ^ w + imm)

/-- An unsigned immediate of w bits, widened where an extension is lent. -/
def Hdr.widenN (h : Hdr) (w : Nat) (imm : Nat) : Nat :=
  match h.ext with
  | none => imm
  | some _ => h.wide * 2 ^ w + imm

/-- IMM of SCALAR-RI: 32 or 50 bits, signed. -/
def RI.value (h : Hdr) (o : RI) : Int := h.widenS 32 o.imm.toNat

/-- IMM of SYS: 24 or 42 bits, unsigned. -/
def Sys.value (h : Hdr) (o : Sys) : Nat := h.widenN 24 o.imm.toNat

/-- OFF of BRANCH: 34 bits, signed, in 8-byte units. -/
def Branch.value (o : Branch) : Int := o.off.toInt

/-- IMM of VEC-RRI: 21 bits, 39 bits under KIND 00, 31 bits under KIND 01, signed. -/
def VRRI.value (h : Hdr) (o : VRRI) : Int :=
  match h.ext with
  | none => sval 21 o.imm.toNat
  | some _ =>
    if h.kind = 1 then sval 31 (h.wide10 * 2 ^ 21 + o.imm.toNat) else sval 39 (h.wide * 2 ^ 21 + o.imm.toNat)

/-- ROFF of NET: 18 or 36 bits, signed. -/
def Net.value (h : Hdr) (o : Net) : Int := h.widenS 18 o.roff.toNat

/-- IMM of IDX: 18 or 36 bits, unsigned. -/
def Idx.value (h : Hdr) (o : Idx) : Nat := h.widenN 18 o.imm.toNat

/-- IMM of SCALE: 18 or 36 bits, signed. -/
def Scale.value (h : Hdr) (o : Scale) : Int := h.widenS 18 o.imm.toNat

/-- IMM of XFER: 15 or 33 bits, unsigned. -/
def Xfer.value (h : Hdr) (o : Xfer) : Nat := h.widenN 15 o.imm.toNat

/-- The select plate of a TILE word with SP = 1: WIDE[10:0] (R62). -/
def Tile.selectPlate (h : Hdr) (_o : Tile) : Nat := h.wide % 2 ^ 11

/-- What a format lets an extension do (Table 2-9). -/
inductive ExtUse where
  | none | wide | clusterR | clusterI | tile (sp row : Bool)
  deriving DecidableEq, Repr

/-- Checks of a cluster mask: nonzero, with the carrier's cluster as its lowest bit (R63). -/
def cmaskBad (h : Hdr) : Bool :=
  h.cmask == 0 || h.cmask % 2 ^ (h.cls.toNat - 2) != 0 || !bit (h.cls.toNat - 2) h.cmask

/-- Checks of the extension field that a slot was lent (R61–R63). -/
def extRejects (u : ExtUse) (h : Hdr) : List Reject :=
  match h.ext with
  | .none => rejectIf (match u with | .tile sp _ => sp | _ => false) .extension
  | some _ =>
    if 2 ≤ h.kind then [.reservedValue]
    else match u with
      | .none => [.extension]
      | .wide => rejectIf (h.kind == 1) .extension
      | .clusterR =>
        if h.kind = 1 then rejectIf (h.wide10 != 0) .mbz ++ rejectIf (cmaskBad h || h.wide10 != 0) .extension
        else [.extension]
      | .clusterI => rejectIf (h.kind == 1 && cmaskBad h) .extension
      | .tile sp row =>
        if h.kind = 1 then [.extension]
        else if sp then rejectIf (2 ^ 11 ≤ h.wide) .mbz
        else rejectIf (!row) .extension

/-- Checks of the guard field (R57): outside the clusters it names q0 to q7, and GN on p0 or q0 is reserved. -/
def guardRejects (cluster : Bool) (h : Hdr) : List Reject :=
  rejectIf ((!cluster && 8 ≤ h.g.toNat) || (h.g == 0 && h.gn)) .reservedValue

/-! ### Register roles (R56) -/

/-- What a 6-bit register field names: a file of 64, a file of n registers, nothing (it must be zero), or a number that
the instruction checks itself. -/
inductive Role where
  | full | file (n : Nat) | unused | number
  deriving DecidableEq, Repr

/-- The failure of a register field under its role. -/
def Role.rejects (r : Role) (n : BitVec 6) : List Reject :=
  match r with
  | full => []
  | file k => rejectIf (k ≤ n.toNat) .reservedValue
  | unused => rejectIf (n != 0) .mbz
  | number => []

/-- A field that must be zero. -/
def zeroField {w : Nat} (x : BitVec w) : List Reject := rejectIf (x != 0) .mbz

/-! ### Scalar formats -/

/-- Checks of a SCALAR-RRR word: `fn` holds the bits of FN that carry meaning (the others must be zero, R77), `bad` a
value outside the stated codes, and RND must be 000 where the opcode does not round (R76). -/
def RRR.rejects (h : Hdr) (o : RRR) (d y z : Role) (fn : BitVec 6) (bad rndUsed : Bool) : List Reject :=
  guardRejects false h ++ extRejects .none h ++ d.rejects o.d ++ y.rejects o.y ++ z.rejects o.z ++
  zeroField (o.fn &&& ~~~fn) ++ rejectIf (!rndUsed && o.rnd != .ne) .mbz ++ rejectIf bad .reservedValue

/-- Checks of a SCALAR-RI word. -/
def RI.rejects (h : Hdr) (o : RI) (x : Role) (fn : BitVec 6) (bad : Bool) : List Reject :=
  guardRejects false h ++ extRejects .wide h ++ x.rejects o.x ++ zeroField (o.fn &&& ~~~fn) ++ rejectIf bad .reservedValue

/-- Checks of a BRANCH word. -/
def Branch.rejects (h : Hdr) (o : Branch) (x y : Role) (fn : BitVec 4) (bad offUsed : Bool) : List Reject :=
  guardRejects false h ++ extRejects .none h ++ x.rejects o.x ++ y.rejects o.y ++ zeroField (o.fn &&& ~~~fn) ++
  rejectIf (!offUsed && o.off != 0) .mbz ++ rejectIf bad .reservedValue

/-- Which fields of a SYS word an instruction uses. -/
structure SysUse where
  d : Bool := false
  x : Bool := false
  sr : Bool := false
  scope : Bool := false
  cls : Bool := false
  /-- the exclusive limit of IMM; 1 where IMM must be zero -/
  imm : Nat := 1
  deriving DecidableEq, Repr

/-- Checks of a SYS word. -/
def Sys.rejects (h : Hdr) (o : Sys) (u : SysUse) : List Reject :=
  guardRejects false h ++ extRejects .wide h ++
  rejectIf (!u.d && o.d != 0) .mbz ++ rejectIf (!u.x && o.x != 0) .mbz ++ rejectIf (!u.sr && o.sr != 0) .mbz ++
  rejectIf (!u.scope && o.scope != .ctx) .mbz ++ rejectIf (!u.cls && o.cls != 0) .mbz ++
  rejectIf (u.imm ≤ o.value h) .mbz

/-- A load of 8 bytes has no sign extension: FN[2] with the size code 3 is outside the stated codes (R77, R119). -/
def loadFnBad (o : RI) : Bool := bits 2 0 o.fn.toNat == 7

/-- A bit field that leaves the register, position + width beyond 64, and bits of its immediate above the field's (R115). -/
def bitFieldBad (h : Hdr) (o : RI) : Bool :=
  64 < bits 5 0 o.imm.toNat + bits 11 6 o.imm.toNat + 1 || bits 31 12 o.imm.toNat != 0 || h.wide != 0

/-- A system register that exists on the die type (Table 1-9). -/
def sysRegExists (k : DieKind) (n : Nat) : Bool := n ≤ 0x17 && !(k == .m && n == 0x0B)

/-- A system register that WRSR may name: RW or WC for the writer (R42). -/
def sysRegWritable (handler : Bool) (n : Nat) : Bool :=
  (0x09 ≤ n && n ≤ 0x0D) ||
  (handler && (n == 0x01 || n == 0x02 || n == 0x05 || n == 0x06 || n == 0x07 || n == 0x0E || (0x10 ≤ n && n ≤ 0x17)))

/-! ### Vector formats -/

/-- Which of OVF, RND and FTZ an opcode gives meaning to ("Uses" of Table 3-4). -/
structure Uses where
  o : Bool := false
  r : Bool := false
  z : Bool := false
  deriving DecidableEq, Repr

def usesORZ : Uses := { o := true, r := true, z := true }
def usesZ : Uses := { z := true }
def usesOZ : Uses := { o := true, z := true }
def usesO : Uses := { o := true }
def usesRZ : Uses := { r := true, z := true }
def usesNone : Uses := {}

/-- Checks of OVF, RND and FTZ (R76): fields not used hold the assembler's default; for integer elements, those of an
integer block format among them, OVF 10 is reserved; where every operand and the result are integer RND and FTZ hold
their defaults. -/
def usesRejects (u : Uses) (destInt allInt : Bool) (ovf : Ovf) (rnd : Rnd) (ftz : Bool) : List Reject :=
  rejectIf ((!u.o && ovf != .inf) || (!u.r && rnd != .ne) || (!u.z && ftz) || (destInt && ovf == .nan) ||
    (allInt && (rnd != .ne || ftz))) .reservedValue

/-- Checks of a VEC-RRRR word: accepted formats, uses, whether the result and whether every operand and the result are integer,
roles of d, x, y, z, the SUB bits that have a meaning, and a condition of the instruction's own. -/
def VRRRR.rejectsAs (h : Hdr) (o : VRRRR) (cluster : Bool) (acc : Fmt → Bool) (u : Uses) (destInt allInt : Bool) (d x y z : Role)
    (subMask : BitVec 6) (bad : Bool) : List Reject :=
  guardRejects cluster h ++ extRejects (if cluster then .clusterR else .none) h ++
  rejectIf (!acc o.fmt) .format ++ usesRejects u destInt allInt o.ovf o.rnd o.ftz ++
  d.rejects o.d ++ x.rejects o.x ++ y.rejects o.y ++ z.rejects o.z ++ rejectIf (o.sub &&& ~~~subMask != 0) .mbz ++
  rejectIf bad .reservedValue

/-- A VEC-RRRR word whose operands and result have the format FMT. -/
def VRRRR.rejects (h : Hdr) (o : VRRRR) (cluster : Bool) (acc : Fmt → Bool) (u : Uses) (d x y z : Role)
    (subMask : BitVec 6) (bad : Bool) : List Reject :=
  o.rejectsAs h cluster acc u o.fmt.intElems o.fmt.isInt d x y z subMask bad

/-- A VEC-RRRR word that converts into FMT (R76: RND and FTZ keep their meaning unless source and destination are both
integer). -/
def VRRRR.rejectsConv (h : Hdr) (o : VRRRR) (cluster : Bool) (acc : Fmt → Bool) (srcInt : Bool) (d x y z : Role)
    (subMask : BitVec 6) (bad : Bool) : List Reject :=
  o.rejectsAs h cluster acc usesORZ o.fmt.intElems (o.fmt.isInt && srcInt) d x y z subMask bad

/-- Checks of a VEC-RRI word. -/
def VRRI.rejects (h : Hdr) (o : VRRI) (acc : Fmt → Bool) (u : Uses) (d x : Role) (subMask : BitVec 6)
    (bad : Bool) : List Reject :=
  guardRejects true h ++ extRejects .clusterI h ++
  rejectIf (!acc o.fmt) .format ++ usesRejects u o.fmt.intElems o.fmt.isInt o.ovf o.rnd o.ftz ++
  d.rejects o.d ++ x.rejects o.x ++ rejectIf (o.sub &&& ~~~subMask != 0) .mbz ++ rejectIf bad .reservedValue

/-- Predicate registers. -/
abbrev Role.p : Role := .file 16
/-- Reduction latches, and stipple latches of a tile word's own fields. -/
abbrev Role.a : Role := .file 4
/-- Scalar predicates. -/
abbrev Role.q : Role := .file 8

/-- The source format that VCVT names in SUB and RDRN in z (R156, R168). -/
def cvtSource (n : BitVec 6) : Option Fmt := if n.toNat < 32 then Fmt.ofCode (BitVec.ofNat 5 n.toNat) else none

/-- An integer value that a vector immediate may hold for a format (R147). -/
def immFits (f : Fmt) (v : Int) : Bool :=
  if f.isSigned then -(2 ^ (f.width - 1) : Int) ≤ v && v < 2 ^ (f.width - 1) else 0 ≤ v && v < 2 ^ f.width

/-- Limits of VQBLK's SUB and immediate fields (R160, Table 6-5). -/
def vqblkBad (h : Hdr) (o : VRRI) : Bool :=
  let v := o.value h
  let cap := (v / 8 % 16).toNat
  v < 0 || 2 ^ 16 ≤ v || 8 < cap || (bits 5 4 o.sub.toNat == 0 && (bits 3 0 o.sub.toNat != 0 || cap != 0))

/-- Limits of PSET's immediate (R166, Table 6-7). -/
def psetBad (h : Hdr) (o : VRRI) : Bool :=
  let v := o.value h
  let n : Int := (1024 / o.fmt.width : Nat)
  match o.sub.toNat with
  | 0 | 1 => v < 0 || n < v
  | 2 => v < 0 || 2 ^ 16 ≤ v || v % 256 < 1 || n < v % 256 || v % 256 ≤ v / 256 % 256
  | _ => true

/-! ### The other formats -/

/-- Checks of a NET word. -/
def Net.rejects (h : Hdr) (o : Net) (d b : Bool) (roff : Nat) (bad mbz : Bool) : List Reject :=
  guardRejects false h ++ extRejects .wide h ++
  rejectIf (!d && o.d != 0) .mbz ++ rejectIf (!b && o.b != 0) .mbz ++
  rejectIf (roff = 0 && o.value h != 0) .mbz ++ rejectIf (roff = 1 && o.value h != 0 && o.value h != 1) .mbz ++
  rejectIf mbz .mbz ++ rejectIf bad .reservedValue

/-- Checks of an IDX word. -/
def Idx.rejects (h : Hdr) (o : Idx) (acc : Fmt → Bool) (d x y : Role) (tk imm : Bool) (subMask : BitVec 6)
    (bad mbz : Bool) : List Reject :=
  guardRejects false h ++ extRejects .wide h ++ rejectIf (!acc o.fmt) .format ++
  d.rejects o.d ++ x.rejects o.x ++ y.rejects o.y ++ rejectIf (!tk && o.tk != 0) .mbz ++
  rejectIf (!imm && o.value h != 0) .mbz ++ rejectIf (o.sub &&& ~~~subMask != 0) .mbz ++ rejectIf mbz .mbz ++
  rejectIf bad .reservedValue

/-- Only FMT = 0 (Table 3-6). -/
def Fmt.isZero (f : Fmt) : Bool := f == .f64

/-- Which fields of a TILE word an instruction uses. -/
structure TileUse where
  td : Bool := false
  tx : Bool := false
  n : Bool := false
  cap : Bool := false
  b : Bool := false
  ks : Bool := false
  js : Bool := false
  sp : Bool := false
  /-- WIDE is a row offset (MMA, MMAZ with SP = 0) -/
  row : Bool := false
  deriving DecidableEq, Repr

/-- Checks of a TILE word. -/
def Tile.rejects (h : Hdr) (o : Tile) (fmtOk : Bool) (u : TileUse) (bad mbz : Bool) : List Reject :=
  guardRejects false h ++ extRejects (.tile o.sp u.row) h ++ rejectIf (!fmtOk) .format ++
  rejectIf (!u.td && o.td != 0) .mbz ++ rejectIf (!u.tx && o.tx != 0) .mbz ++ rejectIf (!u.n && o.n != 0) .mbz ++
  rejectIf (!u.cap && o.cap != 0) .mbz ++ rejectIf (!u.b && o.b != 0) .mbz ++ rejectIf (!u.ks && o.ks != 0) .mbz ++
  rejectIf (!u.js && o.js != 0) .mbz ++ rejectIf (!u.sp && o.sp) .mbz ++ rejectIf mbz .mbz ++
  rejectIf bad .reservedValue

/-- FA = FB = 0. -/
def Tile.fmtsZero (o : Tile) : Bool := o.fa.isZero && o.fb.isZero

/-- Format pairs of MMA and MMAZ (Table 3-8). -/
def Tile.mmaPair (o : Tile) : Bool :=
  (o.fa.inHB && o.fb.inHB) || (o.fa == o.fb && (o.fa == .bf16 || o.fa == .f16 || o.fa == .f64))

/-- Limits of MMA and MMAZ: a latch in TX, CAP up to 64 and only for a block format, the FP64 form's even TD and 32
rows, and scale registers within their eight (R84, R208, R210, R212, R218). Of a block FA beside an FB that is no block format the
registers' number has no stated value: DESIGN CHOICE of log 54, the pair's FORMAT alone is reported. -/
def Tile.mmaBad (o : Tile) : Bool :=
  4 ≤ o.tx.toNat || 64 < o.cap.toNat || (o.cap != 0 && !o.fa.inHB) ||
  (o.fa == .f64 && (31 < o.n.toNat || o.td.toNat % 2 == 1 || 1 < o.ks.toNat || o.sp)) ||
  ((o.fa == .bf16 || o.fa == .f16) && o.ks != 0) ||
  (o.fa.inHB && o.fb.inHB &&
    8 < o.ks.toNat + ceilDiv ((o.n.toNat + 1) * ((if o.sp then 256 else 128) / 32)) 64)

/-- Checks of a TILE-ST word. -/
def TileSt.rejects (h : Hdr) (o : TileSt) (fmtOk : Bool) (bad mbz : Bool) : List Reject :=
  guardRejects false h ++ extRejects .none h ++ rejectIf (!fmtOk) .format ++ rejectIf mbz .mbz ++
  rejectIf bad .reservedValue

/-- Which fields of an XFER word an instruction uses. -/
structure XferUse where
  d : Bool := false
  x : Bool := false
  y : Bool := false
  z : Bool := false
  pr : Bool := false
  scope : Bool := false
  imm : Bool := false
  sub : BitVec 6 := 0
  deriving DecidableEq, Repr

/-- Checks of an XFER word. -/
def Xfer.rejects (h : Hdr) (o : Xfer) (u : XferUse) (bad mbz : Bool) : List Reject :=
  guardRejects false h ++ extRejects .wide h ++
  rejectIf (!u.d && o.d != 0) .mbz ++ rejectIf (!u.x && o.x != 0) .mbz ++ rejectIf (!u.y && o.y != 0) .mbz ++
  rejectIf (!u.z && o.z != 0) .mbz ++ rejectIf (!u.pr && o.pr != 0) .mbz ++
  rejectIf (!u.scope && o.scope != .ctx) .mbz ++ rejectIf (!u.imm && o.value h != 0) .mbz ++
  rejectIf (o.sub &&& ~~~u.sub != 0) .mbz ++ rejectIf mbz .mbz ++ rejectIf bad .reservedValue

end Sys2Proof
end

