-- ==== Sys2Proof/Machine/Limits.lean ====
section
/-!
DEFINITION. For every slot instruction its operands, its opcode (03 Tables 3-2 to 3-9), the classes it may stand in, and
the failures that its own fields earn (02 Table 2-10).
-/

namespace Sys2Proof

/-- The operand fields of a slot word. -/
inductive Operands where
  | rrr (o : RRR)
  | ri (o : RI)
  | branch (o : Branch)
  | sys (o : Sys)
  | vrrrr (o : VRRRR)
  | vrri (o : VRRI)
  | net (o : Net)
  | idx (o : Idx)
  | tile (o : Tile)
  | tileSt (o : TileSt)
  | scale (o : Scale)
  | xfer (o : Xfer)
  deriving DecidableEq, Repr

/-- The slot classes that an opcode is assigned in (Tables 3-2 to 3-9). -/
inductive Home where
  | s01 | s0 | cl | rd | ix | nab | na | nb | nbv | nbm | nw | nwv | t | sc | oq | xf | xfv
  deriving DecidableEq, Repr

/-- Whether class index `cls` of a die type is one of them (Table 2-2). -/
def Home.has (k : DieKind) (cls : Nat) : Home → Bool
  | s01 => cls == 0 || (k == .v && cls == 1)
  | s0 => cls == 0
  | cl => k == .v && 2 ≤ cls && cls ≤ 9
  | rd => k == .v && cls == 10
  | ix => k == .v && cls == 11
  | nab => k == .v && (cls == 12 || cls == 13)
  | na => cls == 12
  | nb => cls == 13
  | nbv => k == .v && cls == 13
  | nbm => k == .m && cls == 13
  | nw => cls == 14
  | nwv => k == .v && cls == 14
  | t => k == .m && 2 ≤ cls && cls ≤ 5
  | sc => k == .m && cls == 6
  | oq => k == .m && cls == 7
  | xf => cls == 15
  | xfv => k == .v && cls == 15

/-- Whether a class index exists on a die type (Table 2-2). -/
def classExists (k : DieKind) (cls : Nat) : Bool :=
  match k with
  | .v => cls ≤ 15
  | .m => cls ≤ 15 && cls != 1 && !(8 ≤ cls && cls ≤ 11)

/-- VMULW's formats (Table 3-4). -/
def Fmt.inMulw : Fmt → Bool
  | i8 | i16 | i32 | n8 | n16 | n32 | f16 | bf16 => true
  | _ => false

/-- VSF's formats (Table 3-4). -/
def Fmt.inVsf : Fmt → Bool
  | f32 | f16 | bf16 => true
  | _ => false

/-- Formats that VCVT converts from and to (R156). -/
def Fmt.inCvt (f : Fmt) : Bool := f.inVIF || f.inVN

/-- IXPUSH's index formats (Table 3-6). -/
def Fmt.inIxw : Fmt → Bool
  | i32 | i64 | n32 | n64 => true
  | _ => false

/-- SCAT's formats (Table 3-6). -/
def Fmt.inScat : Fmt → Bool
  | f32 | f64 => true
  | _ => false

/-- Limits of VCMP's and VCMPI's SUB (R148): condition 7, condition 6 on integers or in total order, and the float-only
bits on integers. -/
def vcmpBad (f : Fmt) (sub : BitVec 6) : Bool :=
  let c := sub.toNat % 8
  c == 7 || (bit 3 sub.toNat && c == 6) || (f.isInt && (c == 6 || bit 3 sub.toNat || bit 4 sub.toNat))

/-- Limits of VCVT: a source format of VI, VF or VN in SUB, and a part number that exists (R156). -/
def vcvtBad (o : VRRRR) : Bool :=
  match cvtSource o.sub with
  | none => true
  | some s => !s.inCvt ||
    Nat.max s.width o.fmt.width / Nat.min s.width o.fmt.width ≤ o.y.toNat

/-- The file of PMOV's d or x (R164). -/
def pmovRole (dest : Bool) (sub : BitVec 6) : Role :=
  match sub.toNat % 4 with
  | 0 => .p
  | 1 => if dest then .full else .p
  | 2 => if dest then .p else .full
  | _ => .full

/-- Limits of RDRN: a source format of VI or VF in z, and no part number where SUB[3] is set (R168). -/
def rdrnBad (o : VRRRR) : Bool :=
  match cvtSource o.z with
  | none => true
  | some s => !s.inVIF || (bit 3 o.sub.toNat && o.sub.toNat % 8 != 0)

/-- The header part of a slot instruction; `none` for idle bundles and events. -/
def Instr.hdr : Instr → Option Hdr
  | .add h _ => some h
  | .sub h _ => some h
  | .addi h _ => some h
  | .li h _ => some h
  | .lih h _ => some h
  | .sel h _ => some h
  | .min h _ => some h
  | .max h _ => some h
  | .minn h _ => some h
  | .maxn h _ => some h
  | .cmp h _ => some h
  | .and h _ => some h
  | .or h _ => some h
  | .xor h _ => some h
  | .andn h _ => some h
  | .orn h _ => some h
  | .shl h _ => some h
  | .shr h _ => some h
  | .shra h _ => some h
  | .rotl h _ => some h
  | .clz h _ => some h
  | .popc h _ => some h
  | .bfx h _ => some h
  | .bfi h _ => some h
  | .mul h _ => some h
  | .mulh h _ => some h
  | .mulhn h _ => some h
  | .madd h _ => some h
  | .divs h _ => some h
  | .divn h _ => some h
  | .rems h _ => some h
  | .remn h _ => some h
  | .fadd h _ => some h
  | .fmul h _ => some h
  | .fma h _ => some h
  | .fdiv h _ => some h
  | .fcvt h _ => some h
  | .fcmp h _ => some h
  | .lds h _ => some h
  | .sts h _ => some h
  | .ldh h _ => some h
  | .sth h _ => some h
  | .aadd h _ => some h
  | .ainc h _ => some h
  | .acas h _ => some h
  | .axchg h _ => some h
  | .br h _ => some h
  | .brc h _ => some h
  | .call h _ => some h
  | .ret h _ => some h
  | .jmpi h _ => some h
  | .loop h _ => some h
  | .waitt h _ => some h
  | .waitb h _ => some h
  | .exit h _ => some h
  | .exits h _ => some h
  | .trap h _ => some h
  | .rett h _ => some h
  | .rdsr h _ => some h
  | .wrsr h _ => some h
  | .fence h _ => some h
  | .drain h _ => some h
  | .guardEnter h _ => some h
  | .guardLeave h _ => some h
  | .vadd h _ => some h
  | .vsub h _ => some h
  | .vmul h _ => some h
  | .vmulh h _ => some h
  | .vfma h _ => some h
  | .vfms h _ => some h
  | .vmin h _ => some h
  | .vmax h _ => some h
  | .vabs h _ => some h
  | .vneg h _ => some h
  | .vmulw h _ => some h
  | .vand h _ => some h
  | .vor h _ => some h
  | .vxor h _ => some h
  | .vandn h _ => some h
  | .vshl h _ => some h
  | .vshr h _ => some h
  | .vshra h _ => some h
  | .vaddi h _ => some h
  | .vmovi h _ => some h
  | .vclz h _ => some h
  | .vpopc h _ => some h
  | .vcmp h _ => some h
  | .vcmpi h _ => some h
  | .vcswp h _ => some h
  | .vsel h _ => some h
  | .vbcs h _ => some h
  | .vidx h _ => some h
  | .vshuf h _ => some h
  | .vxcp h _ => some h
  | .vcvt h _ => some h
  | .vrndi h _ => some h
  | .vsf h _ => some h
  | .vqblk h _ => some h
  | .vdq h _ => some h
  | .pand h _ => some h
  | .por h _ => some h
  | .pxor h _ => some h
  | .pnot h _ => some h
  | .pmov h _ => some h
  | .pfirst h _ => some h
  | .pcnt h _ => some h
  | .pset h _ => some h
  | .racc h _ => some h
  | .rsum h _ => some h
  | .rmax h _ => some h
  | .rmin h _ => some h
  | .rargmax h _ => some h
  | .rscan h _ => some h
  | .rseg h _ => some h
  | .rdrn h _ => some h
  | .rclr h _ => some h
  | .rcmb h _ => some h
  | .ixpush h _ => some h
  | .ixpop h _ => some h
  | .ixcnt h _ => some h
  | .ixclr h _ => some h
  | .tlook h _ => some h
  | .tlookRead h _ => some h
  | .tset h _ => some h
  | .tclr h _ => some h
  | .tclrAll h _ => some h
  | .scat h _ => some h
  | .sacfgSet h _ => some h
  | .sacfgStat h _ => some h
  | .sacfgClr h _ => some h
  | .nrd h _ => some h
  | .nrdl h _ => some h
  | .nwr h _ => some h
  | .nwrTile h _ => some h
  | .nwrl h _ => some h
  | .ncopy h _ => some h
  | .nfill h _ => some h
  | .nsend h _ => some h
  | .nrecv h _ => some h
  | .npass h _ => some h
  | .trace h _ => some h
  | .mwb h _ => some h
  | .mldw h _ => some h
  | .mma h _ => some h
  | .mmaz h _ => some h
  | .mmaF64 h _ => some h
  | .mclr h _ => some h
  | .mcopy h _ => some h
  | .mfree h _ => some h
  | .mfreeLatch h _ => some h
  | .mst h _ => some h
  | .mqst h _ => some h
  | .mstat h _ => some h
  | .msel h _ => some h
  | .mscld h _ => some h
  | .oqpop h _ => some h
  | .tdmaIn h _ => some h
  | .tdmaOut h _ => some h
  | .rld h _ => some h
  | .rst h _ => some h
  | .send h _ => some h
  | .recv h _ => some h
  | .xpose h _ => some h
  | .xred h _ => some h
  | .cqpost h _ => some h
  | .barinit h _ => some h
  | .bararr h _ => some h
  | .oqpush h _ => some h
  | .lpark h _ => some h
  | .lwake h _ => some h
  | .ttsel h _ => some h
  | .resync h _ => some h
  | _ => none

/-- The operand fields of a slot instruction. -/
def Instr.operands : Instr → Option Operands
  | .add _ o => some (.rrr o)
  | .sub _ o => some (.rrr o)
  | .addi _ o => some (.ri o)
  | .li _ o => some (.ri o)
  | .lih _ o => some (.ri o)
  | .sel _ o => some (.rrr o)
  | .min _ o => some (.rrr o)
  | .max _ o => some (.rrr o)
  | .minn _ o => some (.rrr o)
  | .maxn _ o => some (.rrr o)
  | .cmp _ o => some (.rrr o)
  | .and _ o => some (.rrr o)
  | .or _ o => some (.rrr o)
  | .xor _ o => some (.rrr o)
  | .andn _ o => some (.rrr o)
  | .orn _ o => some (.rrr o)
  | .shl _ o => some (.rrr o)
  | .shr _ o => some (.rrr o)
  | .shra _ o => some (.rrr o)
  | .rotl _ o => some (.rrr o)
  | .clz _ o => some (.rrr o)
  | .popc _ o => some (.rrr o)
  | .bfx _ o => some (.ri o)
  | .bfi _ o => some (.ri o)
  | .mul _ o => some (.rrr o)
  | .mulh _ o => some (.rrr o)
  | .mulhn _ o => some (.rrr o)
  | .madd _ o => some (.rrr o)
  | .divs _ o => some (.rrr o)
  | .divn _ o => some (.rrr o)
  | .rems _ o => some (.rrr o)
  | .remn _ o => some (.rrr o)
  | .fadd _ o => some (.rrr o)
  | .fmul _ o => some (.rrr o)
  | .fma _ o => some (.rrr o)
  | .fdiv _ o => some (.rrr o)
  | .fcvt _ o => some (.rrr o)
  | .fcmp _ o => some (.rrr o)
  | .lds _ o => some (.ri o)
  | .sts _ o => some (.ri o)
  | .ldh _ o => some (.ri o)
  | .sth _ o => some (.ri o)
  | .aadd _ o => some (.rrr o)
  | .ainc _ o => some (.rrr o)
  | .acas _ o => some (.rrr o)
  | .axchg _ o => some (.rrr o)
  | .br _ o => some (.branch o)
  | .brc _ o => some (.branch o)
  | .call _ o => some (.branch o)
  | .ret _ o => some (.branch o)
  | .jmpi _ o => some (.branch o)
  | .loop _ o => some (.branch o)
  | .waitt _ o => some (.sys o)
  | .waitb _ o => some (.sys o)
  | .exit _ o => some (.sys o)
  | .exits _ o => some (.sys o)
  | .trap _ o => some (.sys o)
  | .rett _ o => some (.sys o)
  | .rdsr _ o => some (.sys o)
  | .wrsr _ o => some (.sys o)
  | .fence _ o => some (.sys o)
  | .drain _ o => some (.sys o)
  | .guardEnter _ o => some (.sys o)
  | .guardLeave _ o => some (.sys o)
  | .vadd _ o => some (.vrrrr o)
  | .vsub _ o => some (.vrrrr o)
  | .vmul _ o => some (.vrrrr o)
  | .vmulh _ o => some (.vrrrr o)
  | .vfma _ o => some (.vrrrr o)
  | .vfms _ o => some (.vrrrr o)
  | .vmin _ o => some (.vrrrr o)
  | .vmax _ o => some (.vrrrr o)
  | .vabs _ o => some (.vrrrr o)
  | .vneg _ o => some (.vrrrr o)
  | .vmulw _ o => some (.vrrrr o)
  | .vand _ o => some (.vrrrr o)
  | .vor _ o => some (.vrrrr o)
  | .vxor _ o => some (.vrrrr o)
  | .vandn _ o => some (.vrrrr o)
  | .vshl _ o => some (.vrrrr o)
  | .vshr _ o => some (.vrrrr o)
  | .vshra _ o => some (.vrrrr o)
  | .vaddi _ o => some (.vrri o)
  | .vmovi _ o => some (.vrri o)
  | .vclz _ o => some (.vrrrr o)
  | .vpopc _ o => some (.vrrrr o)
  | .vcmp _ o => some (.vrrrr o)
  | .vcmpi _ o => some (.vrri o)
  | .vcswp _ o => some (.vrrrr o)
  | .vsel _ o => some (.vrrrr o)
  | .vbcs _ o => some (.vrrrr o)
  | .vidx _ o => some (.vrri o)
  | .vshuf _ o => some (.vrrrr o)
  | .vxcp _ o => some (.vrri o)
  | .vcvt _ o => some (.vrrrr o)
  | .vrndi _ o => some (.vrrrr o)
  | .vsf _ o => some (.vrrrr o)
  | .vqblk _ o => some (.vrri o)
  | .vdq _ o => some (.vrrrr o)
  | .pand _ o => some (.vrrrr o)
  | .por _ o => some (.vrrrr o)
  | .pxor _ o => some (.vrrrr o)
  | .pnot _ o => some (.vrrrr o)
  | .pmov _ o => some (.vrrrr o)
  | .pfirst _ o => some (.vrrrr o)
  | .pcnt _ o => some (.vrrrr o)
  | .pset _ o => some (.vrri o)
  | .racc _ o => some (.vrrrr o)
  | .rsum _ o => some (.vrrrr o)
  | .rmax _ o => some (.vrrrr o)
  | .rmin _ o => some (.vrrrr o)
  | .rargmax _ o => some (.vrrrr o)
  | .rscan _ o => some (.vrrrr o)
  | .rseg _ o => some (.vrrrr o)
  | .rdrn _ o => some (.vrrrr o)
  | .rclr _ o => some (.vrrrr o)
  | .rcmb _ o => some (.vrrrr o)
  | .ixpush _ o => some (.idx o)
  | .ixpop _ o => some (.idx o)
  | .ixcnt _ o => some (.idx o)
  | .ixclr _ o => some (.idx o)
  | .tlook _ o => some (.idx o)
  | .tlookRead _ o => some (.idx o)
  | .tset _ o => some (.idx o)
  | .tclr _ o => some (.idx o)
  | .tclrAll _ o => some (.idx o)
  | .scat _ o => some (.idx o)
  | .sacfgSet _ o => some (.idx o)
  | .sacfgStat _ o => some (.idx o)
  | .sacfgClr _ o => some (.idx o)
  | .nrd _ o => some (.net o)
  | .nrdl _ o => some (.net o)
  | .nwr _ o => some (.net o)
  | .nwrTile _ o => some (.net o)
  | .nwrl _ o => some (.net o)
  | .ncopy _ o => some (.net o)
  | .nfill _ o => some (.net o)
  | .nsend _ o => some (.net o)
  | .nrecv _ o => some (.net o)
  | .npass _ o => some (.net o)
  | .trace _ o => some (.net o)
  | .mwb _ o => some (.net o)
  | .mldw _ o => some (.tile o)
  | .mma _ o => some (.tile o)
  | .mmaz _ o => some (.tile o)
  | .mmaF64 _ o => some (.tile o)
  | .mclr _ o => some (.tile o)
  | .mcopy _ o => some (.tile o)
  | .mfree _ o => some (.tile o)
  | .mfreeLatch _ o => some (.tile o)
  | .mst _ o => some (.tileSt o)
  | .mqst _ o => some (.tileSt o)
  | .mstat _ o => some (.tile o)
  | .msel _ o => some (.tile o)
  | .mscld _ o => some (.scale o)
  | .oqpop _ o => some (.xfer o)
  | .tdmaIn _ o => some (.xfer o)
  | .tdmaOut _ o => some (.xfer o)
  | .rld _ o => some (.xfer o)
  | .rst _ o => some (.xfer o)
  | .send _ o => some (.xfer o)
  | .recv _ o => some (.xfer o)
  | .xpose _ o => some (.xfer o)
  | .xred _ o => some (.xfer o)
  | .cqpost _ o => some (.xfer o)
  | .barinit _ o => some (.xfer o)
  | .bararr _ o => some (.xfer o)
  | .oqpush _ o => some (.xfer o)
  | .lpark _ o => some (.xfer o)
  | .lwake _ o => some (.xfer o)
  | .ttsel _ o => some (.xfer o)
  | .resync _ o => some (.xfer o)
  | _ => none

/-- OP of a slot instruction (Tables 3-2 to 3-9). -/
def Instr.opcode : Instr → BitVec 8
  | .add _ _ => 0x00
  | .sub _ _ => 0x01
  | .addi _ _ => 0x02
  | .li _ _ => 0x03
  | .lih _ _ => 0x04
  | .sel _ _ => 0x05
  | .min _ _ => 0x06
  | .max _ _ => 0x07
  | .minn _ _ => 0x08
  | .maxn _ _ => 0x09
  | .cmp _ _ => 0x0A
  | .and _ _ => 0x10
  | .or _ _ => 0x11
  | .xor _ _ => 0x12
  | .andn _ _ => 0x13
  | .orn _ _ => 0x14
  | .shl _ _ => 0x15
  | .shr _ _ => 0x16
  | .shra _ _ => 0x17
  | .rotl _ _ => 0x18
  | .clz _ _ => 0x19
  | .popc _ _ => 0x1A
  | .bfx _ _ => 0x1B
  | .bfi _ _ => 0x1C
  | .mul _ _ => 0x20
  | .mulh _ _ => 0x21
  | .mulhn _ _ => 0x22
  | .madd _ _ => 0x23
  | .divs _ _ => 0x24
  | .divn _ _ => 0x25
  | .rems _ _ => 0x26
  | .remn _ _ => 0x27
  | .fadd _ _ => 0x30
  | .fmul _ _ => 0x31
  | .fma _ _ => 0x32
  | .fdiv _ _ => 0x33
  | .fcvt _ _ => 0x34
  | .fcmp _ _ => 0x35
  | .lds _ _ => 0x40
  | .sts _ _ => 0x41
  | .ldh _ _ => 0x42
  | .sth _ _ => 0x43
  | .aadd _ _ => 0x44
  | .ainc _ _ => 0x45
  | .acas _ _ => 0x46
  | .axchg _ _ => 0x47
  | .br _ _ => 0x50
  | .brc _ _ => 0x51
  | .call _ _ => 0x52
  | .ret _ _ => 0x53
  | .jmpi _ _ => 0x54
  | .loop _ _ => 0x55
  | .waitt _ _ => 0x56
  | .waitb _ _ => 0x57
  | .exit _ _ => 0x60
  | .exits _ _ => 0x61
  | .trap _ _ => 0x62
  | .rett _ _ => 0x63
  | .rdsr _ _ => 0x64
  | .wrsr _ _ => 0x65
  | .fence _ _ => 0x66
  | .drain _ _ => 0x67
  | .guardEnter _ _ => 0x68
  | .guardLeave _ _ => 0x68
  | .vadd _ _ => 0x10
  | .vsub _ _ => 0x11
  | .vmul _ _ => 0x12
  | .vmulh _ _ => 0x13
  | .vfma _ _ => 0x14
  | .vfms _ _ => 0x15
  | .vmin _ _ => 0x16
  | .vmax _ _ => 0x17
  | .vabs _ _ => 0x18
  | .vneg _ _ => 0x19
  | .vmulw _ _ => 0x1A
  | .vand _ _ => 0x20
  | .vor _ _ => 0x21
  | .vxor _ _ => 0x22
  | .vandn _ _ => 0x23
  | .vshl _ _ => 0x24
  | .vshr _ _ => 0x25
  | .vshra _ _ => 0x26
  | .vaddi _ _ => 0x27
  | .vmovi _ _ => 0x37
  | .vclz _ _ => 0x28
  | .vpopc _ _ => 0x29
  | .vcmp _ _ => 0x30
  | .vcmpi _ _ => 0x38
  | .vcswp _ _ => 0x31
  | .vsel _ _ => 0x32
  | .vbcs _ _ => 0x33
  | .vidx _ _ => 0x34
  | .vshuf _ _ => 0x35
  | .vxcp _ _ => 0x36
  | .vcvt _ _ => 0x40
  | .vrndi _ _ => 0x44
  | .vsf _ _ => 0x43
  | .vqblk _ _ => 0x41
  | .vdq _ _ => 0x42
  | .pand _ _ => 0x50
  | .por _ _ => 0x51
  | .pxor _ _ => 0x52
  | .pnot _ _ => 0x53
  | .pmov _ _ => 0x54
  | .pfirst _ _ => 0x55
  | .pcnt _ _ => 0x56
  | .pset _ _ => 0x57
  | .racc _ _ => 0x00
  | .rsum _ _ => 0x01
  | .rmax _ _ => 0x02
  | .rmin _ _ => 0x03
  | .rargmax _ _ => 0x04
  | .rscan _ _ => 0x05
  | .rseg _ _ => 0x06
  | .rdrn _ _ => 0x07
  | .rclr _ _ => 0x08
  | .rcmb _ _ => 0x09
  | .ixpush _ _ => 0x00
  | .ixpop _ _ => 0x01
  | .ixcnt _ _ => 0x02
  | .ixclr _ _ => 0x03
  | .tlook _ _ => 0x04
  | .tlookRead _ _ => 0x04
  | .tset _ _ => 0x05
  | .tclr _ _ => 0x06
  | .tclrAll _ _ => 0x06
  | .scat _ _ => 0x07
  | .sacfgSet _ _ => 0x08
  | .sacfgStat _ _ => 0x08
  | .sacfgClr _ _ => 0x08
  | .nrd _ _ => 0x00
  | .nrdl _ _ => 0x02
  | .nwr _ _ => 0x01
  | .nwrTile _ _ => 0x01
  | .nwrl _ _ => 0x03
  | .ncopy _ _ => 0x04
  | .nfill _ _ => 0x05
  | .nsend _ _ => 0x06
  | .nrecv _ _ => 0x07
  | .npass _ _ => 0x08
  | .trace _ _ => 0x09
  | .mwb _ _ => 0x0A
  | .mldw _ _ => 0x00
  | .mma _ _ => 0x01
  | .mmaz _ _ => 0x02
  | .mmaF64 _ _ => 0x01
  | .mclr _ _ => 0x03
  | .mcopy _ _ => 0x09
  | .mfree _ _ => 0x08
  | .mfreeLatch _ _ => 0x08
  | .mst _ _ => 0x04
  | .mqst _ _ => 0x05
  | .mstat _ _ => 0x06
  | .msel _ _ => 0x07
  | .mscld _ _ => 0x00
  | .oqpop _ _ => 0x00
  | .tdmaIn _ _ => 0x00
  | .tdmaOut _ _ => 0x00
  | .rld _ _ => 0x09
  | .rst _ _ => 0x0A
  | .send _ _ => 0x01
  | .recv _ _ => 0x02
  | .xpose _ _ => 0x03
  | .xred _ _ => 0x04
  | .cqpost _ _ => 0x05
  | .barinit _ _ => 0x06
  | .bararr _ _ => 0x07
  | .oqpush _ _ => 0x08
  | .lpark _ _ => 0x0B
  | .lwake _ _ => 0x0C
  | .ttsel _ _ => 0x0D
  | .resync _ _ => 0x0E
  | _ => 0

/-- The classes of a slot instruction (Tables 3-2 to 3-9). -/
def Instr.home : Instr → Option Home
  | .add _ _ => some .s01
  | .sub _ _ => some .s01
  | .addi _ _ => some .s01
  | .li _ _ => some .s01
  | .lih _ _ => some .s01
  | .sel _ _ => some .s01
  | .min _ _ => some .s01
  | .max _ _ => some .s01
  | .minn _ _ => some .s01
  | .maxn _ _ => some .s01
  | .cmp _ _ => some .s01
  | .and _ _ => some .s01
  | .or _ _ => some .s01
  | .xor _ _ => some .s01
  | .andn _ _ => some .s01
  | .orn _ _ => some .s01
  | .shl _ _ => some .s01
  | .shr _ _ => some .s01
  | .shra _ _ => some .s01
  | .rotl _ _ => some .s01
  | .clz _ _ => some .s01
  | .popc _ _ => some .s01
  | .bfx _ _ => some .s01
  | .bfi _ _ => some .s01
  | .mul _ _ => some .s01
  | .mulh _ _ => some .s01
  | .mulhn _ _ => some .s01
  | .madd _ _ => some .s01
  | .divs _ _ => some .s01
  | .divn _ _ => some .s01
  | .rems _ _ => some .s01
  | .remn _ _ => some .s01
  | .fadd _ _ => some .s01
  | .fmul _ _ => some .s01
  | .fma _ _ => some .s01
  | .fdiv _ _ => some .s01
  | .fcvt _ _ => some .s01
  | .fcmp _ _ => some .s01
  | .lds _ _ => some .s01
  | .sts _ _ => some .s01
  | .ldh _ _ => some .s01
  | .sth _ _ => some .s01
  | .aadd _ _ => some .s01
  | .ainc _ _ => some .s01
  | .acas _ _ => some .s01
  | .axchg _ _ => some .s01
  | .br _ _ => some .s0
  | .brc _ _ => some .s0
  | .call _ _ => some .s0
  | .ret _ _ => some .s0
  | .jmpi _ _ => some .s0
  | .loop _ _ => some .s0
  | .waitt _ _ => some .s0
  | .waitb _ _ => some .s0
  | .exit _ _ => some .s0
  | .exits _ _ => some .s0
  | .trap _ _ => some .s0
  | .rett _ _ => some .s0
  | .rdsr _ _ => some .s0
  | .wrsr _ _ => some .s0
  | .fence _ _ => some .s0
  | .drain _ _ => some .s0
  | .guardEnter _ _ => some .s0
  | .guardLeave _ _ => some .s0
  | .vadd _ _ => some .cl
  | .vsub _ _ => some .cl
  | .vmul _ _ => some .cl
  | .vmulh _ _ => some .cl
  | .vfma _ _ => some .cl
  | .vfms _ _ => some .cl
  | .vmin _ _ => some .cl
  | .vmax _ _ => some .cl
  | .vabs _ _ => some .cl
  | .vneg _ _ => some .cl
  | .vmulw _ _ => some .cl
  | .vand _ _ => some .cl
  | .vor _ _ => some .cl
  | .vxor _ _ => some .cl
  | .vandn _ _ => some .cl
  | .vshl _ _ => some .cl
  | .vshr _ _ => some .cl
  | .vshra _ _ => some .cl
  | .vaddi _ _ => some .cl
  | .vmovi _ _ => some .cl
  | .vclz _ _ => some .cl
  | .vpopc _ _ => some .cl
  | .vcmp _ _ => some .cl
  | .vcmpi _ _ => some .cl
  | .vcswp _ _ => some .cl
  | .vsel _ _ => some .cl
  | .vbcs _ _ => some .cl
  | .vidx _ _ => some .cl
  | .vshuf _ _ => some .cl
  | .vxcp _ _ => some .cl
  | .vcvt _ _ => some .cl
  | .vrndi _ _ => some .cl
  | .vsf _ _ => some .cl
  | .vqblk _ _ => some .cl
  | .vdq _ _ => some .cl
  | .pand _ _ => some .cl
  | .por _ _ => some .cl
  | .pxor _ _ => some .cl
  | .pnot _ _ => some .cl
  | .pmov _ _ => some .cl
  | .pfirst _ _ => some .cl
  | .pcnt _ _ => some .cl
  | .pset _ _ => some .cl
  | .racc _ _ => some .rd
  | .rsum _ _ => some .rd
  | .rmax _ _ => some .rd
  | .rmin _ _ => some .rd
  | .rargmax _ _ => some .rd
  | .rscan _ _ => some .rd
  | .rseg _ _ => some .rd
  | .rdrn _ _ => some .rd
  | .rclr _ _ => some .rd
  | .rcmb _ _ => some .rd
  | .ixpush _ _ => some .ix
  | .ixpop _ _ => some .ix
  | .ixcnt _ _ => some .ix
  | .ixclr _ _ => some .ix
  | .tlook _ _ => some .ix
  | .tlookRead _ _ => some .ix
  | .tset _ _ => some .ix
  | .tclr _ _ => some .ix
  | .tclrAll _ _ => some .ix
  | .scat _ _ => some .ix
  | .sacfgSet _ _ => some .ix
  | .sacfgStat _ _ => some .ix
  | .sacfgClr _ _ => some .ix
  | .nrd _ _ => some .nab
  | .nrdl _ _ => some .nab
  | .nwr _ _ => some .nw
  | .nwrTile _ _ => some .nw
  | .nwrl _ _ => some .nwv
  | .ncopy _ _ => some .na
  | .nfill _ _ => some .nw
  | .nsend _ _ => some .na
  | .nrecv _ _ => some .nw
  | .npass _ _ => some .nb
  | .trace _ _ => some .nbv
  | .mwb _ _ => some .nbm
  | .mldw _ _ => some .t
  | .mma _ _ => some .t
  | .mmaz _ _ => some .t
  | .mmaF64 _ _ => some .t
  | .mclr _ _ => some .t
  | .mcopy _ _ => some .t
  | .mfree _ _ => some .t
  | .mfreeLatch _ _ => some .t
  | .mst _ _ => some .t
  | .mqst _ _ => some .t
  | .mstat _ _ => some .t
  | .msel _ _ => some .t
  | .mscld _ _ => some .sc
  | .oqpop _ _ => some .oq
  | .tdmaIn _ _ => some .xf
  | .tdmaOut _ _ => some .xf
  | .rld _ _ => some .xf
  | .rst _ _ => some .xf
  | .send _ _ => some .xf
  | .recv _ _ => some .xf
  | .xpose _ _ => some .xf
  | .xred _ _ => some .xf
  | .cqpost _ _ => some .xf
  | .barinit _ _ => some .xf
  | .bararr _ _ => some .xf
  | .oqpush _ _ => some .xfv
  | .lpark _ _ => some .xf
  | .lwake _ _ => some .xf
  | .ttsel _ _ => some .xf
  | .resync _ _ => some .xf
  | _ => none

/-- The failures that a slot instruction's own fields earn in an image for a die of type k; `hnd` says that the image is a
handler image (Table 2-10). -/
def Instr.fieldRejects (k : DieKind) (hnd : Bool) : Instr → List Reject
  | .add h o => o.rejects h .full .full .unused 0 false false
  | .sub h o => o.rejects h .full .full .unused 0 false false
  | .addi h o => o.rejects h .full 0 false
  | .li h o => o.rejects h .unused 0 false
  | .lih h o => o.rejects h .unused 0 (h.wide != 0)
  | .sel h o => o.rejects h .full .full .unused 7 false false
  | .min h o => o.rejects h .full .full .unused 0 false false
  | .max h o => o.rejects h .full .full .unused 0 false false
  | .minn h o => o.rejects h .full .full .unused 0 false false
  | .maxn h o => o.rejects h .full .full .unused 0 false false
  | .cmp h o => o.rejects h .q .full .unused 7 (5 < o.fn.toNat % 8) false
  | .and h o => o.rejects h .full .full .unused 0 false false
  | .or h o => o.rejects h .full .full .unused 0 false false
  | .xor h o => o.rejects h .full .full .unused 0 false false
  | .andn h o => o.rejects h .full .full .unused 0 false false
  | .orn h o => o.rejects h .full .full .unused 0 false false
  | .shl h o => o.rejects h .full .full .unused 0 false false
  | .shr h o => o.rejects h .full .full .unused 0 false false
  | .shra h o => o.rejects h .full .full .unused 0 false false
  | .rotl h o => o.rejects h .full .full .unused 0 false false
  | .clz h o => o.rejects h .full .unused .unused 0 false false
  | .popc h o => o.rejects h .full .unused .unused 0 false false
  | .bfx h o => o.rejects h .full 0 (bitFieldBad h o)
  | .bfi h o => o.rejects h .full 0 (bitFieldBad h o)
  | .mul h o => o.rejects h .full .full .unused 0 false false
  | .mulh h o => o.rejects h .full .full .unused 0 false false
  | .mulhn h o => o.rejects h .full .full .unused 0 false false
  | .madd h o => o.rejects h .full .full .full 0 false false
  | .divs h o => o.rejects h .full .full .unused 0 false false
  | .divn h o => o.rejects h .full .full .unused 0 false false
  | .rems h o => o.rejects h .full .full .unused 0 false false
  | .remn h o => o.rejects h .full .full .unused 0 false false
  | .fadd h o => o.rejects h .full .full .unused 8 false true
  | .fmul h o => o.rejects h .full .full .unused 8 false true
  | .fma h o => o.rejects h .full .full .full 8 false true
  | .fdiv h o => o.rejects h .full .full .unused 8 false true
  | .fcvt h o => o.rejects h .full .unused .unused 7 (5 < o.fn.toNat % 8) true
  | .fcmp h o => o.rejects h .q .full .unused 0xF (o.fn.toNat % 8 == 7) false
  | .lds h o => o.rejects h .full 7 (loadFnBad o)
  | .sts h o => o.rejects h .full 3 false
  | .ldh h o => o.rejects h .full 0x3F (loadFnBad o)
  | .sth h o => o.rejects h .full 0x3B false
  | .aadd h o => o.rejects h .full .full .unused 0xF false false
  | .ainc h o => o.rejects h .full .unused .unused 0xF false false
  | .acas h o => o.rejects h .full .full .full 0xF false false
  | .axchg h o => o.rejects h .full .full .unused 0xF false false
  | .br h o => o.rejects h .unused .unused 0 false true
  | .brc h o => o.rejects h .full .full 7 (5 < o.fn.toNat % 8) true
  | .call h o => o.rejects h .full .unused 0 false true
  | .ret h o => o.rejects h .full .unused 0 false false
  | .jmpi h o => o.rejects h .full .unused 0 false false
  | .loop h o => o.rejects h .unused .unused 0 false true
  | .waitt h o => o.rejects h { x := true, imm := 2 ^ 42 }
  | .waitb h o => o.rejects h { d := true, x := true, imm := 2 }
  | .exit h o => o.rejects h {}
  | .exits h o => o.rejects h { imm := 2 ^ 16 }
  | .trap h o => o.rejects h { imm := 2 ^ 16 }
  | .rett h o => o.rejects h { imm := 2 ^ 42 } ++ rejectIf (!hnd) .privilege
  | .rdsr h o => o.rejects h { d := true, sr := true } ++ rejectIf (!sysRegExists k o.sr.toNat) .reservedValue
  | .wrsr h o => o.rejects h { x := true, sr := true } ++ rejectIf (!sysRegExists k o.sr.toNat || !sysRegWritable hnd o.sr.toNat) .reservedValue
  | .fence h o => o.rejects h { scope := true }
  | .drain h o => o.rejects h { scope := true, cls := true } ++ rejectIf (6 < o.cls.toNat) .reservedValue
  | .guardEnter h o => o.rejects h { imm := 2 } ++ rejectIf (!bit 0 o.imm.toNat) .reservedValue
  | .guardLeave h o => o.rejects h { imm := 2 } ++ rejectIf (bit 0 o.imm.toNat) .reservedValue
  | .vadd h o => o.rejects h true Fmt.inVIF usesORZ .full .full .full .unused 0 false
  | .vsub h o => o.rejects h true Fmt.inVIF usesORZ .full .full .full .unused 0 false
  | .vmul h o => o.rejects h true Fmt.inVIF usesORZ .full .full .full .unused 0 false
  | .vmulh h o => o.rejects h true Fmt.inVI usesNone .full .full .full .unused 0 false
  | .vfma h o => o.rejects h true Fmt.inVF usesORZ .full .full .full .full 0 false
  | .vfms h o => o.rejects h true Fmt.inVF usesORZ .full .full .full .full 0 false
  | .vmin h o => o.rejects h true Fmt.inVIF usesZ .full .full .full .unused 0 false
  | .vmax h o => o.rejects h true Fmt.inVIF usesZ .full .full .full .unused 0 false
  | .vabs h o => o.rejects h true Fmt.inVIF usesOZ .full .full .unused .unused 0 (o.fmt.isFloat && o.ovf != .inf)
  | .vneg h o => o.rejects h true Fmt.inVIF usesOZ .full .full .unused .unused 0 (o.fmt.isFloat && o.ovf != .inf)
  | .vmulw h o => o.rejects h true Fmt.inMulw usesORZ .full .full .full .unused 1 (o.fmt.isInt && o.ovf != .inf)
  | .vand h o => o.rejects h true Fmt.inVW usesNone .full .full .full .unused 0 false
  | .vor h o => o.rejects h true Fmt.inVW usesNone .full .full .full .unused 0 false
  | .vxor h o => o.rejects h true Fmt.inVW usesNone .full .full .full .unused 0 false
  | .vandn h o => o.rejects h true Fmt.inVW usesNone .full .full .full .unused 0 false
  | .vshl h o => o.rejects h true Fmt.inVI usesNone .full .full .full .unused 0 false
  | .vshr h o => o.rejects h true Fmt.inVI usesNone .full .full .full .unused 0 false
  | .vshra h o => o.rejects h true Fmt.inVI usesNone .full .full .full .unused 0 false
  | .vaddi h o => o.rejects h Fmt.inVI usesO .full .full 0 (2 ^ o.fmt.width ≤ (o.value h).natAbs)
  | .vmovi h o => o.rejects h Fmt.inVI usesNone .full .unused 0 (!immFits o.fmt (o.value h))
  | .vclz h o => o.rejects h true Fmt.inVI usesNone .full .full .unused .unused 0 false
  | .vpopc h o => o.rejects h true Fmt.inVI usesNone .full .full .unused .unused 0 false
  | .vcmp h o => o.rejects h true Fmt.inVIF usesZ .p .full .full .unused 0x1F (vcmpBad o.fmt o.sub)
  | .vcmpi h o => o.rejects h Fmt.inVI usesNone .p .full 0x1F (!immFits o.fmt (o.value h) || vcmpBad o.fmt o.sub)
  | .vcswp h o => o.rejects h true Fmt.inVIF usesZ .full .full .full .full 1 (o.d == o.z || (o.fmt.isInt && o.sub != 0))
  | .vsel h o => o.rejects h true Fmt.inVW usesNone .full .full .full .p 0 false
  | .vbcs h o => o.rejects h true Fmt.inVIF usesNone .full .full .unused .unused 0 false
  | .vidx h o => o.rejects h Fmt.inVI usesNone .full .unused 0x3F false
  | .vshuf h o => o.rejects h true Fmt.inVW usesNone .full .full (if o.sub == 5 || o.sub == 6 then .unused else .full) .unused 0x3F (6 < o.sub.toNat || (o.sub == 0 && o.fmt == .i4))
  | .vxcp h o => o.rejects h Fmt.inVW usesNone .full .full 0 (o.value h < 0 || 16 ≤ o.value h)
  | .vcvt h o => o.rejectsConv h true Fmt.inCvt (((cvtSource o.sub).map Fmt.isInt).getD false) .full .full .number .unused 0x1F (vcvtBad o)
  | .vrndi h o => o.rejects h true Fmt.inVF usesRZ .full .full .unused .unused 0 false
  | .vsf h o => o.rejects h true Fmt.inVsf usesORZ .full .full .unused .unused 0x3F (6 < o.sub.toNat)
  | .vqblk h o => o.rejects h Fmt.inHB usesORZ .full .full 0x3F (vqblkBad h o)
  | .vdq h o => o.rejectsAs h true Fmt.inHB usesORZ false false .full .full .number .unused 1 (o.sub.toNat < o.y.toNat)
  | .pand h o => o.rejects h true (· == .i8) usesNone .p .p .p .unused 0 false
  | .por h o => o.rejects h true (· == .i8) usesNone .p .p .p .unused 0 false
  | .pxor h o => o.rejects h true (· == .i8) usesNone .p .p .p .unused 0 false
  | .pnot h o => o.rejects h true (· == .i8) usesNone .p .p .unused .unused 0 false
  | .pmov h o => o.rejects h true Fmt.inVW usesNone (pmovRole true o.sub) (pmovRole false o.sub) .unused .unused 3 (o.sub.toNat % 4 == 3)
  | .pfirst h o => o.rejects h true Fmt.inVW usesNone .p .p .unused .unused 0 false
  | .pcnt h o => o.rejects h true Fmt.inVW usesNone .full .p .unused .unused 0 false
  | .pset h o => o.rejects h Fmt.inVW usesNone .p .unused 0x3F (psetBad h o)
  | .racc h o => o.rejects h false Fmt.inVIF usesORZ .a .full .p .unused 0 false
  | .rsum h o => o.rejects h false Fmt.inVIF usesORZ .a (if bit 0 o.sub.toNat then .a else .full) (if bit 0 o.sub.toNat then .unused else .p) .unused 1 false
  | .rmax h o => o.rejects h false Fmt.inVIF usesZ .a (if bit 0 o.sub.toNat then .a else .full) (if bit 0 o.sub.toNat then .unused else .p) .unused 1 false
  | .rmin h o => o.rejects h false Fmt.inVIF usesZ .a (if bit 0 o.sub.toNat then .a else .full) (if bit 0 o.sub.toNat then .unused else .p) .unused 1 false
  | .rargmax h o => o.rejects h false Fmt.inVIF usesZ .a (if bit 0 o.sub.toNat then .a else .full) (if bit 0 o.sub.toNat then .unused else .p) .unused 3 false
  | .rscan h o => o.rejects h false Fmt.inVIF usesORZ .full .full .p .a 1 (o.d == o.x)
  | .rseg h o => o.rejects h false Fmt.inVIF usesORZ .full .full .p .a 1 (o.d == o.x)
  | .rdrn h o => o.rejectsConv h false Fmt.inVIF (((cvtSource o.z).map Fmt.isInt).getD false) .full .a .unused .number 0xF (rdrnBad o)
  | .rclr h o => o.rejects h false Fmt.inVW usesNone .a .unused .unused .unused 0 false
  | .rcmb h o => o.rejects h false Fmt.inVIF usesORZ .a .a .a .unused 3 (o.sub == 3)
  | .ixpush h o => o.rejects h Fmt.inIxw .p .full .full true true 7 (2 < o.tk.toNat || (bit 2 o.sub.toNat && o.fmt.width == 64)) (o.tk == 1 && o.value h != 0)
  | .ixpop h o => o.rejects h Fmt.inVW .full .unused .unused false false 0 false false
  | .ixcnt h o => o.rejects h Fmt.isZero .full .unused .unused false false 0x3F (5 < o.sub.toNat) (!o.fmt.isZero)
  | .ixclr h o => o.rejects h Fmt.isZero .unused .unused .unused false false 0 false (!o.fmt.isZero)
  | .tlook h o => o.rejects h Fmt.isZero .full .full .unused false false 3 (o.sub.toNat % 4 == 3) (!o.fmt.isZero || o.sub == 2)
  | .tlookRead h o => o.rejects h Fmt.isZero .full .full .unused false false 3 (o.sub != 2) (!o.fmt.isZero)
  | .tset h o => o.rejects h Fmt.isZero .full .full .unused false true 0 false (!o.fmt.isZero || 4 ≤ o.value h)
  | .tclr h o => o.rejects h Fmt.isZero .full .unused .unused false true 0 false (!o.fmt.isZero || o.value h != 0)
  | .tclrAll h o => o.rejects h Fmt.isZero .unused .unused .unused false true 0 false (!o.fmt.isZero || o.value h != 1)
  | .scat h o => o.rejects h Fmt.inScat .full .full .p false true 1 (7 < o.value h) false
  | .sacfgSet h o => o.rejects h Fmt.isZero .full .full .unused false true 3 (7 < o.value h || o.sub != 0) (!o.fmt.isZero)
  | .sacfgStat h o => o.rejects h Fmt.isZero .full .unused .unused false true 3 (7 < o.value h || o.sub != 1) (!o.fmt.isZero)
  | .sacfgClr h o => o.rejects h Fmt.isZero .unused .unused .unused false true 3 (7 < o.value h || o.sub.toNat % 4 < 2 || o.sub.toNat % 4 == 3) (!o.fmt.isZero)
  | .nrd h o => o.rejects h true true 2 false (o.sub != 0)
  | .nrdl h o => o.rejects h true true 2 (7 < o.pl.toNat) (o.sub != 0)
  | .nwr h o => o.rejects h true true 2 (k == .m) false
  | .nwrTile h o => o.rejects h false true 2 (k == .v || o.sub != 1) false
  | .nwrl h o => o.rejects h true true 2 (7 < o.pl.toNat) false
  | .ncopy h o => o.rejects h true true 2 false (o.sub != 0)
  | .nfill h o => o.rejects h true true 2 false (o.sub != 0)
  | .nsend h o => o.rejects h true true 2 false (o.sub != 0)
  | .nrecv h o => o.rejects h true true 2 false (o.sub != 0)
  | .npass h o => o.rejects h true false 0 false (o.sub != 0)
  | .trace h o => o.rejects h true true 1 (4 < o.pl.toNat) false
  | .mwb h o => o.rejects h true true 2 false (o.sub != 0)
  | .mldw h o => o.rejects h (o.fa.isZero && (o.fb.inHB || o.fb == .bf16 || o.fb == .f16 || o.fb == .f64)) { tx := true, b := true, sp := true } (4 ≤ o.tx.toNat || (o.sp && o.fb == .f64)) (!o.fa.isZero)
  | .mma h o => o.rejects h (o.mmaPair) { td := true, tx := true, n := true, cap := true, b := true, ks := true, js := true, sp := true, row := true } (o.mmaBad || o.fa == .f64) (o.js != 0)
  | .mmaz h o => o.rejects h (o.mmaPair) { td := true, tx := true, n := true, cap := true, b := true, ks := true, js := true, sp := true, row := true } (o.mmaBad) (o.js != 0 && o.fa != .f64)
  | .mmaF64 h o => o.rejects h (o.fa == .f64 && o.fb == .f64) { td := true, tx := true, n := true, cap := true, b := true, ks := true, js := true, sp := true, row := true } (o.mmaBad) false
  | .mclr h o => o.rejects h (o.fmtsZero) { td := true } false (!o.fmtsZero)
  | .mcopy h o => o.rejects h (o.fmtsZero) { td := true, tx := true } (o.tx == o.td) (!o.fmtsZero)
  | .mfree h o => o.rejects h (o.fmtsZero) { td := true, n := true } (o.n != 0) (!o.fmtsZero)
  | .mfreeLatch h o => o.rejects h (o.fmtsZero) { tx := true, n := true } (o.n != 1 || 4 ≤ o.tx.toNat) (!o.fmtsZero)
  | .mst h o => o.rejects h (o.fd.inVIF || o.fd.inVN) (7 < o.rg.toNat + o.nrg.toNat || (o.fd.isInt && o.ovf == .nan)) (o.el != 0 || o.dl != 0)
  | .mqst h o => o.rejects h o.fd.inHB (7 < o.rg.toNat + o.nrg.toNat || (o.el != 0 && (o.rg != 0 || o.nrg != 7)) || o.ftz || (o.fd.intElems && o.ovf == .nan)) false
  | .mstat h o => o.rejects h (o.fmtsZero) { td := true, tx := true, n := true, b := true } (4 ≤ o.tx.toNat) (1 < o.n.toNat || !o.fmtsZero)
  | .msel h o => o.rejects h (o.fmtsZero) { sp := true } (!o.sp) (!o.fmtsZero)
  | .mscld h _ => guardRejects false h ++ extRejects .wide h
  | .oqpop h o => o.rejects h { d := true } false false
  | .tdmaIn h o => o.rejects h { d := true, x := true, y := true, pr := true, sub := 1 } (bit 0 o.sub.toNat) false
  | .tdmaOut h o => o.rejects h { d := true, x := true, y := true, pr := true, sub := 1 } (!bit 0 o.sub.toNat) false
  | .rld h o => o.rejects h { d := true, x := true, y := true, pr := true } false false
  | .rst h o => o.rejects h { d := true, x := true, y := true, pr := true } false false
  | .send h o => o.rejects h { d := true, x := true, y := true, z := true } false false
  | .recv h o => o.rejects h { d := true, x := true, y := true, z := true } false false
  | .xpose h o => o.rejects h { d := true, x := true, y := true, pr := true, imm := true } (2 ^ 15 ≤ o.value h) false
  | .xred h o => o.rejects h { d := true, x := true, y := true, pr := true, imm := true, sub := 0x1F } (2 ^ 15 ≤ o.value h || o.sub.toNat % 4 == 3 || 4 < o.sub.toNat / 4 % 8) false
  | .cqpost h o => o.rejects h { d := true, x := true, y := true, pr := true } false false
  | .barinit h o => o.rejects h { x := true, y := true, pr := true } false false
  | .bararr h o => o.rejects h { x := true, y := true, pr := true, scope := true } false false
  | .oqpush h o => o.rejects h { x := true } false false
  | .lpark h o => o.rejects h { x := true, y := true } false false
  | .lwake h o => o.rejects h { x := true, y := true, z := true, sub := 1 } false (o.z != 0 && !bit 0 o.sub.toNat)
  | .ttsel h o => o.rejects h { d := true, x := true } false false ++ rejectIf (!hnd) .privilege
  | .resync h o => o.rejects h { d := true, x := true } false false
  | _ => []

end Sys2Proof
end

