-- ==== Sys2Proof/WellFormed.lean ====
section
/-!
DEFINITION. Which instruction terms are well formed: those that a sealed image for a die type may hold in their class.
-/

namespace Sys2Proof

/-- The class of a slot instruction is one its opcode is assigned in (R74). -/
def Instr.classOk (k : DieKind) (i : Instr) : Bool :=
  match i.hdr, i.home with
  | some h, some m => m.has k h.cls.toNat
  | _, _ => false

/-- A slot instruction is well formed for a die type and kind of image: its opcode is assigned in its class, and its
fields earn no rejection (R56, R66, Table 2-10). Events and idle bundles are no slot words. -/
def Instr.WellFormed (k : DieKind) (hnd : Bool) (i : Instr) : Prop :=
  i.classOk k = true ∧ i.fieldRejects k hnd = []

end Sys2Proof
end

