-- ==== Sys2Proof/Decode.lean ====
section
/-!
DEFINITION. From words to instructions and back: bundle headers, slot words, issue groups (02 R51–R63), the opcode map
(03), and the encoder. The decoder rejects by the names of Table 2-10.
-/

namespace Sys2Proof

/-! ### Slot words (Tables 2-3 and 2-4) -/

/-- The field of `len` bits from bit `lo` upward. -/
abbrev fieldAt (w : Word) (lo len : Nat) : BitVec len := w.extractLsb' lo len

/-- Operands read from a word, with the failures of bits that no operand field holds. -/
structure Parsed (α : Type) where
  val : α
  bad : List Reject

/-- RND read from its bits: reserved codes fail (R60), and stand as a mode other than 000, which an opcode that does
not round reports too. -/
def readRnd (c : BitVec 3) : Parsed Rnd :=
  match Rnd.ofCode c with
  | some r => ⟨r, []⟩
  | none => ⟨.st, [.reservedValue]⟩

/-- FMT read from its bits: reserved codes fail (R59, R75). -/
def readFmt (c : BitVec 5) : Parsed Fmt :=
  match Fmt.ofCode c with
  | some f => ⟨f, []⟩
  | none => ⟨.f32, [.reservedValue]⟩

/-- SCALAR-RRR. -/
def readRRR (w : Word) : Parsed RRR :=
  let r := readRnd (fieldAt w 17 3)
  ⟨{ d := fieldAt w 44 6, x := fieldAt w 38 6, y := fieldAt w 32 6, z := fieldAt w 26 6, fn := fieldAt w 20 6,
     rnd := r.val }, r.bad ++ zeroField (fieldAt w 0 17)⟩

/-- SCALAR-RI. -/
def readRI (w : Word) : Parsed RI :=
  ⟨{ d := fieldAt w 44 6, x := fieldAt w 38 6, fn := fieldAt w 32 6, imm := fieldAt w 0 32 }, []⟩

/-- BRANCH. -/
def readBranch (w : Word) : Parsed Branch :=
  ⟨{ fn := fieldAt w 46 4, x := fieldAt w 40 6, y := fieldAt w 34 6, off := fieldAt w 0 34 }, []⟩

/-- SYS. -/
def readSys (w : Word) : Parsed Sys :=
  ⟨{ d := fieldAt w 44 6, x := fieldAt w 38 6, sr := fieldAt w 30 8, scope := Scope.ofCode (fieldAt w 28 2),
     cls := fieldAt w 24 4, imm := fieldAt w 0 24 }, []⟩

/-- VEC-RRRR. -/
def readVRRRR (w : Word) : Parsed VRRRR :=
  let f := readFmt (fieldAt w 21 5)
  let r := readRnd (fieldAt w 16 3)
  ⟨{ d := fieldAt w 44 6, x := fieldAt w 38 6, y := fieldAt w 32 6, z := fieldAt w 26 6, fmt := f.val,
     ovf := Ovf.ofCode (fieldAt w 19 2), rnd := r.val, ftz := fieldAt w 15 1 == 1, sub := fieldAt w 9 6 },
   f.bad ++ r.bad ++ zeroField (fieldAt w 0 9)⟩

/-- VEC-RRI. -/
def readVRRI (w : Word) : Parsed VRRI :=
  let f := readFmt (fieldAt w 33 5)
  let r := readRnd (fieldAt w 28 3)
  ⟨{ d := fieldAt w 44 6, x := fieldAt w 38 6, fmt := f.val, ovf := Ovf.ofCode (fieldAt w 31 2), rnd := r.val,
     ftz := fieldAt w 27 1 == 1, sub := fieldAt w 21 6, imm := fieldAt w 0 21 }, f.bad ++ r.bad⟩

/-- NET. -/
def readNet (w : Word) : Parsed Net :=
  ⟨{ d := fieldAt w 44 6, pl := fieldAt w 32 12, b := fieldAt w 26 6, roff := fieldAt w 8 18, sub := fieldAt w 4 4 },
   zeroField (fieldAt w 0 4)⟩

/-- IDX. -/
def readIdx (w : Word) : Parsed Idx :=
  let f := readFmt (fieldAt w 24 5)
  ⟨{ d := fieldAt w 44 6, x := fieldAt w 38 6, y := fieldAt w 32 6, tk := fieldAt w 29 3, fmt := f.val,
     sub := fieldAt w 18 6, imm := fieldAt w 0 18 }, f.bad⟩

/-- TILE. -/
def readTile (w : Word) : Parsed Tile :=
  let fa := readFmt (fieldAt w 39 5)
  let fb := readFmt (fieldAt w 34 5)
  ⟨{ td := fieldAt w 47 3, tx := fieldAt w 44 3, fa := fa.val, fb := fb.val, n := fieldAt w 28 6, cap := fieldAt w 21 7,
     b := fieldAt w 15 6, ks := fieldAt w 12 3, js := fieldAt w 9 3, sp := fieldAt w 8 1 == 1 },
   fa.bad ++ fb.bad ++ zeroField (fieldAt w 0 8)⟩

/-- TILE-ST. -/
def readTileSt (w : Word) : Parsed TileSt :=
  let f := readFmt (fieldAt w 36 5)
  let r := readRnd (fieldAt w 31 3)
  ⟨{ td := fieldAt w 47 3, rg := fieldAt w 44 3, nrg := fieldAt w 41 3, fd := f.val, ovf := Ovf.ofCode (fieldAt w 34 2),
     rnd := r.val, ftz := fieldAt w 30 1 == 1, el := fieldAt w 28 2, dl := fieldAt w 24 4, b := fieldAt w 18 6 },
   f.bad ++ r.bad ++ zeroField (fieldAt w 0 18)⟩

/-- SCALE. -/
def readScale (w : Word) : Parsed Scale :=
  ⟨{ kj := fieldAt w 49 1 == 1, kn := fieldAt w 46 3, tg := fieldAt w 44 2, b := fieldAt w 38 6,
     imm := fieldAt w 20 18, n := fieldAt w 14 6 }, zeroField (fieldAt w 0 14)⟩

/-- XFER. -/
def readXfer (w : Word) : Parsed Xfer :=
  ⟨{ d := fieldAt w 44 6, x := fieldAt w 38 6, y := fieldAt w 32 6, z := fieldAt w 26 6, pr := fieldAt w 23 3,
     scope := Scope.ofCode (fieldAt w 21 2), sub := fieldAt w 15 6, imm := fieldAt w 0 15 }, []⟩

/-! ### The opcode map (03) -/

/-- An opcode's format and the instruction that its fields make. -/
inductive Entry where
  | rrr (f : Hdr → RRR → Instr)
  | ri (f : Hdr → RI → Instr)
  | branch (f : Hdr → Branch → Instr)
  | sys (f : Hdr → Sys → Instr)
  | vrrrr (f : Hdr → VRRRR → Instr)
  | vrri (f : Hdr → VRRI → Instr)
  | net (f : Hdr → Net → Instr)
  | idx (f : Hdr → Idx → Instr)
  | tile (f : Hdr → Tile → Instr)
  | tileSt (f : Hdr → TileSt → Instr)
  | scale (f : Hdr → Scale → Instr)
  | xfer (f : Hdr → Xfer → Instr)

/-- An instruction mapped over parsed operands. -/
def Parsed.build {α : Type} (p : Parsed α) (f : α → Instr) : Parsed Instr := ⟨f p.val, p.bad⟩

/-- The instruction of a word under its opcode's format. -/
def Entry.read (e : Entry) (h : Hdr) (w : Word) : Parsed Instr :=
  match e with
  | rrr f => (readRRR w).build (f h)
  | ri f => (readRI w).build (f h)
  | branch f => (readBranch w).build (f h)
  | sys f => (readSys w).build (f h)
  | vrrrr f => (readVRRRR w).build (f h)
  | vrri f => (readVRRI w).build (f h)
  | net f => (readNet w).build (f h)
  | idx f => (readIdx w).build (f h)
  | tile f => (readTile w).build (f h)
  | tileSt f => (readTileSt w).build (f h)
  | scale f => (readScale w).build (f h)
  | xfer f => (readXfer w).build (f h)

/-- Opcodes of S0 and S1 (Table 3-2). -/
def opcodeS01 (op : Nat) : Option Entry :=
  match op with
  | 0x00 => some (.rrr .add)
  | 0x01 => some (.rrr .sub)
  | 0x02 => some (.ri .addi)
  | 0x03 => some (.ri .li)
  | 0x04 => some (.ri .lih)
  | 0x05 => some (.rrr .sel)
  | 0x06 => some (.rrr .min)
  | 0x07 => some (.rrr .max)
  | 0x08 => some (.rrr .minn)
  | 0x09 => some (.rrr .maxn)
  | 0x0A => some (.rrr .cmp)
  | 0x10 => some (.rrr .and)
  | 0x11 => some (.rrr .or)
  | 0x12 => some (.rrr .xor)
  | 0x13 => some (.rrr .andn)
  | 0x14 => some (.rrr .orn)
  | 0x15 => some (.rrr .shl)
  | 0x16 => some (.rrr .shr)
  | 0x17 => some (.rrr .shra)
  | 0x18 => some (.rrr .rotl)
  | 0x19 => some (.rrr .clz)
  | 0x1A => some (.rrr .popc)
  | 0x1B => some (.ri .bfx)
  | 0x1C => some (.ri .bfi)
  | 0x20 => some (.rrr .mul)
  | 0x21 => some (.rrr .mulh)
  | 0x22 => some (.rrr .mulhn)
  | 0x23 => some (.rrr .madd)
  | 0x24 => some (.rrr .divs)
  | 0x25 => some (.rrr .divn)
  | 0x26 => some (.rrr .rems)
  | 0x27 => some (.rrr .remn)
  | 0x30 => some (.rrr .fadd)
  | 0x31 => some (.rrr .fmul)
  | 0x32 => some (.rrr .fma)
  | 0x33 => some (.rrr .fdiv)
  | 0x34 => some (.rrr .fcvt)
  | 0x35 => some (.rrr .fcmp)
  | 0x40 => some (.ri .lds)
  | 0x41 => some (.ri .sts)
  | 0x42 => some (.ri .ldh)
  | 0x43 => some (.ri .sth)
  | 0x44 => some (.rrr .aadd)
  | 0x45 => some (.rrr .ainc)
  | 0x46 => some (.rrr .acas)
  | 0x47 => some (.rrr .axchg)
  | _ => none

/-- Opcodes of S0 alone (Table 3-2, R77). -/
def opcodeS0 (op : Nat) : Option Entry :=
  match op with
  | 0x50 => some (.branch .br)
  | 0x51 => some (.branch .brc)
  | 0x52 => some (.branch .call)
  | 0x53 => some (.branch .ret)
  | 0x54 => some (.branch .jmpi)
  | 0x55 => some (.branch .loop)
  | 0x56 => some (.sys .waitt)
  | 0x57 => some (.sys .waitb)
  | 0x60 => some (.sys .exit)
  | 0x61 => some (.sys .exits)
  | 0x62 => some (.sys .trap)
  | 0x63 => some (.sys .rett)
  | 0x64 => some (.sys .rdsr)
  | 0x65 => some (.sys .wrsr)
  | 0x66 => some (.sys .fence)
  | 0x67 => some (.sys .drain)
  | 0x68 => some (.sys (fun h o => if bit 0 o.imm.toNat then .guardEnter h o else .guardLeave h o))
  | _ => none

/-- Opcodes of C0 to C7 (Table 3-4). -/
def opcodeCluster (op : Nat) : Option Entry :=
  match op with
  | 0x10 => some (.vrrrr .vadd)
  | 0x11 => some (.vrrrr .vsub)
  | 0x12 => some (.vrrrr .vmul)
  | 0x13 => some (.vrrrr .vmulh)
  | 0x14 => some (.vrrrr .vfma)
  | 0x15 => some (.vrrrr .vfms)
  | 0x16 => some (.vrrrr .vmin)
  | 0x17 => some (.vrrrr .vmax)
  | 0x18 => some (.vrrrr .vabs)
  | 0x19 => some (.vrrrr .vneg)
  | 0x1A => some (.vrrrr .vmulw)
  | 0x20 => some (.vrrrr .vand)
  | 0x21 => some (.vrrrr .vor)
  | 0x22 => some (.vrrrr .vxor)
  | 0x23 => some (.vrrrr .vandn)
  | 0x24 => some (.vrrrr .vshl)
  | 0x25 => some (.vrrrr .vshr)
  | 0x26 => some (.vrrrr .vshra)
  | 0x27 => some (.vrri .vaddi)
  | 0x28 => some (.vrrrr .vclz)
  | 0x29 => some (.vrrrr .vpopc)
  | 0x30 => some (.vrrrr .vcmp)
  | 0x31 => some (.vrrrr .vcswp)
  | 0x32 => some (.vrrrr .vsel)
  | 0x33 => some (.vrrrr .vbcs)
  | 0x34 => some (.vrri .vidx)
  | 0x35 => some (.vrrrr .vshuf)
  | 0x36 => some (.vrri .vxcp)
  | 0x37 => some (.vrri .vmovi)
  | 0x38 => some (.vrri .vcmpi)
  | 0x40 => some (.vrrrr .vcvt)
  | 0x41 => some (.vrri .vqblk)
  | 0x42 => some (.vrrrr .vdq)
  | 0x43 => some (.vrrrr .vsf)
  | 0x44 => some (.vrrrr .vrndi)
  | 0x50 => some (.vrrrr .pand)
  | 0x51 => some (.vrrrr .por)
  | 0x52 => some (.vrrrr .pxor)
  | 0x53 => some (.vrrrr .pnot)
  | 0x54 => some (.vrrrr .pmov)
  | 0x55 => some (.vrrrr .pfirst)
  | 0x56 => some (.vrrrr .pcnt)
  | 0x57 => some (.vrri .pset)
  | _ => none

/-- Opcodes of RD (Table 3-5). -/
def opcodeRD (op : Nat) : Option Entry :=
  match op with
  | 0x00 => some (.vrrrr .racc)
  | 0x01 => some (.vrrrr .rsum)
  | 0x02 => some (.vrrrr .rmax)
  | 0x03 => some (.vrrrr .rmin)
  | 0x04 => some (.vrrrr .rargmax)
  | 0x05 => some (.vrrrr .rscan)
  | 0x06 => some (.vrrrr .rseg)
  | 0x07 => some (.vrrrr .rdrn)
  | 0x08 => some (.vrrrr .rclr)
  | 0x09 => some (.vrrrr .rcmb)
  | _ => none

/-- Opcodes of IX (Table 3-6). -/
def opcodeIX (op : Nat) : Option Entry :=
  match op with
  | 0x00 => some (.idx .ixpush)
  | 0x01 => some (.idx .ixpop)
  | 0x02 => some (.idx .ixcnt)
  | 0x03 => some (.idx .ixclr)
  | 0x04 => some (.idx (fun h o => if o.sub == 2 then .tlookRead h o else .tlook h o))
  | 0x05 => some (.idx .tset)
  | 0x06 => some (.idx (fun h o => if o.value h == 1 then .tclrAll h o else .tclr h o))
  | 0x07 => some (.idx .scat)
  | 0x08 => some (.idx (fun h o => if o.sub == 0 then .sacfgSet h o else if o.sub == 1 then .sacfgStat h o else .sacfgClr h o))
  | _ => none

/-- Opcodes of NA (Table 3-7). -/
def opcodeNA (op : Nat) : Option Entry :=
  match op with
  | 0x00 => some (.net .nrd)
  | 0x02 => some (.net .nrdl)
  | 0x04 => some (.net .ncopy)
  | 0x06 => some (.net .nsend)
  | _ => none

/-- Opcodes of NB (Table 3-7). -/
def opcodeNB (op : Nat) : Option Entry :=
  match op with
  | 0x00 => some (.net .nrd)
  | 0x02 => some (.net .nrdl)
  | 0x08 => some (.net .npass)
  | 0x09 => some (.net .trace)
  | 0x0A => some (.net .mwb)
  | _ => none

/-- NWR, or its form as a tile companion on an M-die (R83). -/
def entryNwr (k : DieKind) : Entry :=
  match k with
  | .v => .net .nwr
  | .m => .net .nwrTile

/-- Opcodes of NW but NWR (Table 3-7). -/
def opcodeNW (op : Nat) : Option Entry :=
  match op with
  | 0x03 => some (.net .nwrl)
  | 0x05 => some (.net .nfill)
  | 0x07 => some (.net .nrecv)
  | _ => none

/-- Opcodes of T0 to T3 (Table 3-8). -/
def opcodeT (op : Nat) : Option Entry :=
  match op with
  | 0x00 => some (.tile .mldw)
  | 0x01 => some (.tile (fun h o => if o.fa == .f64 then .mmaF64 h o else .mma h o))
  | 0x02 => some (.tile .mmaz)
  | 0x03 => some (.tile .mclr)
  | 0x04 => some (.tileSt .mst)
  | 0x05 => some (.tileSt .mqst)
  | 0x06 => some (.tile .mstat)
  | 0x07 => some (.tile .msel)
  | 0x08 => some (.tile (fun h o => if o.n == 1 then .mfreeLatch h o else .mfree h o))
  | 0x09 => some (.tile .mcopy)
  | _ => none

/-- Opcodes of XF (Table 3-9). -/
def opcodeXF (op : Nat) : Option Entry :=
  match op with
  | 0x00 => some (.xfer (fun h o => if bit 0 o.sub.toNat then .tdmaOut h o else .tdmaIn h o))
  | 0x01 => some (.xfer .send)
  | 0x02 => some (.xfer .recv)
  | 0x03 => some (.xfer .xpose)
  | 0x04 => some (.xfer .xred)
  | 0x05 => some (.xfer .cqpost)
  | 0x06 => some (.xfer .barinit)
  | 0x07 => some (.xfer .bararr)
  | 0x08 => some (.xfer .oqpush)
  | 0x09 => some (.xfer .rld)
  | 0x0A => some (.xfer .rst)
  | 0x0B => some (.xfer .lpark)
  | 0x0C => some (.xfer .lwake)
  | 0x0D => some (.xfer .ttsel)
  | 0x0E => some (.xfer .resync)
  | _ => none

/-- The entry of an opcode in a class of a die type; `none` where it is unassigned (R74). -/
def opcodeEntry (k : DieKind) (cls op : Nat) : Option Entry :=
  match k, cls with
  | _, 0 => (opcodeS01 op).or (opcodeS0 op)
  | .v, 1 => opcodeS01 op
  | .v, 10 => opcodeRD op
  | .v, 11 => opcodeIX op
  | .m, 6 => if op = 0 then some (.scale .mscld) else none
  | .m, 7 => if op = 0 then some (.xfer .oqpop) else none
  | .v, 12 => match op with
    | 0x00 | 0x02 | 0x04 | 0x06 => opcodeNA op
    | _ => none
  | .m, 12 => match op with
    | 0x04 | 0x06 => opcodeNA op
    | _ => none
  | .v, 13 => if op = 0x0A then none else opcodeNB op
  | .m, 13 => match op with
    | 0x08 | 0x0A => opcodeNB op
    | _ => none
  | .v, 14 => if op = 0x01 then some (entryNwr .v) else opcodeNW op
  | .m, 14 => if op = 0x01 then some (entryNwr .m) else if op = 0x03 then none else opcodeNW op
  | .v, 15 => opcodeXF op
  | .m, 15 => if op = 0x08 then none else opcodeXF op
  | .v, c => if 2 ≤ c ∧ c ≤ 9 then opcodeCluster op else none
  | .m, c => if 2 ≤ c ∧ c ≤ 5 then opcodeT op else none

/-- The instruction that a slot word of class `cls` reads as, whatever its fields' own checks say; none where its opcode is
unassigned. -/
def readSlot (k : DieKind) (cls : BitVec 4) (w : Word) (ext : Option (BitVec 20)) : Option Instr :=
  (opcodeEntry k cls.toNat (fieldAt w 56 8).toNat).map fun e =>
    (e.read { cls := cls, g := fieldAt w 52 4, gn := fieldAt w 51 1 == 1, ext := if fieldAt w 50 1 == 1 then ext else none } w).val

/-- The instruction of a slot word in class `cls`, with the extension field lent to it, or the lowest failing code of
the word's own checks (R66, Table 2-10). -/
def decodeSlot (k : DieKind) (hnd : Bool) (cls : BitVec 4) (w : Word) (ext : Option (BitVec 20)) :
    Except Reject Instr :=
  match opcodeEntry k cls.toNat (fieldAt w 56 8).toNat with
  | none => .error .opcode
  | some e =>
    let x := fieldAt w 50 1 == 1
    let h : Hdr := { cls := cls, g := fieldAt w 52 4, gn := fieldAt w 51 1 == 1, ext := if x then ext else none }
    let p := e.read h w
    match Reject.lowest (rejectIf (x && ext.isNone) .extension ++ p.bad ++ p.val.fieldRejects k hnd) with
    | none => .ok p.val
    | some r => .error r

/-! ### Bundles and issue groups (R51–R54, R61) -/

/-- A bundle header (Table 2-1). -/
structure Header where
  pmask : BitVec 16
  stop : Bool
  ck : Bool
  vj : Bool
  idle : BitVec 5
  ext1 : BitVec 20
  ext0 : BitVec 20
  deriving DecidableEq, Repr

/-- A bundle header of its word. -/
def readHeader (w : Word) : Header :=
  { pmask := fieldAt w 48 16, stop := fieldAt w 47 1 == 1, ck := fieldAt w 46 1 == 1, vj := fieldAt w 45 1 == 1,
    idle := fieldAt w 40 5, ext1 := fieldAt w 20 20, ext0 := fieldAt w 0 20 }

/-- One bit of a Boolean. -/
def flagBit (b : Bool) : BitVec 1 := if b then 1 else 0

/-- The word of a bundle header. -/
def Header.word (h : Header) : Word :=
  h.pmask ++ flagBit h.stop ++ flagBit h.ck ++ flagBit h.vj ++ h.idle ++ h.ext1 ++ h.ext0

/-- A slot word with its class and the extension lent to it. -/
structure SlotWord where
  cls : BitVec 4
  word : Word
  ext : Option (BitVec 20)
  deriving DecidableEq, Repr

/-- The slot words of a bundle in ascending class index, each with the extension field lent to it: EXT0 to the first
word with X set, EXT1 to the second (R54, R61). -/
def takeSlots (pmask : BitVec 16) : List Nat → List (BitVec 20) → List Word → Option (List SlotWord × List Word)
  | [], _, ws => some ([], ws)
  | c :: cs, exts, ws =>
    if pmask.getLsbD c then
      match ws with
      | [] => none
      | w :: ws' =>
        let x := fieldAt w 50 1 == 1
        match takeSlots pmask cs (if x then exts.tail else exts) ws' with
        | none => none
        | some (ss, rest) => some ({ cls := BitVec.ofNat 4 c, word := w, ext := if x then exts.head? else none } :: ss, rest)
    else takeSlots pmask cs exts ws

/-- One bundle: its header and slot words. -/
structure Bundle where
  header : Header
  slots : List SlotWord
  deriving DecidableEq, Repr

/-- The bundle at the head of a list of words, and the words after it. -/
def takeBundle (ws : List Word) : Option (Bundle × List Word) :=
  match ws with
  | [] => none
  | w :: ws' =>
    let h := readHeader w
    match takeSlots h.pmask (List.range 16) [h.ext0, h.ext1] ws' with
    | none => none
    | some (ss, rest) => some ({ header := h, slots := ss }, rest)

/-- The bundles of the group at the head of a list of words, up to STOP and at most `fuel` of them. -/
def takeGroup : Nat → List Word → Option (List Bundle)
  | 0, _ => none
  | n + 1, ws =>
    match takeBundle ws with
    | none => none
    | some (b, rest) =>
      if b.header.stop then some [b]
      else match takeGroup n rest with
        | none => none
        | some bs => some (b :: bs)

/-- Words of a bundle. -/
def Bundle.size (b : Bundle) : Nat := 1 + b.slots.length

/-- Insertion of a slot word in ascending class order. -/
def insertSlot (s : SlotWord) : List SlotWord → List SlotWord
  | [] => [s]
  | t :: ts => if s.cls.toNat < t.cls.toNat then s :: t :: ts else t :: insertSlot s ts

/-- An issue group as the sequencer takes it: its slot words in ascending class index, its checkpoint and view-join
bits, its idle count if it is an idle group, and its length in words (R51–R54). -/
structure Group where
  slots : List SlotWord
  ck : Bool
  vj : Bool
  idle : Option (BitVec 5)
  size : Nat
  deriving DecidableEq, Repr

/-- The issue group at the head of a list of words. -/
def decodeGroup (ws : List Word) : Option Group :=
  match takeGroup 3 ws with
  | none => none
  | some [] => none
  | some (b :: bs) =>
    let all := b :: bs
    some { slots := (all.flatMap Bundle.slots).foldr insertSlot []
           ck := b.header.ck, vj := b.header.vj
           idle := if b.header.pmask = 0 then some b.header.idle else none
           size := (all.map Bundle.size).sum }

/-! ### Encoder -/

/-- The operand bits [49:0] of a slot word (Table 2-4). -/
def Operands.body : Operands → BitVec 50
  | rrr o => o.d ++ o.x ++ o.y ++ o.z ++ o.fn ++ o.rnd.code ++ (0 : BitVec 17)
  | ri o => o.d ++ o.x ++ o.fn ++ o.imm
  | branch o => o.fn ++ o.x ++ o.y ++ o.off
  | sys o => o.d ++ o.x ++ o.sr ++ o.scope.code ++ o.cls ++ o.imm
  | vrrrr o => o.d ++ o.x ++ o.y ++ o.z ++ o.fmt.code ++ o.ovf.code ++ o.rnd.code ++ flagBit o.ftz ++ o.sub ++
      (0 : BitVec 9)
  | vrri o => o.d ++ o.x ++ o.fmt.code ++ o.ovf.code ++ o.rnd.code ++ flagBit o.ftz ++ o.sub ++ o.imm
  | net o => o.d ++ o.pl ++ o.b ++ o.roff ++ o.sub ++ (0 : BitVec 4)
  | idx o => o.d ++ o.x ++ o.y ++ o.tk ++ o.fmt.code ++ o.sub ++ o.imm
  | tile o => o.td ++ o.tx ++ o.fa.code ++ o.fb.code ++ o.n ++ o.cap ++ o.b ++ o.ks ++ o.js ++ flagBit o.sp ++
      (0 : BitVec 8)
  | tileSt o => o.td ++ o.rg ++ o.nrg ++ o.fd.code ++ o.ovf.code ++ o.rnd.code ++ flagBit o.ftz ++ o.el ++ o.dl ++
      o.b ++ (0 : BitVec 18)
  | scale o => flagBit o.kj ++ o.kn ++ o.tg ++ o.b ++ o.imm ++ o.n ++ (0 : BitVec 14)
  | xfer o => o.d ++ o.x ++ o.y ++ o.z ++ o.pr ++ o.scope.code ++ o.sub ++ o.imm

/-- The bits [63:50] of a slot word (Table 2-3). -/
def slotPrefix (op : BitVec 8) (h : Hdr) : BitVec 14 := op ++ h.g ++ flagBit h.gn ++ flagBit h.ext.isSome

/-- The slot word of an instruction; `none` for idle bundles and events, which have no slot word. -/
def encodeSlot (i : Instr) : Option Word :=
  match i.hdr, i.operands with
  | some h, some o => some (slotPrefix i.opcode h ++ o.body)
  | _, _ => none

/-- The words of a bundle that holds one slot instruction, or of an idle bundle: its header and its slot word. An
extension lent to the slot stands in EXT0 (R52, R53, R61). -/
def encode (i : Instr) : Option (List Word) :=
  match i with
  | .idleBundle n ck vj => some [Header.word { pmask := 0, stop := true, ck := ck, vj := vj, idle := n, ext1 := 0, ext0 := 0 }]
  | _ =>
    match i.hdr, encodeSlot i with
    | some h, some w =>
      some [Header.word { pmask := 1 <<< h.cls.toNat, stop := true, ck := false, vj := false, idle := 0, ext1 := 0,
                          ext0 := h.ext.getD 0 }, w]
    | _, _ => none

/-- The first instruction of a bundle's words on a die of type k: the idle bundle, or the instruction of the slot word
with the lowest class (R53, R54). -/
def decodeFirst (k : DieKind) (hnd : Bool) (ws : List Word) : Except Reject Instr :=
  match decodeGroup ws with
  | none => .error .imageFormat
  | some g =>
    match g.idle with
    | some n => .ok (.idleBundle n g.ck g.vj)
    | none =>
      match g.slots with
      | [] => .error .imageFormat
      | s :: _ => if classExists k s.cls.toNat then decodeSlot k hnd s.cls s.word s.ext else .error .dieKind

/-- The words that a numeral stands for: its 64-bit digits, the first word lowest, as many as a group can hold. -/
def wordsOfNat : Nat → Nat → List Word
  | 0, _ => []
  | n + 1, w => BitVec.ofNat 64 w :: wordsOfNat n (w >>> 64)

/-- The most words a group holds: three bundles of a header and 16 slots. -/
def maxGroupWords : Nat := 51

/-- The die type whose decoder accepts the words, V-die first, with the instruction. -/
def decodeEither (ws : List Word) : Option (DieKind × Instr) :=
  match decodeFirst .v true ws with
  | .ok i => some (.v, i)
  | .error _ =>
    match decodeFirst .m true ws with
    | .ok i => some (.m, i)
    | .error _ => none

/-- The instruction that the decoder reads from the bundle whose words are the 64-bit digits of `w`: header first. -/
def decodeTableWord (_nbits w : Nat) : Option Instr := (decodeEither (wordsOfNat maxGroupWords w)).map (·.2)

end Sys2Proof
end

