-- ==== Sys2Proof/Machine/Numbers.lean ====
section
/-!
DEFINITION. Number formats and exact arithmetic (04): exact values, decoding, rounding, overflow, conversion, and the
stochastic generator.
-/

namespace Sys2Proof

/-- An exact value: NaN, a signed infinity, or the signed number num / den × 2^e (den positive). Zero keeps its sign. -/
inductive XV where
  | nan
  | inf (neg : Bool)
  | fin (neg : Bool) (num den : Nat) (e : Int)
  deriving DecidableEq, Repr, Inhabited

/-! ### FLAGS bits (Table 1-13) -/

abbrev Flags := BitVec 8
def flagIV : Flags := 0x01
def flagDZ : Flags := 0x02
def flagOF : Flags := 0x04
def flagUF : Flags := 0x08
def flagNX : Flags := 0x10
def flagSAT : Flags := 0x20
def flagSCLIP : Flags := 0x40
def flagISAT : Flags := 0x80

/-- A flag under a condition. -/
def flagIf (c : Bool) (f : Flags) : Flags := if c then f else 0

/-- The result of a rounding or conversion: the bits of the destination format, the flags it raises, and whether it
raises the precise overflow trap (R100–R102). -/
structure Rounded where
  bits : Nat
  flags : Flags := 0
  trap : Bool := false
  deriving DecidableEq, Repr, Inhabited

/-! ### Floating-point formats (Table 4-1) -/

/-- Exponent bits, mantissa bits and bias of a floating-point format (Table 4-1). -/
structure FpSpec where
  eb : Nat
  mb : Nat
  bias : Nat
  deriving DecidableEq, Repr

/-- The layout of a format; integer and block formats take the layout of their own element where it is a float. -/
def Fmt.fp : Fmt → FpSpec
  | f64 => ⟨11, 52, 1023⟩
  | f32 => ⟨8, 23, 127⟩
  | f16 => ⟨5, 10, 15⟩
  | bf16 => ⟨8, 7, 127⟩
  | f8a | hb8a => ⟨4, 3, 7⟩
  | f8b | hb8b => ⟨5, 2, 15⟩
  | f4 | hb4 => ⟨2, 1, 1⟩
  | _ => ⟨0, 0, 0⟩

/-- Formats with infinities (Table 4-1). -/
def Fmt.hasInf : Fmt → Bool
  | f64 | f32 | f16 | bf16 | f8b | hb8b => true
  | _ => false

/-- Formats with NaN codes (Table 4-1). -/
def Fmt.hasNaN : Fmt → Bool
  | f64 | f32 | f16 | bf16 | f8b | hb8b | f8a | hb8a => true
  | _ => false

/-- The default NaN (Table 4-1); zero where a format has none. -/
def Fmt.defaultNaN : Fmt → Nat
  | f64 => 0x7FF8000000000000
  | f32 => 0x7FC00000
  | f16 => 0x7E00
  | bf16 => 0x7FC0
  | f8a | hb8a => 0x7F
  | f8b | hb8b => 0x7E
  | _ => 0

/-- The magnitude bits of the largest finite value (Table 4-1). -/
def Fmt.maxFiniteBits : Fmt → Nat
  | f64 => 0x7FEFFFFFFFFFFFFF
  | f32 => 0x7F7FFFFF
  | f16 => 0x7BFF
  | bf16 => 0x7F7F
  | f8a | hb8a => 0x7E
  | f8b | hb8b => 0x7B
  | f4 | hb4 => 0x7
  | _ => 0

/-- The magnitude bits of infinity, for formats that have it (Table 4-1). -/
def Fmt.infBits (f : Fmt) : Nat := (2 ^ f.fp.eb - 1) * 2 ^ f.fp.mb

/-- The sign bit of a format of sign, exponent and mantissa. -/
def Fmt.signBit (f : Fmt) : Nat := 2 ^ (f.fp.eb + f.fp.mb)

/-- FTZ acts on FP64, FP32, FP16, BF16 and F8B (R89). -/
def Fmt.flushes : Fmt → Bool
  | f64 | f32 | f16 | bf16 | f8b | hb8b => true
  | _ => false

/-- The exponent of the smallest normal value: 1 − bias. -/
def Fmt.emin (f : Fmt) : Int := 1 - (f.fp.bias : Int)

/-- The value of a floating-point pattern (R87). -/
def fpValue (f : Fmt) (n : Nat) : XV :=
  let s := f.fp
  let neg := bit (s.eb + s.mb) n
  let ex := bits (s.eb + s.mb - 1) s.mb n
  let m := n % 2 ^ s.mb
  let top := 2 ^ s.eb - 1
  if ex = top ∧ f.hasInf then (if m = 0 then .inf neg else .nan)
  else if ex = top ∧ m = 2 ^ s.mb - 1 ∧ f.hasNaN then .nan
  else if ex = 0 then .fin neg m 1 (f.emin - s.mb)
  else .fin neg (2 ^ s.mb + m) 1 ((ex : Int) - s.bias - s.mb)

/-- A pattern is subnormal: exponent field 0 and mantissa not 0. -/
def fpSubnormal (f : Fmt) (n : Nat) : Bool := bits (f.fp.eb + f.fp.mb - 1) f.fp.mb n == 0 && n % 2 ^ f.fp.mb != 0

/-- The value of a floating-point source, flushed under FTZ (R89). -/
def fpSource (f : Fmt) (ftz : Bool) (n : Nat) : XV :=
  if ftz && f.flushes && fpSubnormal f n then .fin (bit (f.fp.eb + f.fp.mb) n) 0 1 0 else fpValue f n

/-- An integer as an exact value. -/
def XV.ofInt (i : Int) : XV := .fin (i < 0) i.natAbs 1 0

/-- The integer value of a pattern under an integer format (R90). -/
def intValue (f : Fmt) (n : Nat) : Int := if f.isSigned then sval f.width n else (n % 2 ^ f.width : Nat)

/-- The value of an element of any VI, VF or VN format, flushed under FTZ. -/
def elemValue (f : Fmt) (ftz : Bool) (n : Nat) : XV :=
  if f.isInt then .ofInt (intValue f n) else fpSource f ftz n

/-! ### Operations on exact values (R88) -/

/-- The value is zero. -/
def XV.isZero : XV → Bool
  | fin _ n _ _ => n == 0
  | _ => false

/-- The sign. -/
def XV.neg? : XV → Bool
  | nan => false
  | inf s => s
  | fin s _ _ _ => s

/-- Sign change. -/
def XV.negate : XV → XV
  | nan => nan
  | inf s => inf (!s)
  | fin s n d e => fin (!s) n d e

/-- Magnitude. -/
def XV.abs : XV → XV
  | nan => nan
  | inf _ => inf false
  | fin _ n d e => fin false n d e

/-- 2^k for a nonnegative part of an exponent. -/
def pow2 (i : Int) : Nat := 2 ^ i.toNat

/-- Comparison of magnitudes num/den × 2^e. -/
def magLt (n1 d1 : Nat) (e1 : Int) (n2 d2 : Nat) (e2 : Int) : Bool :=
  let e := min e1 e2
  n1 * pow2 (e1 - e) * d2 < n2 * pow2 (e2 - e) * d1

/-- The sum of two finite values; an exact zero sum is +0, or −0 under rounding toward −∞ or where both are −0
(R88, R117). -/
def finAdd (rnd : Rnd) (s1 : Bool) (n1 d1 : Nat) (e1 : Int) (s2 : Bool) (n2 d2 : Nat) (e2 : Int) : XV :=
  let e := min e1 e2
  let a := n1 * pow2 (e1 - e) * d2
  let b := n2 * pow2 (e2 - e) * d1
  if a = 0 ∧ b = 0 then .fin (if s1 = s2 then s1 else rnd == .dn) 0 1 0
  else if s1 = s2 then .fin s1 (a + b) (d1 * d2) e
  else if a = b then .fin (rnd == .dn) 0 1 0
  else if b < a then .fin s1 (a - b) (d1 * d2) e
  else .fin s2 (b - a) (d1 * d2) e

/-- An exact result with its invalid-operation and division-by-zero flags. -/
structure XRes where
  val : XV
  flags : Flags := 0
  deriving DecidableEq, Repr, Inhabited

/-- Sum: ∞ − ∞ is invalid (R88, R117). -/
def XV.add (rnd : Rnd) : XV → XV → XRes
  | nan, _ => ⟨nan, 0⟩
  | _, nan => ⟨nan, 0⟩
  | inf a, inf b => if a = b then ⟨inf a, 0⟩ else ⟨nan, flagIV⟩
  | inf a, fin .. => ⟨inf a, 0⟩
  | fin .., inf b => ⟨inf b, 0⟩
  | fin s1 n1 d1 e1, fin s2 n2 d2 e2 => ⟨finAdd rnd s1 n1 d1 e1 s2 n2 d2 e2, 0⟩

/-- Product: 0 × ∞ is invalid. -/
def XV.mul : XV → XV → XRes
  | nan, _ => ⟨nan, 0⟩
  | _, nan => ⟨nan, 0⟩
  | inf a, inf b => ⟨inf (a != b), 0⟩
  | inf a, fin s n _ _ => if n = 0 then ⟨nan, flagIV⟩ else ⟨inf (a != s), 0⟩
  | fin s n _ _, inf b => if n = 0 then ⟨nan, flagIV⟩ else ⟨inf (s != b), 0⟩
  | fin s1 n1 d1 e1, fin s2 n2 d2 e2 => ⟨fin (s1 != s2) (n1 * n2) (d1 * d2) (e1 + e2), 0⟩

/-- Product plus addend, exact; 0 × ∞ is invalid even with a NaN addend (R117). -/
def XV.fma (rnd : Rnd) (a b c : XV) : XRes :=
  let p := a.mul b
  if p.flags ≠ 0 then p else (p.val.add rnd c)

/-- Quotient: 0/0 and ∞/∞ are invalid; a finite nonzero value over zero is an infinity and sets DZ (R117). -/
def XV.div : XV → XV → XRes
  | nan, _ => ⟨nan, 0⟩
  | _, nan => ⟨nan, 0⟩
  | inf _, inf _ => ⟨nan, flagIV⟩
  | inf a, fin s _ _ _ => ⟨inf (a != s), 0⟩
  | fin s _ _ _, inf b => ⟨fin (s != b) 0 1 0, 0⟩
  | fin s1 n1 d1 e1, fin s2 n2 d2 e2 =>
    if n2 = 0 then (if n1 = 0 then ⟨nan, flagIV⟩ else ⟨inf (s1 != s2), flagDZ⟩)
    else ⟨fin (s1 != s2) (n1 * d2) (d1 * n2) (e1 - e2), 0⟩

/-- Numeric order of two values that are not NaN: −0 equals +0. -/
def XV.lt : XV → XV → Bool
  | nan, _ => false
  | _, nan => false
  | inf a, inf b => a && !b
  | inf a, fin .. => a
  | fin .., inf b => !b
  | fin s1 n1 d1 e1, fin s2 n2 d2 e2 =>
    if n1 = 0 ∧ n2 = 0 then false
    else if s1 && n1 != 0 then (if s2 && n2 != 0 then magLt n2 d2 e2 n1 d1 e1 else true)
    else if s2 && n2 != 0 then false
    else magLt n1 d1 e1 n2 d2 e2

/-- Numeric equality of two values that are not NaN. -/
def XV.eqv : XV → XV → Bool
  | nan, _ => false
  | _, nan => false
  | a, b => !a.lt b && !b.lt a

/-- The value is a NaN. -/
def XV.isNaN : XV → Bool
  | nan => true
  | _ => false

/-- The value is an infinity. -/
def XV.isInf : XV → Bool
  | inf _ => true
  | _ => false

/-! ### Rounding (R100, R101) -/

/-- The magnitude num/den × 2^e as a multiple of 2^q, rounded by a mode; and whether it was exact. `u` is the draw. -/
def roundMag (num den : Nat) (e q : Int) (rnd : Rnd) (neg : Bool) (u : Nat) : Nat × Bool :=
  let n := if q ≤ e then num * pow2 (e - q) else num
  let d := if q ≤ e then den else den * pow2 (q - e)
  let lo := n / d
  let rem := n % d
  let up := match rnd with
    | .ne => d < 2 * rem || (2 * rem == d && lo % 2 == 1)
    | .tz => false
    | .up => !neg
    | .dn => neg
    | .st => u < rem * 2 ^ 32 / d
  if rem = 0 then (lo, true) else (if up then lo + 1 else lo, false)

/-- The exponent of the leading bit of a positive num/den × 2^e. -/
def leadExp (num den : Nat) (e : Int) : Int :=
  let l : Int := (Nat.log2 num : Int) - (Nat.log2 den : Int)
  let below := if 0 ≤ l then decide (num < den * pow2 l) else decide (num * pow2 (-l) < den)
  (if below then l - 1 else l) + e

/-- The pattern of the grid value n × 2^q of a format, n below 2^(mb + 1) or a power of two just above (q at or above
the subnormal spacing). -/
def packFp (f : Fmt) (neg : Bool) (n : Nat) (q : Int) : Nat :=
  let mb := f.fp.mb
  let base := f.emin - mb
  -- the magnitude pattern counts grid steps: each binade holds 2^mb of them
  let mag := if n = 0 then 0 else n + (q - base).toNat * 2 ^ mb
  (if neg then f.signBit else 0) + mag

/-- Overflow (Table 4-6). -/
def overflowTo (f : Fmt) (neg : Bool) (ovf : Ovf) : Rounded :=
  let s := if neg then f.signBit else 0
  match ovf with
  | .sat => { bits := s + f.maxFiniteBits, flags := flagSAT ||| flagNX }
  | .inf =>
    { bits := if f.hasInf then s + f.infBits else if f.hasNaN then f.defaultNaN else s + f.maxFiniteBits,
      flags := flagOF ||| flagNX }
  | .nan => { bits := if f.hasNaN then f.defaultNaN else s + f.maxFiniteBits, flags := flagOF ||| flagNX }
  | .trap => { bits := 0, trap := true }

/-- `round_to` of R100 with the draw `u` already taken. -/
def roundTo (f : Fmt) (x : XV) (rnd : Rnd) (ovf : Ovf) (ftz : Bool) (u : Nat) : Rounded :=
  match x with
  | .nan =>
    if f.hasNaN then { bits := f.defaultNaN }
    else { bits := 0, flags := if ovf = .trap then 0 else flagIV, trap := ovf == .trap }
  | .inf neg => if f.hasInf then { bits := (if neg then f.signBit else 0) + f.infBits } else overflowTo f neg ovf
  | .fin neg num den e =>
    if num = 0 then { bits := if neg then f.signBit else 0 }
    else
      let le := leadExp num den e
      if ftz && f.flushes && le < f.emin then
        { bits := if neg then f.signBit else 0, flags := flagUF ||| flagNX }
      else
        let q : Int := max (le - f.fp.mb) (f.emin - f.fp.mb)
        let r := roundMag num den e q rnd neg u
        let mag := packFp f false r.1 q
        if f.maxFiniteBits < mag then overflowTo f neg ovf
        else
          { bits := (if neg then f.signBit else 0) + mag,
            flags := if r.2 then 0
              else flagNX ||| flagIf (le < f.emin || mag < 2 ^ f.fp.mb) flagUF }

/-! ### Integers (R76, R102) -/

/-- The least value of an integer format. -/
def Fmt.minInt (f : Fmt) : Int := if f.isSigned then -(2 ^ (f.width - 1) : Int) else 0

/-- The greatest value of an integer format. -/
def Fmt.maxInt (f : Fmt) : Int := if f.isSigned then 2 ^ (f.width - 1) - 1 else 2 ^ f.width - 1

/-- An exact integer into an integer format under R76's policy: 00 saturates and sets ISAT, 01 wraps, 11 traps. -/
def intTo (f : Fmt) (n : Int) (ovf : Ovf) : Rounded :=
  if f.minInt ≤ n ∧ n ≤ f.maxInt then { bits := wrapTo f.width n }
  else match ovf with
    | .sat => { bits := wrapTo f.width (if n < 0 then f.minInt else f.maxInt), flags := flagISAT }
    | .trap => { bits := 0, trap := true }
    | _ => { bits := wrapTo f.width n }

/-- A finite value on the integer grid (R102 step 1): the integer, whatever its size, and whether it is the value. -/
def gridInt (neg : Bool) (num den : Nat) (e : Int) (rnd : Rnd) (u : Nat) : Int × Bool :=
  let r := roundMag num den e 0 rnd neg u
  (if neg then -(r.1 : Int) else r.1, r.2)

/-- Conversion of a floating-point value to an integer format (R102). -/
def floatToInt (f : Fmt) (x : XV) (rnd : Rnd) (ovf : Ovf) (u : Nat) : Rounded :=
  match x with
  | .nan => { bits := 0, flags := flagIV }
  | .inf neg =>
    match ovf with
    | .sat => { bits := wrapTo f.width (if neg then f.minInt else f.maxInt), flags := flagISAT }
    | .trap => { bits := 0, trap := true }
    | _ => { bits := 0, flags := flagIV }
  | .fin neg num den e =>
    let r := gridInt neg num den e rnd u
    if f.minInt ≤ r.1 ∧ r.1 ≤ f.maxInt then { bits := wrapTo f.width r.1, flags := flagIf (!r.2) flagNX }
    else intTo f r.1 ovf

/-- Any value into any element format. -/
def roundElem (f : Fmt) (x : XV) (rnd : Rnd) (ovf : Ovf) (ftz : Bool) (u : Nat) : Rounded :=
  if f.isInt then floatToInt f x rnd ovf u else roundTo f x rnd ovf ftz u

/-! ### The stochastic generator (R103) -/

/-- One step of the generator. -/
def nextSeed (s : Word) : Word :=
  let s0 := if s = 0 then 0x9E3779B97F4A7C15#64 else s
  let s1 := s0 ^^^ (s0 <<< 13)
  let s2 := s1 ^^^ (s1 >>> 7)
  s2 ^^^ (s2 <<< 17)

/-- The value of the draw that left this state: SEED[63:32]. -/
def drawOf (s : Word) : Nat := s.toNat >>> 32

/-- A draw that is taken only under RND = 100: the new state and the drawn number. -/
def drawIf (rnd : Rnd) (s : Word) : Word × Nat :=
  match rnd with
  | .st => (nextSeed s, drawOf (nextSeed s))
  | _ => (s, 0)

end Sys2Proof
end

