-- ==== Sys2Proof/Machine/State.lean ====
section
/-!
DEFINITION. The state of one BV-NL4 package (01, and the chapters that name each piece), as plain data; the reasons a
step can stop; and the state right after power-on reset.
-/

namespace Sys2Proof.Machine

/-! ### Sparse memories -/

/-- A memory: (address, byte) pairs at strictly rising addresses, no entry zero; an unlisted byte reads 0 (log 2). -/
abbrev Mem := List Host.Cell

/-- A sparse table of w-bit words in the same canonical form. -/
abbrev SMap (w : Nat) := List (Nat × BitVec w)

/-! ### Traps and effects -/

/-- A trap as a slot or an engine raises it: the cause code of Table 12-3, TRAPINFO, the slot class and the cluster that
TRAPCAUSE reports (R46). -/
structure Trap where
  code : Nat
  info : Nat
  cls : Nat
  clus : Option Nat
  /-- gang step of the bundle at fault, where it is not the count of the trap (R311) -/
  gstep : Option Nat := none
  deriving DecidableEq, Repr, Inhabited

/-- A live plate (R28, R187): its bytes except the switch settings, and for each enabled column the position that the
switches route it to. -/
structure LivePlate where
  cen : BitVec 256
  pen : BitVec 256
  sel : List Nat
  row : List Nat
  pos : List (Nat × Nat)
  deriving DecidableEq, Repr, Inhabited

/-- An AQ entry (R26, R189): which DQ entry it feeds, its target kind, element size, base or descriptor, stride and
indices with their validity, and for TK 2 the bank address of each hit. -/
structure AqEntry where
  id : Nat
  tk : Nat
  size : Nat
  base : Nat
  stride : Nat
  idx : List (Option Int)
  hits : List (Option Nat)
  deriving DecidableEq, Repr, Inhabited

/-- State of a DQ entry that is not FREE (Table 1-3). -/
inductive DqStatus where
  | wait
  | landed
  | poisoned (g : Nat) (t : Trap)
  deriving DecidableEq, Repr, Inhabited

/-- A DQ entry that is not FREE (R26, R191): its data, the elements still awaited, the hit mask of TK 2, the lowest
faulting element so far, and the context step of its push (R313). -/
structure DqEntry where
  id : Nat
  status : DqStatus
  data : KiB
  size : Nat
  waiting : List Nat
  hits : BitVec 128
  tk : Nat
  step : Nat
  /-- the entry of the read staging of each element -/
  stages : List (Nat × Nat)
  /-- elements read at their home and not yet returned: index and value, or the fault met -/
  got : List (Nat × Option Trap × Nat)
  /-- elements that AQ does not send: served from staging, or hits of the tag table -/
  skip : List Nat
  /-- the push, as it entered AQ -/
  src : AqEntry
  /-- gang step of the bundle that pushed it (R311) -/
  gstep : Nat := 0
  deriving DecidableEq, Repr, Inhabited

/-- An operand-queue entry (R33, R254): its value, the count at which it becomes poppable, and whether it is. -/
structure OqEntry where
  id : Nat
  value : Word
  ready : Nat
  poppable : Bool
  deriving DecidableEq, Repr, Inhabited

/-- A scatter region's configuration and status (Tables 7-11 and 7-12). -/
structure ScatRegion where
  conf : Bool
  base : Word
  wide : Bool
  translated : Bool
  f : Nat
  len : Nat
  sat : Bool
  nanv : Bool
  ovf : Bool
  deriving DecidableEq, Repr, Inhabited

/-- A scatter element in its region's stream: the cell index, the value and its format, under the configuration of its
push, with the push and the region it belongs to (R198). -/
structure ScatElem where
  push : Nat
  region : Nat
  cell : Nat
  value : Nat
  f64 : Bool
  cfg : ScatRegion
  /-- gang step of the bundle that pushed it (R311) -/
  gstep : Nat := 0
  /-- the last one before a SACFG of its region: its window closes with it (R198) -/
  cut : Bool := false
  deriving DecidableEq, Repr, Inhabited

/-- The scatter engine of a context (R197, R198): for each region the open window and the closed windows that have
not performed. A push has performed when none of its elements is left in them. -/
structure ScatStream where
  open_ : List ScatElem
  closed : List (List ScatElem)
  deriving DecidableEq, Repr, Inhabited

/-- Atomic operations (R123), and the two updates that engines make with the same indivisibility: the claim of CQPOST
(R247) and the arrival at a barrier (R253). -/
inductive AtomOp where
  | add | inc | cas | xchg
  deriving DecidableEq, Repr, Inhabited

/-- Where a translated address leads (R327, R354): a stack of the package, a bank wall of the package, another package,
or the host. -/
inductive Home where
  | stack (n : Nat) (off : Nat)
  | bank (die : Nat) (addr : Nat)
  | remote (pkg : Nat) (addr : Nat)
  | host (addr : Nat)
  deriving DecidableEq, Repr, Inhabited

/-- What an instruction that set a promise does (R229). -/
inductive ReqKind where
  | ldh (d : Nat) (sext : Bool)
  | atomic (op : AtomOp) (y z : Word) (d : Nat) (log : Nat)
  | claim (d : Nat) (pkt : List Byte) (log : Nat)
  | barinit (v : Word)
  | tdmaIn | tdmaOut | rld | enqueue | collective
  deriving DecidableEq, Repr, Inhabited

/-- A granule of a transfer: its number, its place in the bank, its translated address, the burst slot it takes (stack,
frame, slot, channel), the count at which it lands or performs, its data once read, its entry of the read staging, and
whether that entry serves it (R313). -/
structure Gran where
  k : Nat
  bank : Nat
  addr : Nat
  slot : Option (Nat × Nat × Nat × Nat)
  due : Nat
  data : Option Nat
  stage : Nat
  done : Bool
  served : Bool
  deriving DecidableEq, Repr, Inhabited

/-- A transfer that a context started and the engine tracks (R41, R229): its promise, its class for TRAPCAUSE (R46), and
its progress. -/
structure Req where
  id : Nat
  kind : ReqKind
  cls : Nat
  pr : Nat
  addr : Word
  bank : Nat
  size : Nat
  issued : Nat
  step : Nat
  pstep : Nat
  home : Option Home
  value : Option Nat
  /-- bytes that deferred STHs of the region supply to an LDH (R122) -/
  overBy : List (Option Byte)
  /-- ring address and size that a claim read (R247) -/
  aux : Nat × Nat
  landed : Bool
  /-- served from read staging or from the atomic log (R313, R124) -/
  replayed : Bool
  stage : Nat
  grans : List Gran
  done : Bool
  retry : Bool
  poison : Option Trap
  /-- a later promise has taken its register (R41) -/
  superseded : Bool := false
  /-- it ended after its PSTEP -/
  late : Bool := false
  /-- gang step of the bundle that started it (R311) -/
  gstep : Nat := 0
  /-- the ASID under which a sent atomic was translated (R328) -/
  asid : Nat := 0
  deriving DecidableEq, Repr, Inhabited

/-- A write of the deferred-write set (R122, R314): the aligned 64-byte granule of the translated address, its bytes and
byte mask, and the family that decides which DRAIN covers it and how it performs. -/
structure DefWrite where
  addr : Nat
  data : BitVec 512
  mask : BitVec 64
  /-- placed by an STH: a later LDH of the region takes its bytes (R122) -/
  sth : Bool
  tdma : Bool
  cq : Bool
  /-- slot class of the instruction that wrote last (R46) -/
  cls : Nat
  /-- the address at which the RST that wrote it begins: its granules leave in one frame (R398) -/
  rst : Option Nat
  /-- step of its context in which it entered the set: an LDH of a later step takes its bytes (R122) -/
  step : Nat := 0
  deriving DecidableEq, Repr, Inhabited

/-- A deferred arrival at a barrier object (R253): its address, its value, its scope. -/
structure DefArrival where
  addr : Word
  value : Word
  scope : Scope
  deriving DecidableEq, Repr, Inhabited

/-- Families of staged reads (R313); the last names an element that arrived for a DQ entry pushed before the region. -/
inductive Family where
  | ldh | tdma | rld | ix | coll | waitb | arrived (id g : Nat)
  deriving DecidableEq, Repr, Inhabited

/-- A staged read (R313), opened at its issue: address, size, the value and the steps from issue to landing once it has
returned, and whether the present run has consumed it. -/
structure Staged where
  key : Nat
  family : Family
  addr : Nat
  size : Nat
  value : Option Nat
  steps : Nat
  used : Bool
  deriving DecidableEq, Repr, Inhabited

/-- A before-image (R312): store 0 bank, 1 weight buffer, 2 tag table; the line's address; its value before the region's
first write. -/
structure Before where
  store : Nat
  line : Nat
  old : BitVec 512
  deriving DecidableEq, Repr, Inhabited

/-- A bank word written through one view and not yet joined to the other (R268). -/
structure Unjoined where
  addr : Nat
  old : BitVec 32
  plate : Bool
  deriving DecidableEq, Repr, Inhabited

/-- The effects of a slot. A result is an effect with a latency; an effect of latency 0 takes place at the end of the
issue step. -/
inductive Act where
  | s (n : Nat) (v : Word)
  | q (n : Nat) (b : Bool)
  | v (c n : Nat) (val : VReg) (mask : PReg)
  | p (c n : Nat) (val mask : PReg)
  | a (n : Nat) (val : VReg) (mask : PReg)
  | lp (n : Nat) (pl : LivePlate)
  | flags (f : Flags)
  | bank (plate : Bool) (bytes : List (Nat × Byte))
  | wbuf (bytes : List (Nat × Byte))
  | tag (slot : Nat) (val : BitVec 128)
  | clearTags (base n : Nat)
  | scale (g : Nat) (kj : Bool) (n : Nat) (entries : List (BitVec 16))
  | lc (v : Word)
  | vrb (v : BitVec 5)
  | sysreg (n : Nat) (v : Word)
  | guarded (b : Bool)
  | exit (succ : Option Nat)
  | rett (k : Nat)
  | dqPush (e : DqEntry) (q : AqEntry)
  | aqPush (e : AqEntry)
  | dqPop (id : Nat)
  | ixclr
  | scatPush (r : Nat) (es : List ScatElem)
  | scatSet (r : Nat) (cfg : ScatRegion)
  | scatClr (r : Nat)
  | scatClose (r : Nat)
  | oqPop
  | oqPush (v : Word)
  | busy (g t cnt : Nat) (pair mma : Bool) (form : Option Bool)
  | tile (g t : Nat) (cells : List (Nat × BitVec 32))
  | tileSet (g t : Nat) (cells : List (Nat × BitVec 32))
  | tileFree (g t : Nat)
  | latch (g w : Nat) (fmt : Fmt) (sp : Bool) (plate llen : Nat) (bytes : List (List (Nat × Byte)))
      (scales : List (List (BitVec 16))) (stip : List (List (BitVec 32)))
  | latchFree (g w : Nat)
  | select (g n : Nat)
  | start (r : Req)
  | defer (ws : List DefWrite)
  | arrive (a : DefArrival)
  | logAtomic (log : Nat)
  | replayed (id : Nat)
  | replayGran (id k : Nat)
  | replayElem (id g : Nat) (v : Nat)
  | waited (addr v : Nat)
  | nframe (edge hop : Nat) (bytes : List (Nat × Byte))
  | ntake (edge : Nat)
  | sendFrame (dst : Nat) (chan seq : Nat) (bank n : Nat) (first : List Byte)
  | sendTimed (pkg die chan seq : Nat) (bank n : Nat) (first : List Byte)
  | takeFrame (key : Nat × Nat × Nat × Nat) (bank : Nat)
  | exchange (k : Nat) (rank : Nat) (src dst len : Nat) (map : Option (List Byte)) (op ty : Nat) (r : Req)
  | lantern (ident : Nat) (mask : BitVec 64) (wake : Bool) (arm : Option Nat)
  | selectPhase (p : Nat)
  deriving DecidableEq, Repr, Inhabited

/-- A result in flight (R35): its effect, the steps that remain, its class, and the context step of its issue (R37). -/
structure Landing where
  act : Act
  rem : Nat
  cls : Nat
  born : Nat
  gstep : Nat
  deriving DecidableEq, Repr, Inhabited

/-- An entry of the atomic log (R124): its atomic has not been sent; it has, and its value is awaited; the value returned,
with the ring and its size for a CQPOST. -/
inductive AtomEntry where
  | unsent
  | sent
  | value (v ring lsz : Nat)
  deriving DecidableEq, Repr, Inhabited

/-! ### Context state -/

/-- PROMISEn (Table 1-11). -/
structure Promise where
  v : Bool
  done : Bool
  retry : Bool
  poison : Bool
  pstep : BitVec 48
  deriving DecidableEq, Repr, Inhabited

/-- The state of a context that a checkpoint captures (Table 1-1, R309). Of a V-die's or an M-die's state only the die's
own part is used. -/
structure Arch where
  pc : Word
  s : Vector Word 64
  q : BitVec 8
  v : Vector (Vector VReg 64) 8
  p : Vector (Vector PReg 16) 8
  a : Vector VReg 4
  lp : Vector LivePlate 8
  lc : Word
  ec : BitVec 8
  vrb : BitVec 5
  aq : List AqEntry
  dq : List DqEntry
  oq : List OqEntry
  kreg : Vector (Vector (Vector (BitVec 16) 64) 8) 4
  jreg : Vector (Vector (Vector (BitVec 16) 64) 8) 4
  flags : Flags
  seed : Word
  gbase : Word
  guarded : Bool
  ckix : BitVec 24
  commits : BitVec 40
  trapCause : Word
  trapStep : Word
  trapInfo : Word
  bwinBase : BitVec 28
  bwinLimit : BitVec 28
  promise : Vector Promise 8
  landing : List Landing
  regions : Vector ScatRegion 8
  scat : Vector ScatStream 8
  deriving DecidableEq, Repr, Inhabited

/-- One tile's state bits (R32, R202). -/
structure TileBits where
  busy : Bool
  cnt : Nat
  pair : Bool
  form : Bool
  inuse : Bool
  /-- the operation in progress is an MMA or MMAZ (Table 8-6) -/
  mma : Bool
  deriving DecidableEq, Repr, Inhabited

/-- One latch's annex and in-use bit, common to the eight arrays but for its stores (Table 8-2, R202). -/
structure Annex where
  lvalid : Bool
  fmtl : BitVec 5
  lsp : Bool
  lplate : BitVec 11
  llen : BitVec 10
  linuse : Bool
  deriving DecidableEq, Repr, Inhabited

/-- An array group (R30, R31, R201, R202, R298). Tiles are kept by (array, tile, row, column), latch bytes by (array,
latch, byte), scale and list stores by (array, latch, index). -/
structure TileGroup where
  powered : Bool
  /-- its power-up has begun (R298) -/
  powering : Bool
  unowned : Nat
  tiles : SMap 32
  bits : Vector TileBits 8
  latches : SMap 8
  scales : SMap 16
  lists : SMap 32
  annex : Vector Annex 4
  selv : Bool
  selp : BitVec 11
  deriving DecidableEq, Repr, Inhabited

/-- Whether a context exists and issues (R50, R135, R304). -/
inductive Run where
  | absent
  | running
  | stopped
  | exited
  deriving DecidableEq, Repr, Inhabited

/-- A context (R18): its captured part, its last capture, and what the region keeps (Table 12-1). -/
structure Ctx where
  run : Run
  image : Nat
  prog : Nat
  gang : Nat
  member : Nat
  asid : Nat
  groups : BitVec 4
  served : Nat
  tbase : Nat
  tlog : Nat
  ten : Bool
  /-- plates of the context in the die's plate store, by the image's numbers (R180) -/
  plates : List (Nat × Plate4)
  arch : Arch
  ckpt : Arch
  /-- captured array groups (R309) -/
  ckptGroups : List (Nat × TileGroup)
  /-- consecutive cycles of the present hold; 0 when not held (R40) -/
  held : Nat
  /-- steps of the region and in all (R34, R307) -/
  regionSteps : Nat
  steps : Nat
  /-- non-empty groups since the last idle step (R301) -/
  nonEmpty : Nat
  /-- idle steps of an idle bundle still to run (R53) -/
  idleLeft : Nat
  /-- a step took place in this count -/
  stepped : Bool
  /-- waits at its next gang checkpoint, or at a RESYNC with this G (R308, R257) -/
  atCkpt : Bool
  atResync : Option Word
  /-- periods added by the RESYNC that has been released (R257) -/
  resynced : Option Word
  /-- 1 once the request of a presented WAITB has reached its word in a stack (R230); for a remote word the request under way, the
  value of the last reply and the count from which the wait may end (R130) -/
  waitCount : Nat
  waitReq : Option Nat
  waitReply : Option (Nat × Nat)
  /-- the cause that a WAITB's request met elsewhere, with the TRAPINFO that the cause has of its own -/
  waitFault : Option (Nat × Option Nat)
  reqs : List Req
  /-- translated atomics sent and not yet returned (R124) -/
  sentAtomics : List Req
  deferred : List DefWrite
  arrivals : List DefArrival
  /-- scatter windows of translated regions that wait for the release (R197, R314) -/
  deferScat : List (List ScatElem)
  before : List Before
  staging : List Staged
  atomLog : List AtomEntry
  atomPos : Nat
  unjoined : List Unjoined
  /-- captured beside the shadowed state: words not yet joined, and the count toward the inserted idle step -/
  ckptUnjoined : List Unjoined
  ckptNonEmpty : Nat
  /-- faults that the next covering FENCE or DRAIN raises (R237, R330): class of DRAIN and the trap -/
  fenceFaults : List (Nat × Trap)
  /-- copies posted by CQPOST and not yet completed: home of the queue header, index, and whether the claim's region has
  committed (Table 5-5) -/
  posted : List (Home × Nat × Bool)
  /-- the present checkpoint group has committed and waits for its FENCE or DRAIN, or issues again after a rollback -/
  committed : Bool
  /-- frames taken by RECVs of the region (R241) -/
  taken : List (Nat × Nat × Nat × Nat)
  /-- frames on their way from staging into the bank: identifier, bank address, bytes (R241) -/
  takes : List (Nat × Nat × List Byte)
  /-- the successor named by EXITS (R136) -/
  succ : Option Nat
  /-- spare registers of the region's duplicate map (R322) -/
  dup : List (Nat × Nat × Nat)
  deriving DecidableEq, Repr, Inhabited

/-! ### Die state -/

/-- A frame in receive staging (R241, R242): its key (package, die, channel, sequence), the gang it belongs to, the count
from which it can be taken, and its bytes. -/
structure StagedFrame where
  key : Nat × Nat × Nat × Nat
  gang : Nat
  ready : Nat
  data : List Byte
  deriving DecidableEq, Repr, Inhabited

/-- A network frame in flight to a die (R185): the edge it arrives on, its arrival count, its gang and its words by
port. -/
structure NFrame where
  id : Nat
  edge : Nat
  arrive : Nat
  gang : Nat
  fromDie : Nat
  bytes : List (Nat × Byte)
  deriving DecidableEq, Repr, Inhabited

/-- A pin-table entry (R329), and a leaf entry of the translation slices (R328): ASID, page address, page size, output,
permissions; for the slices the target kind as well. -/
structure Leaf where
  asid : Nat
  page : Nat
  size : Nat
  tgt : Nat
  out : Nat
  rd : Bool
  wr : Bool
  deriving DecidableEq, Repr, Inhabited

/-- A row-server entry (R190, Table 14-6). -/
structure RowEntry where
  base : Nat
  stride : Nat
  size : Nat
  limit : Nat
  valid : Bool
  deriving DecidableEq, Repr, Inhabited

/-- A burst slot taken in a stack: stack, frame, slot, pseudo-channel (R230, R234). -/
abbrev BurstSlot := Nat × Nat × Nat × Nat

/-- A compute die (R17). -/
structure Die where
  ctx : Vector Ctx 3
  bank : Mem
  wbuf : Mem
  tags : SMap 128
  groups : Vector TileGroup 4
  staging : List StagedFrame
  /-- committed marks: source package, die, channel and SEQ (R241) -/
  marks : List (Nat × Nat × Nat × Nat)
  nframes : List NFrame
  pins : List (Nat × Leaf)
  slices : List Leaf
  rows : List (Nat × RowEntry)
  /-- pages whose walk is under way, and pin entries to be removed -/
  walks : List (Nat × Nat)
  unpins : List Nat
  /-- burst slots of the die's slot queues (R234) -/
  slotq : List BurstSlot
  deriving DecidableEq, Repr, Inhabited

/-! ### Package state -/

/-- A sealed image (R67): its bytes, its digest, its duplicate maps: program, checkpoint index, file, live, spare. -/
structure Image where
  handle : Nat
  bytes : List Byte
  digest : BitVec 512
  dupMaps : List (Nat × Nat × Nat × Nat × Nat)
  deriving DecidableEq, Repr, Inhabited

/-- What a placed gang or a claim holds on this package (R294): its class, its image, and its members here with member
index, die and member-table entry. -/
structure Hold where
  bg : Bool
  image : Nat
  members : List (Nat × Nat × BitVec 128)
  deriving DecidableEq, Repr, Inhabited

/-- A claim (R288): who holds it, at which level, on what. -/
structure Claim where
  holder : Nat
  level : Nat
  hold : Hold
  deriving DecidableEq, Repr, Inhabited

/-- A registered queue (R286): index, launch or copy, header address, vector, ASID, whether a fault stopped it; the count from
which its head is noticed, the count from which the head has been blocked (R288), and the gang whose reservations
are asked for it (R296). -/
structure Queue where
  ix : Nat
  launch : Bool
  header : Nat
  vector : Option Nat
  asid : Nat
  stopped : Bool
  seen : Option Nat
  /-- the same of the packet after it -/
  ahead : Option Nat
  blockedAt : Option Nat
  asking : Option Nat
  /-- what the blocked head would claim -/
  want : Option Claim
  deriving DecidableEq, Repr, Inhabited

/-- Bytes that the dispatcher or a copy engine reads at a home outside the package: request, queue, home, size, and the
answer. -/
structure Fetched where
  id : Nat
  queue : Nat
  home : Home
  size : Nat
  data : Option (List Byte)
  fault : Option Nat
  deriving DecidableEq, Repr, Inhabited

/-- A copy in progress (R250): its queue, its packet's fields, the fill pattern, the source bytes of each destination
granule once read, the granules performed, and the completion's stage: 0 copying, 1 arriving, 2 recording. -/
structure Copy where
  queue : Nat
  rix : Nat
  seq : Nat
  srcAt : Nat
  dst : Nat
  len : Nat
  abar : Option Nat
  tag : Nat
  src : List (Option (List Byte))
  performed : Nat
  stage : Nat
  status : Nat
  cause : Nat
  deriving DecidableEq, Repr, Inhabited

/-- A launch record (Table 11-2) with its member table (Table 11-3) as the dispatcher holds them. -/
structure LaunchRecord where
  digest : BitVec 512
  args : List Word
  seed : Word
  bg : Bool
  succ : Bool
  warmup : Nat
  asid : Nat
  dbar : Nat
  darrv : Nat
  members : List (BitVec 128)
  deriving DecidableEq, Repr, Inhabited

/-- States of a task (Table 11-6). -/
inductive TaskState where
  | pending | ready | placing | running | succeeded | complete | skipped
  deriving DecidableEq, Repr, Inhabited

/-- A task that the dispatcher knows: its launch, its index in the graph, its record, predecessors and successor rule,
its state and completion. -/
structure Task where
  id : Nat
  launch : Nat
  index : Nat
  record : LaunchRecord
  preds : List Nat
  succof : Option Nat
  state : TaskState
  status : Nat
  cause : Nat
  level : Nat
  /-- the count from which it has been blocked (R288) -/
  blockedAt : Option Nat
  /-- saved state of a pre-empted gang (R326) -/
  saved : Option Nat
  deriving DecidableEq, Repr, Inhabited

/-- A launch: its packet's queue with its ASID, vector and completion ring, its sequence, tag, arrival, level, the address
and the SERIAL bit of the graph that it runs, the bytes of its snapshot, and whether its completion is under way
(R287–R293). -/
structure Launch where
  id : Nat
  queue : Nat
  asid : Nat
  vector : Option Nat
  cring : Nat
  clsz : Nat
  seq : Nat
  tag : Nat
  abar : Option Nat
  arrv : Nat
  level : Nat
  graph : Option Nat
  serial : Bool
  snapAt : Nat
  bytes : Nat
  completing : Bool
  /-- the index of its packet (R289) -/
  rix : Nat := 0
  deriving DecidableEq, Repr, Inhabited

/-- States of a gang (Table 11-7). -/
inductive GangState where
  | placing | running | rollback | preempting | saved | draining | ended | aborted
  deriving DecidableEq, Repr, Inhabited

/-- A member of a gang on this package: member index, die, context, program, and whether it has presented, faulted or
resumed (R308, R319). -/
structure Member where
  ix : Nat
  die : Nat
  ctx : Nat
  prog : Nat
  presented : Nat
  trap : Option Trap
  trapStep : Nat
  second : Bool
  stopAt : Option Nat
  restored : Bool
  handled : Bool
  resumeAt : Option Nat
  deriving DecidableEq, Repr, Inhabited

/-- What a pre-emption saves of a member (R326): its context, on a V-die its tag window, on an M-die the tiles and latches in
use, the live bytes of its bank and weight buffer, and the frames held for it. -/
structure SavedMember where
  ix : Nat
  ctx : Ctx
  tags : SMap 128
  groups : List (Nat × TileGroup)
  bank : List (Nat × Byte)
  wbuf : List (Nat × Byte)
  frames : List StagedFrame
  marks : List (Nat × Nat × Nat × Nat)
  deriving DecidableEq, Repr, Inhabited

/-- A gang or a BG task in its one context (R47, R304). -/
structure Gang where
  id : Nat
  task : Nat
  bg : Bool
  state : GangState
  members : List Member
  /-- members on other packages (R283) -/
  others : Nat
  image : Nat
  gbase : Nat
  tp : Nat
  phase : Nat
  nextPhase : Option Nat
  /-- the common checkpoint: its number and gang step (R308) -/
  ckNum : Nat
  gck : Nat
  /-- rollbacks to it in a row (R317) -/
  tries : Nat
  /-- the rollback under way: count of the first fault, ready count (R315) -/
  faultAt : Nat
  readyAt : Nat
  resumeAt : Option Nat
  /-- pending requests: pre-empt with save address and length, stop (R309) -/
  preempt : Option (Nat × Nat)
  stop : Bool
  offline : Bool
  /-- double rerun: number of the rerun under way and what rerun 1 recorded (R323) -/
  rerun : Nat
  rerunSigs : List (Nat × Nat × BitVec 256)
  /-- the trap that decides its recovery, and the member whose it is (R320) -/
  cause : Option Trap
  decider : Option (Nat × Nat)
  /-- the member that faulted first, and each member's captured part and array groups as they stood at the stop: die and
  context, and what stood there (R315, R331) -/
  first : Option (Nat × Nat)
  stops : List ((Nat × Nat) × Arch × List (Nat × TileGroup))
  startAt : Nat
  /-- flits that the carrier entries of the timetable hold: entry, absolute slot, flits (R346) -/
  carried : List (Nat × Nat × Nat)
  endedAt : Nat
  saved : List SavedMember
  /-- what it holds (R294); its successor, once accepted (R299); the package whose dispatcher placed it (R296) -/
  hold : Hold
  /-- the count of its placement (R297) -/
  decided : Nat
  succTask : Option Nat
  home : Nat
  /-- its cold groups here, as they stood at its reservation; how many of the gang's come before them, and in all (R298) -/
  cold : List (Nat × Nat) := []
  coldBefore : Nat := 0
  coldAll : Nat := 0
  /-- of a gang that spans packages, its members and their dies (R295, R296) -/
  places : List (Nat × Nat) := []
  deriving DecidableEq, Repr, Inhabited

/-- What is still to do in this count, or at a dated count. -/
inductive Micro where
  /-- an event of the table -/
  | ev (i : Instr)
  /-- a slot word of the group in progress: its class, its place in the code segment in words, the extension lent to it -/
  | slot (cls : BitVec 4) (off : Nat) (ext : Option (BitVec 20))
  /-- the end of a group's slots -/
  | commit
  /-- the later choices of a die's sequencer: the handler context, then the background context (R300) -/
  | handler (d : Nat)
  | background (d : Nat)
  /-- gang checkpoints and RESYNCs that all members present in this count -/
  | present
  /-- the sequencers of the dies -/
  | issue
  /-- the landings of the contexts that stepped -/
  | land
  /-- the due events of a phase -/
  | phase (p : Nat)
  /-- a scalar access or a claim at its home -/
  | read (d c id : Nat)
  /-- its completion -/
  | done (d c id : Nat)
  /-- an element of a DQ entry at its home -/
  | elem (d c id g : Nat)
  /-- a granule of a transfer: its burst, or its read of the bank -/
  | gran (d c id k : Nat)
  /-- a scalar access goes to its home, after an earlier one of its context to the same word (R271) -/
  | launch (d c id : Nat)
  /-- a scalar burst slot of a stack's pseudo-channel (R230) -/
  | scalar (stack channel : Nat)
  /-- the rows of a row request that are still to be read, with the address, cause and value of those that have been -/
  | rows (f : Frame) (got : List (Nat × Option Nat × Nat))
  /-- the flits of a write frame from one on, at their home -/
  | flits (f : Frame) (i : Nat)
  /-- a part of a SEND read from its bank -/
  | frame (id k : Nat)
  /-- a source granule of a collective is read -/
  | source (id a : Nat)
  /-- a frame of a participant's own elements arrives -/
  | share (id q num : Nat) (at_ : Nat)
  /-- the arrival count of a frame of a collective: its rank and number (R245) -/
  | frameStep (id r num : Nat)
  /-- what happens at the start of a slot, and what the Lanterns send in a count -/
  | slots
  | transmit
  /-- the root loads its own epoch (R335); firmware measures power and temperature (R370) -/
  | epoch (v : Nat)
  | window
  /-- the fault of a Lantern is detected (R351) -/
  | detect (ident : Nat)
  /-- the restore of a gang's members (R315 step 2) -/
  | restore (g : Nat)
  /-- what an exited context or a handler defers is released (R133, R310) -/
  | release (d c : Nat)
  /-- the host's accesses go on (R230) -/
  | hostNext
  /-- an interrupt vector is due (R363) -/
  | vector (v : Nat)
  /-- the clearing of a function-level reset, and the count by which READY returns (R360) -/
  | clear (until_ : Nat)
  /-- what happens every count after the landings -/
  | sweep
  | tick
  deriving DecidableEq, Repr, Inhabited

/-- A request for a scalar burst slot (R230): its issue count, die, context and slot class, in whose order requests are
served; stack and pseudo-channel; the count from which it can be served; the slot that served it; its die, its read or update at the
home, with what completes it. -/
structure ScalarReq where
  key : List Nat
  stack : Nat
  channel : Nat
  from_ : Nat
  slot : Option Nat
  work : Option (Nat × Micro × Micro)
  deriving DecidableEq, Repr, Inhabited

/-- A released write that has not performed (R262, R273): its context, its data, its home if translated, and its
order. -/
structure Pending where
  id : Nat
  die : Nat
  ctx : Nat
  gang : Nat
  asid : Nat
  write : Option DefWrite
  arrival : Option DefArrival
  /-- accesses that must perform first (R253, R271, R273) -/
  after : List Nat
  /-- results of its context issued before this step must land in its bank first (R276, R281) -/
  writes : Option Nat := none
  /-- copies whose completion records must be written first: queue home and index (R263) -/
  copies : List (Home × Nat) := []
  /-- count at which it performs, and the burst slot of a TDMA write (R235) -/
  due : Nat
  slot : Option (Nat × Nat × Nat × Nat)
  /-- a window of a scatter region (R197) -/
  scat : List ScatElem
  /-- sent to another package or found its home: the home it goes to -/
  home : Option Home
  sent : Bool
  /-- the queue whose record or barrier it is (R286), and what follows its performance -/
  queue : Option Nat
  note : List Micro
  /-- an arrival of an EXIT group: it follows every other write of its region, those released later included (R133) -/
  exit : Bool := false
  deriving DecidableEq, Repr, Inhabited

/-- A frame of a SEND (R239, R240): sender, receiver, key, the bank bytes still to read, the bytes read so far, its way
over the edges (edge, plus 14 toward the lower column or row) with the bytes sent into each (count, bytes), and for a frame
to another package the count of the slot in which it begins to leave, its identity and its arrival count. -/
structure SendState where
  id : Nat
  fromDie : Nat
  fromCtx : Nat
  gang : Nat
  dstPkg : Nat
  dstDie : Nat
  chan : Nat
  seq : Nat
  bank : Nat
  n : Nat
  issued : Nat
  data : List Byte
  path : List Nat
  flow : List (List (Nat × Nat))
  arrive : Nat
  leave : Nat
  ident : Nat
  /-- the entry of the timetable that carries it -/
  entry : Nat := 0
  deriving DecidableEq, Repr, Inhabited

/-- A collective in progress at a participant (R243–R245, R358): its exchange and rank, its buffers, its map for XPOSE, the
operation and type of XRED, and the data received so far. -/
structure Coll where
  req : Nat
  die : Nat
  ctx : Nat
  gang : Nat
  xch : Nat
  rank : Nat
  src : Nat
  dst : Nat
  len : Nat
  map : Option (List Byte)
  op : Nat
  ty : Nat
  pstep : Nat
  /-- source granules that have been read, each at some count from the issue on (R243): address, bytes -/
  source : List (Nat × List Byte)
  /-- received data: source rank, frame number, the count from which it can be taken, bytes -/
  recv : List (Nat × Nat × Nat × List Byte)
  deriving DecidableEq, Repr, Inhabited

/-- What the last flit of a frame completes: the frame, the frame of a SEND (R346), or a frame of a collective toward a rank, whose
source granules are read until then (R243): request, rank, number, arrival count, package. -/
inductive TxTail where
  | frame (f : Frame)
  | send (id : Nat)
  | share (req q num at_ pkg : Nat)
  deriving DecidableEq, Repr, Inhabited

/-- A flit that waits to leave a link identity (R338, R346, R348, R351): the number of its frame; its far end; the gang and the
entry of its timetable that carry it; whether any slot toward its far end does, after a failover; the count from which it may
leave; the bytes of it that have not left; its link sequence if it has left before; the collective that it belongs to; what it
completes; and the SEND that it belongs to, with the bytes of it that have to be at the port die before the flit leaves. -/
structure TxFlit where
  job : Nat
  timed : Bool
  peer : Nat
  run : Option (Nat × Nat)
  any : Bool
  from_ : Nat
  left : Nat
  seq : Option Nat
  coll : Option Nat
  tail : Option TxTail
  need : Option (Nat × Nat) := none
  deriving DecidableEq, Repr, Inhabited

/-- A flit in the replay ring: its link sequence, the count at which it left, its far end, and what it carries. -/
structure RingFlit where
  seq : Nat
  at_ : Nat
  peer : Nat
  flit : Flit
  deriving DecidableEq, Repr, Inhabited

/-- The Lantern that holds a link identity (R337–R339, R353). -/
structure Lantern where
  /-- the physical engine, if any -/
  engine : Option Nat
  /-- LSTATUS code (Table 1-15) -/
  ls : BitVec 4
  woken : BitVec 64
  locking : BitVec 64
  lockedByWake : BitVec 64
  armed : Option (BitVec 64 × Nat)
  /-- flits that wait to leave, in their order -/
  txq : List TxFlit
  /-- groups that a timed run has used and that have not been parked since (R344) -/
  timedUse : BitVec 64
  txSeq : Nat
  rxSeq : Nat
  /-- masks whose threshold has been met (R353), and groups to be parked once they lock -/
  firing : BitVec 64
  parkNext : BitVec 64
  rxBytes : Nat
  /-- timed frames of which a flit could not be decoded (R347) -/
  rxBad : List Nat
  /-- the replay ring (R338) -/
  ring : List RingFlit
  flt : Vector Nat 8
  /-- the count of the fault, the resume count once it is set, and whether the fault is on the transmit path (R351) -/
  faultAt : Option Nat
  resumeAt : Option Nat
  dark : Bool
  deriving DecidableEq, Repr, Inhabited

/-- A forwarding entry (R349). -/
structure FwdEntry where
  pkg : Nat
  nextHop : Nat
  mask : Nat
  deriving DecidableEq, Repr, Inhabited

/-- What an elastic request outside the package awaits (R349, R350). -/
inductive Awaits where
  | req (die ctx id : Nat)
  | gran (die ctx id k : Nat)
  | elem (die ctx id : Nat) (gs : List Nat)
  | write (id : Nat)
  | writes (ids : List Nat)
  | wait (d c : Nat)
  | atomic (d c id : Nat)
  | port (q : Nat)
  deriving DecidableEq, Repr, Inhabited

/-- An elastic request that awaits its reply: its identifier, who waits, its destination, when it was sent. -/
structure Elastic where
  id : Nat
  who : Awaits
  pkg : Nat
  host : Bool
  sent : Nat
  /-- the link identity and next hop that its frame has taken -/
  via : Option (Nat × Nat)
  deriving DecidableEq, Repr, Inhabited

/-- What leaves the package toward the host: a posted write, a read with its request, an interrupt vector (R275, R363,
R327). -/
inductive HostOut where
  | write (addr : Nat) (data : List Byte)
  | read (id addr size : Nat)
  | atomic (id addr op size y z : Nat)
  | msix (vector : Nat)
  | reply (data : List Byte)
  | unsupported
  | aer (addr : Nat)
  deriving DecidableEq, Repr, Inhabited

/-- Telemetry of a die code (Table 14-8). -/
structure Thermal where
  temp : BitVec 16
  warn : BitVec 16
  trip : BitVec 16
  deriving DecidableEq, Repr, Inhabited

/-- A performance counter and its selector (R371). -/
structure Perf where
  val : Word
  sel : BitVec 11
  deriving DecidableEq, Repr, Inhabited

/-- An access of the host through BAR2 or BAR4, in the order in which the endpoint received them (R275): what it answers at once, a
read with what is still to be read and the bytes read so far, a write with what is still to be written. -/
inductive HostAccess where
  | say (o : HostOut)
  | read (addr n : Nat) (got : List Byte)
  | write (addr : Nat) (data : List Byte)
  deriving DecidableEq, Repr, Inhabited

/-- What leaves on the fabric control channel: a reservation request to a package, an answer or a decision of R296 to a
package, a NACK of an identity (R348), the epoch of the root (R335), the circuits of a gang's present phase (R343: identity,
receive, fibres, package and identity at the far end), the command that moves an identity's circuits to another one's fibres, the
notice of it to a far end (R351), and the notice that a frame came to a die without a member of its gang (R242, log 80). -/
inductive Control where
  | reserve (pkg : Nat) (r : Reservation)
  | answer (pkg : Nat) (a : ReserveAnswer)
  | nack (ident lseq : Nat)
  | epoch (v : Nat)
  | circuits (gang : Nat) (cs : List (Nat × Bool × Nat × Nat × Nat))
  | switchover (ident spare : Nat)
  | moved (ident pkg plan : Nat)
  | untaken (pkg : Nat) (f : Frame)
  deriving DecidableEq, Repr, Inhabited

/-- A Lantern request on its way to the port die (R255). -/
structure LanternReq where
  id : Nat
  ident : Nat
  mask : BitVec 64
  wake : Bool
  arm : Option Nat
  die : Nat
  gang : Nat
  /-- the cycle in which it acts -/
  at_ : Nat
  deriving DecidableEq, Repr, Inhabited

/-! ### The count in progress (the model's own, log 1) -/

/-- The issue group whose slots are being executed: whose it is, where it starts, what its slots have produced so far. -/
structure Issue where
  die : Nat
  ctx : Nat
  pc : Word
  size : Nat
  ck : Bool
  vj : Bool
  /-- latency, class and effect of each result, in slot order -/
  acts : List (Nat × Nat × Act)
  traps : List Trap
  hold : Bool
  tileWait : Bool
  /-- the count of an idle bundle (R53) -/
  idle : Option Nat
  /-- effective mask of the group (R54, R63) -/
  emask : Nat
  /-- the generator's working state: what the draws of the slots so far leave (R104) -/
  seed : Word
  branch : Option Word
  deriving DecidableEq, Repr, Inhabited

/-- A dated event: the count, the phase of the count in which it takes place, and what it is. -/
structure Dated where
  at_ : Nat
  phase : Nat
  what : Micro
  deriving DecidableEq, Repr, Inhabited

/-- The state of the package. -/
structure State where
  -- the model's clock and bookkeeping (log 1, log 4)
  now : Nat
  agenda : List Micro
  calendar : List Dated
  issue : Issue
  /-- effective mask of the groups that the present die has issued in this count, and whether FG is held (R300) -/
  mask : Nat
  fgHeld : Bool
  free : Nat
  nextId : Nat
  -- package registers
  belfry : BitVec 64
  belfryOn : Bool
  pkg : BitVec 10
  ready : Bool
  stage : BitVec 3
  berr : BitVec 8
  pres : BitVec 10
  svc : BitVec 10
  retired : BitVec 10
  /-- why each retired die was retired: die and cause code (R325) -/
  retiredFor : List (Nat × Nat)
  offline : BitVec 10
  degraded : BitVec 10
  bar2base : BitVec 9
  bar2size : BitVec 4
  offStat : Word
  /-- an offline request is under way: its word, and the frames in use of each stack (R306) -/
  offBusy : Bool
  offReq : Word
  offMap : List Nat
  marg : Vector Word 8
  mres : Word
  mcmdNow : Option Nat
  /-- the identifiers from which on accesses have begun after the present INVAL (R328) -/
  invalFrom : Nat
  psuba : Word
  psubl : Word
  pstat : BitVec 2
  /-- the staged image of the proofing under way; none where it cannot be a source (R66, R368) -/
  proofing : Option (List Byte)
  pres64 : Word
  meas : Vector (BitVec 512) 8
  therm : Vector Thermal 10
  mpwr : BitVec 16
  plim : BitVec 16
  psts : Bool
  overWindows : Nat
  placeHold : Bool
  shutDown : BitVec 10
  dumpIx : Word
  perf : Vector (Vector Perf 8) 10
  /-- the firmware image in flash that takes effect at the next power-on (Table 14-6) -/
  flash : List Byte
  /-- the firmware image that booted -/
  firmware : List Byte
  msixTable : Mem
  msixPend : BitVec 64
  /-- MSI-X Enable and Function Mask, which the host sets in the configuration space (R359, R363; log 71) -/
  msixOn : Bool
  msixAll : Bool
  qpages : List (Nat × Nat)
  -- dies and memory
  dies : Vector Die 8
  hbm : Vector Mem 8
  poison : List (Nat × Nat)
  remap : List (Nat × Nat × Nat × Nat)
  lostFrames : List (Nat × Nat)
  scalarBook : List ScalarReq
  /-- elastic bursts of the present frame: stack, pseudo-channel, frame, one entry each (R230) -/
  elasticBook : List (Nat × Nat × Nat)
  /-- ring slots that a claim has taken and whose packet has not been written (R281) -/
  claimed : List Home
  edges : BitVec 14
  /-- edges whose traffic waits for a resent flit, until a count (R334) -/
  edgeLate : List (Nat × Nat)
  -- tables of system software
  roots : List (Nat × Word)
  fwd : List FwdEntry
  baseTT : List (Nat × List (BitVec 128))
  newTT : List (Nat × List (BitVec 128))
  handlers : List (Nat × Nat)
  -- Lanterns
  domain : List Nat
  /-- the flights that initialisation measures: eight for each identity (R335) -/
  flights : List Nat
  lanterns : Vector Lantern 14
  lanternReqs : List LanternReq
  /-- flits sent: identity, LSEQ, the count in which the last byte left, the flit -/
  outbox : List (Nat × Nat × Nat × Flit)
  waitingOut : List Frame
  /-- frames being forwarded, by the identity whose receive buffer holds them (R349) -/
  transit : List (Nat × Frame)
  elastic : List Elastic
  hostOut : List HostOut
  /-- the host's accesses that have not performed, in their order (R275, R361) -/
  hostQ : List HostAccess
  control : List Control
  -- dispatcher
  images : List Image
  queues : List Queue
  copies : List Copy
  fetched : List Fetched
  rr : Vector Nat 4
  /-- the copy queue last served -/
  rrCopy : Nat
  launches : List Launch
  tasks : List Task
  gangs : List Gang
  reservations : List (Nat × Nat × Option ReserveAnswer)
  claims : List Claim
  /-- counts at which array groups begin power-up (R298) -/
  powerUps : List Nat
  -- released accesses, frames and collectives in progress
  pendings : List Pending
  sends : List SendState
  colls : List Coll
  deriving DecidableEq, Repr, Inhabited

/-! ### Stops -/

/-- Why a step faults. -/
inductive Fault where
  /-- Raised by the sequencer where a context goes on past the last group of its code segment, and by the fetch of a slot word
  that the sealed image does not hold or that does not decode. The spec names no effect for running past the code; proofing seals
  only decodable code (R66). Safe. -/
  | notSealedCode
  deriving DecidableEq, Repr, Inhabited

/-- Why a step is refused. -/
inductive Refusal where
  /-- The instruction has no meaning in the model yet. Safe. -/
  | notModelled (mnemonic : String)
  deriving DecidableEq, Repr, Inhabited

/-! ### Reset -/

/-- A context before any fresh start (R50: no context exists); its registers hold zero, q0 and p0 read as their rules say
(log 3). -/
def Ctx.empty : Ctx := default

/-- A zero live plate. -/
def LivePlate.zero : LivePlate := default

/-- A die at power-on: bank wall, weight buffer, tiles and latches hold zero, no context exists, groups are cold (R50,
R369). -/
def Die.empty : Die := default

/-- The Lantern of an identity at power-on: LSTATUS 0x1 where one is present (R50). -/
def Lantern.atReset (present : Bool) : Lantern := { (default : Lantern) with ls := if present then 1 else 0 }

/-- Thermal limits at reset (Table 14-8). -/
def Thermal.atReset : Thermal := { temp := 0, warn := 760, trip := 840 }

/-- The package right after power-on reset (R50, Tables 14-4 and 14-8), before its boot stages have run. -/
def State.reset : State :=
  { (default : State) with
    nextId := 1
    pres := Config.diesPresent
    therm := Vector.replicate 10 Thermal.atReset
    plim := 2800
    edges := 0x3FFF#14
    msixTable := (List.range 64).map fun i => (16 * i + 12, 1)
    lanterns := Vector.ofFn fun i => Lantern.atReset (Config.lanternsPresent.getLsbD i.val) }

end Sys2Proof.Machine
end

