-- ==== Sys2Proof/Machine/Ops.lean ====
section
/-!
DEFINITION. The named operations over memory, registers, contexts and gangs that every meaning uses; how a slot's effects
are gathered; TAKING A TRAP (R38, R46, R315, R318–R320) and the return from one (R138, R315).
-/

namespace Sys2Proof.Machine

/-- The outcome type of every meaning. -/
abbrev Res := Host.Outcome State Fault Refusal

/-! ### Sparse maps and byte memories -/

/-- The word at a key; 0 where none is listed (log 2). -/
def SMap.get {w : Nat} : SMap w → Nat → BitVec w
  | [], _ => 0
  | (k, v) :: m, a => if a = k then v else if a < k then 0 else SMap.get m a

/-- Change of the word at a key; a zero word is not listed. -/
def SMap.set {w : Nat} : SMap w → Nat → BitVec w → SMap w
  | [], a, x => if x = 0 then [] else [(a, x)]
  | (k, v) :: m, a, x =>
    if a < k then (if x = 0 then (k, v) :: m else (a, x) :: (k, v) :: m)
    else if a = k then (if x = 0 then m else (k, x) :: m)
    else (k, v) :: SMap.set m a x

/-- The canonical form: keys strictly rising from `lo`, no zero word. -/
def SMap.wfFrom {w : Nat} : Nat → SMap w → Bool
  | _, [] => true
  | lo, (k, v) :: m => lo ≤ k && v != 0 && SMap.wfFrom (k + 1) m

/-- The canonical form of a sparse table. -/
def SMap.wf {w : Nat} (m : SMap w) : Bool := SMap.wfFrom 0 m

/-- The canonical form of a byte memory. -/
def Memory.wf (m : Mem) : Bool := SMap.wfFrom (w := 8) 0 m

/-- One byte of a memory. -/
def Mem.byte (m : Mem) (a : Nat) : Byte := SMap.get (w := 8) m a

/-- A write of one byte. -/
def Mem.setByte (m : Mem) (a : Nat) (b : Byte) : Mem := SMap.set (w := 8) m a b

/-- A write of several bytes, the later ones prevailing. -/
def Mem.write (m : Mem) (bs : List (Nat × Byte)) : Mem := bs.foldl (fun m p => Mem.setByte m p.1 p.2) m

/-- n bytes from an address upward. -/
def Mem.bytes (m : Mem) (a : Nat) : Nat → List Byte
  | 0 => []
  | n + 1 => Mem.byte m a :: Mem.bytes m (a + 1) n

/-- A little-endian number of bytes. -/
def natOfBytes : List Byte → Nat
  | [] => 0
  | b :: bs => b.toNat + 256 * natOfBytes bs

/-- The n low bytes of a number, little-endian. -/
def bytesOfNat : Nat → Nat → List Byte
  | 0, _ => []
  | n + 1, x => BitVec.ofNat 8 x :: bytesOfNat n (x / 256)

/-- Bytes placed at consecutive addresses. -/
def placeBytes (a : Nat) : List Byte → List (Nat × Byte)
  | [] => []
  | b :: bs => (a, b) :: placeBytes (a + 1) bs

/-- The little-endian number of n bytes at an address. -/
def Mem.nat (m : Mem) (a n : Nat) : Nat := natOfBytes (Mem.bytes m a n)

/-- A write of the n low bytes of a number. -/
def Mem.setNat (m : Mem) (a n x : Nat) : Mem := Mem.write m (placeBytes a (bytesOfNat n x))

/-! ### Dies, contexts, registers -/

/-- The die type of a compute die (R1): V0–V3 are codes 0–3, M0–M3 codes 4–7. -/
def kindOf (d : Nat) : DieKind := if d < 4 then .v else .m

/-- Bytes of a die's bank wall (Table 7-1). -/
def bankSize (d : Nat) : Nat := if d < 4 then 0x6000000 else 0x4000000

/-- Bytes per count of a transfer port (R177). -/
def portRate (d : Nat) : Nat := if d < 4 then 2048 else 8192

/-- The die with a code. -/
def State.die (s : State) (d : Nat) : Die := tget s.dies d default

/-- A context of a die: 0 FG, 1 BG, 2 handler (R18). -/
def State.ctx (s : State) (d c : Nat) : Ctx := tget (s.die d).ctx c default

/-- A word kept for reads through the other view (R268), after a write of bytes that those reads see at once. -/
def Unjoined.seen (bs : List (Nat × Byte)) (u : Unjoined) : Unjoined :=
  { u with old := bs.foldl (fun v b =>
      if u.addr ≤ b.1 ∧ b.1 < u.addr + 4 then
        (v &&& ~~~(0xFF#32 <<< (8 * (b.1 - u.addr)))) ||| (BitVec.setWidth 32 b.2 <<< (8 * (b.1 - u.addr)))
      else v) u.old }

/-- Kept words after such a write; words outside the range of its addresses stay as they are. -/
def seenAll (view : Option Bool) (bs : List (Nat × Byte)) (us : List Unjoined) : List Unjoined :=
  let lo := bs.foldl (fun m b => min m b.1) (2 ^ 64)
  let hi := bs.foldl (fun m b => max m b.1) 0
  us.map fun (u : Unjoined) => if view = some u.plate ∨ u.addr + 4 ≤ lo ∨ hi < u.addr then u else u.seen bs

/-- What a context keeps for reads through the other view after a write to its bank wall: by itself through a view, by an
engine that works for it, or by another agent, whose write a rollback does not take back. -/
def Ctx.sees (x : Ctx) (own : Bool) (view : Option Bool) (bs : List (Nat × Byte)) : Ctx :=
  { x with unjoined := seenAll view bs x.unjoined
           ckptUnjoined := if own then x.ckptUnjoined else seenAll none bs x.ckptUnjoined }

/-- A write to a bank wall, by a context and through a view where it is one, which every other reader sees at once
(R266, R268). -/
def Die.writeBank (x : Die) (own : Option Nat) (view : Option Bool) (bs : List (Nat × Byte)) : Die :=
  { x with bank := Mem.write x.bank bs
           ctx := (List.range 3).foldl (fun v c => tmod v c fun y =>
             y.sees (own == some c) (if own == some c then view else none) bs) x.ctx }

/-- Change of one die. -/
def State.modDie (s : State) (d : Nat) (f : Die → Die) : State := { s with dies := tmod s.dies d f }

/-- Change of one context. -/
def State.modCtx (s : State) (d c : Nat) (f : Ctx → Ctx) : State :=
  s.modDie d fun x => { x with ctx := tmod x.ctx c f }

/-- Change of the captured part of a context. -/
def State.modArch (s : State) (d c : Nat) (f : Arch → Arch) : State :=
  s.modCtx d c fun x => { x with arch := f x.arch }

/-- The context whose slot is being executed. -/
def State.me (s : State) : Ctx := s.ctx s.issue.die s.issue.ctx

/-- Its captured part. -/
def State.arch (s : State) : Arch := s.me.arch

/-- The die of the slot being executed. -/
def State.myDie (s : State) : Die := s.die s.issue.die

/-- BELFRY as a number. -/
def State.bel (s : State) : Nat := s.belfry.toNat

/-- Gang step of the context being executed: BELFRY − GBASE (R42). -/
def State.gangStep (s : State) : Nat := (s.belfry - s.arch.gbase).toNat

/-- A scalar register (R19): s0 is an ordinary register. -/
def Arch.sreg (a : Arch) (n : BitVec 6) : Word := tget a.s n.toNat 0

/-- A scalar predicate: q0 reads true (R19). -/
def Arch.qreg (a : Arch) (n : Nat) : Bool := n == 0 || a.q.getLsbD n

/-- The physical vector register of a name (R24). -/
def physV (vrb : BitVec 5) (n : Nat) : Nat := if n < 32 then n else 32 + (n - 32 + vrb.toNat) % 32

/-- The physical predicate of a name (R24). -/
def physP (vrb : BitVec 5) (n : Nat) : Nat := if n < 8 then n else 8 + (n - 8 + vrb.toNat) % 8

/-- A vector register of a cluster, by its physical number. -/
def Arch.vphys (a : Arch) (c n : Nat) : VReg := tget (tget a.v c default) n 0

/-- A vector register of a cluster, by name (R24). -/
def Arch.vreg (a : Arch) (c : Nat) (n : BitVec 6) : VReg := a.vphys c (physV a.vrb n.toNat)

/-- A predicate of a cluster, by name: p0 reads all ones (R22, R24). -/
def Arch.preg (a : Arch) (c : Nat) (n : Nat) : PReg :=
  if n = 0 then BitVec.allOnes 128 else tget (tget a.p c default) (physP a.vrb n) 0

/-- A reduction latch (R25). -/
def Arch.areg (a : Arch) (n : Nat) : VReg := tget a.a n 0

/-- Change of a scalar register. -/
def Arch.setS (a : Arch) (n : Nat) (x : Word) : Arch := { a with s := tset a.s n x }

/-- Change of a scalar predicate; a write of q0 is discarded (R19). -/
def Arch.setQ (a : Arch) (n : Nat) (b : Bool) : Arch :=
  if n = 0 then a else { a with q := if b then a.q ||| ((1 : BitVec 8) <<< n) else a.q &&& ~~~((1 : BitVec 8) <<< n) }

/-- Byte mask of a predicate as a bit mask: bit b of the predicate covers byte b (R22). -/
def byteMask : Nat → PReg → Nat
  | 0, _ => 0
  | n + 1, p => byteMask n p + (if p.getLsbD n then 255 * 2 ^ (8 * n) else 0)

/-- A vector register with the bytes of the mask replaced. -/
def blendV (old new : VReg) (mask : PReg) : VReg :=
  let m : VReg := BitVec.ofNat 1024 (byteMask 128 mask)
  (old &&& ~~~m) ||| (new &&& m)

/-- Change of the masked bytes of a vector register, by physical number. -/
def Arch.setV (a : Arch) (c n : Nat) (x : VReg) (mask : PReg) : Arch :=
  { a with v := tmod a.v c fun f => tmod f n fun old => blendV old x mask }

/-- Change of the masked bits of a predicate, by physical number; p0 is not written (R22). -/
def Arch.setP (a : Arch) (c n : Nat) (x mask : PReg) : Arch :=
  if n = 0 then a else { a with p := tmod a.p c fun f => tmod f n fun old => (old &&& ~~~mask) ||| (x &&& mask) }

/-- The bank window contains [a, a + n) (R43). -/
def Arch.inWindow (a : Arch) (addr n : Nat) : Bool := a.bwinBase.toNat ≤ addr && addr + n ≤ a.bwinLimit.toNat

/-! ### Free values (log 4) -/

/-- A free number below n, and the state with the counter advanced. -/
def State.freeBelow (s : State) (n : Nat) : Nat × State :=
  (if n = 0 then 0 else Config.freeNat s.free % n, { s with free := s.free + 1 })

/-! ### Gathering a slot's effects -/

/-- The guard of a slot outside the clusters (R57). -/
def State.guardOn (s : State) (h : Hdr) : Bool := s.arch.qreg h.g.toNat != h.gn

/-- A result of the slot: an effect that lands after `lat` steps under a class (R14, R35). -/
def State.emit (s : State) (lat : Nat) (cls : Nat) (a : Act) : State :=
  { s with issue := { s.issue with acts := s.issue.acts ++ [(lat, cls, a)] } }

/-- A result under the slot's own class. -/
def State.put (s : State) (h : Hdr) (lat : Nat) (a : Act) : State := s.emit lat h.cls.toNat a

/-- Flags that land with a result (R44, R105); none where no flag is raised. -/
def State.putFlags (s : State) (cls : Nat) (lat : Nat) (f : Flags) : State := if f = 0 then s else s.emit lat cls (.flags f)

/-- A trap raised by the slot (R38, R46). -/
def State.raise (s : State) (cls : Nat) (code : Nat) (info : Nat) (clus : Option Nat := none) : State :=
  { s with issue := { s.issue with traps := s.issue.traps ++ [{ code, info, cls, clus }] } }

/-- Several traps of one slot; the record keeps the one of highest rank (R46). -/
def State.raiseAll (s : State) (cls : Nat) (es : List (Nat × Nat)) : State := es.foldl (fun s e => s.raise cls e.1 e.2) s

/-- A slot's work where none of its checks fails; else every failure is raised, and R46 chooses. -/
def State.checked (s : State) (h : Hdr) (es : List (Nat × Nat)) (f : State → State) : State :=
  match es with
  | [] => f s
  | e :: es => s.raiseAll h.cls.toNat (e :: es)

/-- The slot holds its group (R128, R40). -/
def State.holdGroup (s : State) : State := { s with issue := { s.issue with hold := true } }

/-- The slot makes its group wait for a tile (R40). -/
def State.waitTile (s : State) : State := { s with issue := { s.issue with tileWait := true } }

/-- A slot under its guard: a slot that is guarded off has no effect at all (R57). -/
def slotRun (h : Hdr) (s : State) (f : State → State) : Res := .next (if s.guardOn h then f s else s)

/-- What is common to an exposed and a guarded context (Table 1-4): in guarded mode the event holds the group, in exposed
mode it raises a trap. -/
def State.holdOrTrap (s : State) (cls code info : Nat) : State :=
  if s.arch.guarded then s.holdGroup else s.raise cls code info

/-! ### Calendar -/

/-- Phases of a count: start, issue, transfer-port landings, context landings, promised landings, end. -/
def phStart : Nat := 0
def phHbm : Nat := 1
def phEdge : Nat := 2
def phPromise : Nat := 3
def phEnd : Nat := 4

/-- An event put into the calendar at a later core cycle. -/
def State.schedule (s : State) (cycle phase : Nat) (m : Micro) : State :=
  { s with calendar := s.calendar ++ [{ at_ := cycle, phase := phase, what := m }] }

/-- An event at a BELFRY count: that many cycles from now (not before now). -/
def State.scheduleBel (s : State) (count phase : Nat) (m : Micro) : State :=
  s.schedule (s.now + (count - s.bel)) phase m

/-- An event at once: before the rest of the count's agenda. -/
def State.soon (s : State) (m : Micro) : State := { s with agenda := m :: s.agenda }

/-- A list of things to do at once. -/
def State.soonAll (s : State) (ms : List Micro) : State := { s with agenda := ms ++ s.agenda }

/-- A fresh identifier. -/
def State.fresh (s : State) : Nat × State := (s.nextId, { s with nextId := s.nextId + 1 })

/-! ### Performance counters (R371) -/

/-- A counter takes n events of a code in a context (0 FG, 1 BG, 2 handler); those of no context count under every setting of
CTX. -/
def Perf.add (p : Perf) (ev : Nat) (ctx : Option Nat) (n : Nat) : Perf :=
  let sel := p.sel.toNat
  let want := sel / 2 ^ 8 % 4
  if p.sel.getLsbD 10 && sel % 2 ^ 8 == ev && (want == 0 || ctx.isNone || ctx == some (want - 1)) then { p with val := p.val + BitVec.ofNat 64 n } else p

/-- A counter of a die code counts an event. -/
def State.perfWants (s : State) (die ev : Nat) : Bool := (tget s.perf die default).toList.any fun p => p.sel.getLsbD 10 && p.sel.toNat % 2 ^ 8 == ev

/-- Events of a code on a die code are counted. -/
def State.perfEvent (s : State) (die ev : Nat) (ctx : Option Nat) (n : Nat) : State :=
  { s with perf := tmod s.perf die fun v => v.map fun p => p.add ev ctx n }

/-! ### Trap table (Table 12-3) -/

namespace Cause
def regionOverrun : Nat := 0x01
def rollbackCapacity : Nat := 0x02
def stagingOverflow : Nat := 0x03
def atomicLog : Nat := 0x04
def resyncMismatch : Nat := 0x05
def dieRetired : Nat := 0x06
def handlerFault : Nat := 0x07
def checkpointTarget : Nat := 0x08
def bankUncorrectable : Nat := 0x09
def softError : Nat := 0x10
def memoryUncorrectable : Nat := 0x11
def translation : Nat := 0x20
def unpinned : Nat := 0x21
def protection : Nat := 0x22
def addressRange : Nat := 0x23
def homeLost : Nat := 0x24
def stackGrant : Nat := 0x25
def transferSpan : Nat := 0x26
def remotePath : Nat := 0x27
def misaligned : Nat := 0x30
def bankBounds : Nat := 0x31
def branchTarget : Nat := 0x32
def ownership : Nat := 0x33
def edgeAbsent : Nat := 0x34
def fabricSlot : Nat := 0x35
def receiveMismatch : Nat := 0x36
def collMismatch : Nat := 0x37
def collDescriptor : Nat := 0x38
def scatterConfig : Nat := 0x39
def scatterBounds : Nat := 0x3A
def tileDescriptor : Nat := 0x3B
def wbufBounds : Nat := 0x3C
def operandMismatch : Nat := 0x3D
def stippleMalformed : Nat := 0x3E
def stippleOverflow : Nat := 0x3F
def queueOverflow : Nat := 0x40
def queueUnderflow : Nat := 0x41
def overflow : Nat := 0x42
def software : Nat := 0x50
def timing : Nat := 0x60
def lateArrival : Nat := 0x61
end Cause

/-- Recovery classes (R318). -/
inductive TrapClass where
  | automatic | handler | fatal
  deriving DecidableEq, Repr

/-- The class of a cause (Table 12-3). -/
def causeClass (code : Nat) : TrapClass :=
  if code ≤ 0x09 then .fatal
  else if code = 0x10 ∨ code = 0x60 ∨ code = 0x61 then .automatic
  else .handler

/-- The priority of a cause: the smaller number ranks higher (Table 12-3). -/
def causePriority (code : Nat) : Nat :=
  if code ≤ 0x09 then code
  else if code ≤ 0x11 then 10 + (code - 0x10)
  else if code ≤ 0x27 then 12 + (code - 0x20)
  else if code ≤ 0x3F then 20 + (code - 0x30)
  else if code ≤ 0x42 then 36 + (code - 0x40)
  else if code = 0x50 then 39
  else 40 + (code - 0x60)

/-- One trap outranks another: higher priority, or the same cause in a lower class (R46). -/
def Trap.outranks (a b : Trap) : Bool :=
  let pa := causePriority a.code
  let pb := causePriority b.code
  pa < pb || (pa == pb && a.cls < b.cls)

/-- The trap that TRAPCAUSE records among several of one bundle (R46). -/
def leadTrap : List Trap → Option Trap
  | [] => none
  | t :: ts => match leadTrap ts with
    | none => some t
    | some u => some (if u.outranks t then u else t)

/-- TRAPCAUSE of a trap (Table 1-14). -/
def Trap.causeWord (t : Trap) (second fatal : Bool) : Word :=
  BitVec.ofNat 64 (t.code + t.cls % 16 * 2 ^ 16 +
    (match t.clus with | some c => 2 ^ 20 + c % 8 * 2 ^ 21 | none => 0) +
    b2n second * 2 ^ 61 + b2n fatal * 2 ^ 62 + 2 ^ 63)

/-- TRAPCAUSE.V (Table 1-14). -/
def trapValid (cause : Word) : Bool := cause.getLsbD 63

/-- The trap registers of a context take a trap's values (R46, Table 1-14). A trap that finds V still set, or that came while another
was pending, sets SECOND. -/
def Arch.recordTrap (a : Arch) (t : Trap) (gstep : Nat) (fatal : Bool) (second : Bool := false) : Arch :=
  { a with
    trapCause := t.causeWord (trapValid a.trapCause || second) fatal
    trapStep := BitVec.ofNat 64 (t.gstep.getD gstep)
    trapInfo := BitVec.ofNat 64 t.info }

/-! ### Gangs -/

/-- The gang with an identifier. -/
def State.gang? (s : State) (g : Nat) : Option Gang := s.gangs.find? (·.id == g)

/-- The gang that a context belongs to; a handler context belongs to the gang it serves (R18). -/
def State.gangOf (s : State) (d c : Nat) : Option Gang := s.gang? (s.ctx d c).gang

/-- Change of a gang. -/
def State.modGang (s : State) (g : Nat) (f : Gang → Gang) : State :=
  { s with gangs := s.gangs.map fun x => if x.id = g then f x else x }

/-- Change of the members of a gang. -/
def Gang.mapMembers (g : Gang) (f : Member → Member) : Gang := { g with members := g.members.map f }

/-- A change applied to each member's context. -/
def State.eachMember (s : State) (g : Gang) (f : State → Member → State) : State := g.members.foldl f s

/-- Counts within which the other members stop: those on the package of the fault, and those elsewhere (R315). -/
def nearStop : Nat := 16
def farStop : Nat := 4096

/-- Counts after which every member of a gang has stopped, and the extra delay of a gang that spans packages (R315). -/
def Gang.stopBound (g : Gang) : Nat := if g.others = 0 then nearStop else farStop
def Gang.delta (g : Gang) : Nat := if g.others = 0 then 64 else 4096

/-- The least count at or above `lo` that is congruent to `r` modulo the period (R297, R315, R257). -/
def leastCongruent (lo r tp : Nat) : Nat :=
  if tp = 0 then lo else lo + (r % tp + tp - lo % tp) % tp

/-- The handler image registered for a die (R318). -/
def State.handlerOf (s : State) (d : Nat) : Option Nat := (s.handlers.find? (·.1 == d)).map (·.2)

/-- The recovery class of a cause on a die: class H acts as F where no handler image is registered (R318). -/
def State.effectiveClass (s : State) (d code : Nat) : TrapClass :=
  match causeClass code with
  | .handler => if (s.handlerOf d).isSome then .handler else .fatal
  | k => k

/-! ### TAKING A TRAP -/

/-- A member's trap waits for the restore to be recorded (R46, R315 step 2). -/
def Member.pends (m : Member) (d c : Nat) : Bool := m.die == d && m.ctx == c && m.trap.isSome && !m.restored

/-- The end of a gang by a trap: the deciding cause is kept for the dump and the completion record, the faulting member's
trap registers record it with FATAL, and the abort takes place at once (R304, R318, R331). -/
def State.abortByTrap (s : State) (g : Gang) (d c : Nat) (t : Trap) : State :=
  let gs := (s.belfry - BitVec.ofNat 64 g.gbase).toNat
  let s := s.modArch d c fun a => a.recordTrap t gs true (g.state == .rollback && g.members.any fun m => m.pends d c)
  let s := s.modGang g.id fun x =>
    { x with cause := some t, decider := some (d, c), first := x.first.or (some (d, c)), state := .aborted }
  s.soon (.ev (.gangAbort g.id .trap))

/-- A further member faults in the count in which a gang is aborted: it keeps its own TRAPCAUSE, and the gang the cause of highest
rank (R320). -/
def State.joinAbort (s : State) (g : Gang) (d c : Nat) (t : Trap) : State :=
  let gs := (s.belfry - BitVec.ofNat 64 g.gbase).toNat
  let fatal := s.effectiveClass d t.code == .fatal
  let s := s.modArch d c fun a => a.recordTrap t gs fatal
  if fatal && g.cause.all t.outranks then s.modGang g.id fun x => { x with cause := some t, decider := some (d, c) } else s

/-- The traps that members of a gang that rolls back keep, where it is aborted before its restore (R320). -/
def State.recordPending (s : State) (g : Gang) : State :=
  s.eachMember g fun s m => match m.trap with
    | some t =>
      if m.restored ∨ (g.state = .aborted ∧ g.decider = some (m.die, m.ctx)) then s
      else s.modArch m.die m.ctx fun a => a.recordTrap t m.trapStep false m.second
    | none => s

/-- A free stop delay for every other member of a gang, within a bound of R315. -/
def State.planStops (s : State) (bound d c : Nat) : List Member → State × List Member
  | [] => (s, [])
  | m :: ms =>
    let (n, s1) := s.freeBelow (bound + 1)
    let here := m.die == d && m.ctx == c
    let (s2, ms') := State.planStops s1 bound d c ms
    (s2, { m with stopAt := some (s.bel + if here then 0 else n), restored := false, handled := false,
                  resumeAt := none } :: ms')

/-- A rollback of a gang is counted on the die of every member here (R371). -/
def State.countRollback (s : State) (g : Gang) : State :=
  g.members.foldl (fun s m => s.perfEvent m.die 0x07 (some m.ctx) 1) s

/-- The rollback of a gang begins (R315 step 1): the faulting member stops at once, the others within the bound; the fifth
rollback in a row to one checkpoint aborts the gang instead (R317). -/
def State.startRollback (s : State) (g : Gang) (d c : Nat) (t : Trap) : State :=
  if 4 ≤ g.tries then s.abortByTrap g d c t
  else
    let (s, ms) := s.planStops nearStop d c g.members
    let gs := (s.belfry - BitVec.ofNat 64 g.gbase).toNat
    let ms := ms.map fun m => if m.die = d ∧ m.ctx = c then { m with trap := some t, trapStep := gs, second := false } else { m with trap := none }
    let s := s.countRollback g
    let s := s.modGang g.id fun x =>
      { x with state := .rollback, members := ms, faultAt := s.bel, tries := x.tries + 1, resumeAt := none,
               cause := some t, decider := some (d, c), first := some (d, c), stops := [] }
    s.modCtx d c fun x => { x with run := .stopped }

/-- A member on another package faults (R315, R320): which trap it is, and so whether the gang ends or rolls back, is a free
choice (log 35); every member here stops within its bound. -/
def State.remoteFault (s : State) (g : Gang) : State :=
  let (k, s) := s.freeBelow 2
  let (code, s) := s.freeBelow 65536
  let t : Trap := { code := code, info := 0, cls := 0, clus := none }
  if k = 0 ∨ 4 ≤ g.tries then (s.modGang g.id fun x => { x with cause := some t, decider := none, state := .aborted }).soon (.ev (.gangAbort g.id .trap))
  else if g.members.isEmpty then s
  else
    let (s, ms) := s.planStops farStop 16 0 g.members
    (s.countRollback g).modGang g.id fun x =>
      { x with state := .rollback, members := ms.map fun (m : Member) => { m with trap := none }, faultAt := s.bel, tries := x.tries + 1,
               resumeAt := none, cause := some t, decider := none, first := none, stops := [] }

/-- A trap decides a gang's recovery before another one: handler before automatic, then by rank (R320). -/
def State.decides (s : State) (d : Nat) (t : Trap) (before : Option Trap) : Bool :=
  match before with
  | none => true
  | some u =>
    let h := s.effectiveClass d t.code == .handler
    let k := causeClass u.code == .handler
    if h == k then t.outranks u else h

/-- A member's trap of the present count: of two the one of higher rank, with SECOND (R46, Table 1-14). -/
def Member.joined (m : Member) (t : Trap) (gstep bel : Nat) : Member :=
  let second := m.trap.isSome
  if m.trap.all t.outranks then { m with trap := some t, trapStep := gstep, stopAt := some bel, second := second }
  else { m with second := true }

/-- A further member faults while the gang is rolling back: at the count of the first fault its trap is recorded, later it
is discarded unless it is fatal (R315 step 1, R320). -/
def State.joinRollback (s : State) (g : Gang) (d c : Nat) (t : Trap) : State :=
  if s.effectiveClass d t.code = .fatal then s.abortByTrap g d c t
  else if s.bel = g.faultAt then
    let gs := (s.belfry - BitVec.ofNat 64 g.gbase).toNat
    let s := s.modGang g.id fun x => x.mapMembers fun m => if m.die = d ∧ m.ctx = c then m.joined t gs s.bel else m
    let s := if s.decides d t g.cause then s.modGang g.id fun x => { x with cause := some t, decider := some (d, c) } else s
    s.modCtx d c fun x => { x with run := .stopped }
  else s

/-- Timing traps are counted (R371). -/
def State.countTrap (s : State) (d c : Nat) (t : Trap) : State :=
  if t.code = Cause.timing ∨ t.code = Cause.lateArrival then s.perfEvent d 0x06 (some c) 1 else s

/-- TAKING A TRAP of a context: no slot of its bundle commits (R38); the cause of highest rank is recorded (R46); a trap
of a handler bundle is the handler-fault of the gang it serves (R310); a fatal trap, or one that reaches an exited member
or a draining gang, aborts the gang (R135, R304, R318); any other starts or joins a rollback (R315, R320). -/
def State.takeTrap (s : State) (d c : Nat) (ts : List Trap) : State :=
  match leadTrap ts, s.gangOf d c with
  | none, _ => s
  | some _, none => s
  | some t, some g =>
    let s := s.countTrap d c t
    if c = 2 then
      let v := (s.ctx d c).served
      s.abortByTrap g d v { code := Cause.handlerFault, info := t.code, cls := 0, clus := none }
    else if g.state = .aborted then s.joinAbort g d c t
    else if g.state = .draining ∨ (s.ctx d c).run = .exited then s.abortByTrap g d c t
    else if g.state = .rollback then s.joinRollback g d c t
    else if s.effectiveClass d t.code = .fatal then s.abortByTrap g d c t
    else s.startRollback g d c t

/-- A trap found by an engine outside any bundle. -/
def State.takeOne (s : State) (d c : Nat) (code info cls : Nat) : State :=
  s.takeTrap d c [{ code, info, cls, clus := none }]

/-! ### The return from a trap -/

/-- The resume count and the new GBASE of a gang, from its ready count (R315 step 5). -/
def Gang.resumeCount (g : Gang) (rdy : Nat) : Nat := leastCongruent (rdy + g.delta) ((g.gbase + g.gck) % 2 ^ 64) g.tp

/-- A faulting member waits for no handler any more, and will reissue the checkpoint group given, if any. Once this holds of
every faulting member, the resume is set at the least fitting count after this one (R315 step 5). -/
def State.handledMember (s : State) (g : Gang) (d c : Nat) (k : Option Nat) : State :=
  let s := s.modGang g.id fun x => x.mapMembers fun m =>
    if m.die = d ∧ m.ctx = c then { m with handled := true, resumeAt := k } else m
  match s.gang? g.id with
  | none => s
  | some g' =>
    if g'.members.all fun m => m.trap.isNone || m.handled then
      let at_ := g'.resumeCount (max g'.readyAt (s.bel + 1))
      (s.modGang g.id fun x => { x with resumeAt := some at_ }).scheduleBel at_ phStart (.ev (.rollbackResume g.id))
    else s

/-- A member's handler has ended with RETT k (R138, R319): the member will reissue checkpoint group k. -/
def State.rettMember (s : State) (g : Gang) (d c k : Nat) : State :=
  (s.modCtx d 2 fun x => { x with run := .absent }).handledMember g d c (some k)

end Sys2Proof.Machine
end

