-- ==== Sys2Proof/Machine/Flags.lean ====
section
/-!
DEFINITION. Compare conditions and flag computations (Table 3-3, R78, R114, R116, R117, R118).
-/

namespace Sys2Proof

/-- Two values are unordered. -/
def XV.unordered (a b : XV) : Bool := a.isNaN || b.isNaN

/-- A rounded result with the flags of the operation before it. -/
def Rounded.withFlags (r : Rounded) (f : Flags) : Rounded := { r with flags := r.flags ||| f }

/-- One rounding of an exact result (R100, R117): a trap keeps no flag (R105). -/
def XRes.round (x : XRes) (f : Fmt) (rnd : Rnd) (ovf : Ovf) (ftz : Bool) (u : Nat) : Rounded :=
  (roundTo f x.val rnd ovf ftz u).withFlags x.flags

end Sys2Proof

namespace Sys2Proof.Machine

/-- The integer conditions of CMP and BRC (Table 3-3). -/
def intCond (c : Nat) (x y : Word) : Bool :=
  match c with
  | 0 => x == y
  | 1 => x != y
  | 2 => x.slt y
  | 3 => !x.slt y
  | 4 => x.ult y
  | 5 => !x.ult y
  | _ => false

/-- The floating-point conditions of FCMP (Table 3-3): the ordered ones are false on a NaN, NE and UN are true. -/
def fpCond (c : Nat) (a b : XV) : Bool :=
  match c with
  | 0 => a.eqv b
  | 1 => !a.eqv b
  | 2 => a.lt b
  | 3 => a.lt b || a.eqv b
  | 4 => b.lt a
  | 5 => b.lt a || a.eqv b
  | 6 => XV.unordered a b
  | _ => false

end Sys2Proof.Machine
end

