-- ==== Sys2Proof/Machine/Operands.lean ====
section
/-!
DEFINITION. Operand forms: scalar operands, system registers, draws, elements of vector registers and predicates, the
sources and destinations of replicated slots.
-/

namespace Sys2Proof

/-- The width of a scalar floating-point instruction: FN[3] (R117). -/
def RRR.fpFmt (o : RRR) : Fmt := if bit 3 o.fn.toNat then .f32 else .f64

/-- The clusters a slot issues in: those of CMASK under KIND 01, otherwise its own (R63). -/
def Hdr.clusters (h : Hdr) : List Nat :=
  match h.ext with
  | some _ => if h.kind = 1 then (List.range 8).filter fun c => bit c h.cmask else [h.cls.toNat - 2]
  | none => [h.cls.toNat - 2]

end Sys2Proof

namespace Sys2Proof.Machine

/-! ### Scalar operands -/

/-- s[n] of the executing context, as read at issue (R14). -/
def State.s (s : State) (n : BitVec 6) : Word := s.arch.sreg n

/-- A scalar floating-point operand (R113). -/
def State.fp (s : State) (f : Fmt) (n : BitVec 6) : XV := fpValue f ((s.s n).toNat % 2 ^ f.width)

/-- A draw of the slot, taken only under RND = 100 (R104). -/
def State.draw (s : State) (rnd : Rnd) : State × Nat :=
  let p := drawIf rnd s.issue.seed
  ({ s with issue := { s.issue with seed := p.1 } }, p.2)

/-! ### System registers (R42, Tables 1-9 to 1-15) -/

/-- LSTATUS (Table 1-15). -/
def State.lstatus (s : State) : Word :=
  BitVec.ofNat 64 ((List.range 14).foldl (fun n i => n + (tget s.lanterns i default).ls.toNat * 16 ^ i) 0)

/-- PROMISEn as a word (Table 1-11). -/
def Promise.word (p : Promise) : Word :=
  BitVec.ofNat 64 (p.pstep.toNat + b2n p.poison * 2 ^ 60 + b2n p.retry * 2 ^ 61 + b2n p.done * 2 ^ 62 + b2n p.v * 2 ^ 63)

/-- PROMISEn of a word: reserved bits are dropped. -/
def Promise.ofWord (w : Word) : Promise :=
  { pstep := w.extractLsb' 0 48, poison := bit 60 w.toNat, retry := bit 61 w.toNat, done := bit 62 w.toNat,
    v := bit 63 w.toNat }

/-- DQ entries LANDED or POISONED. -/
def Arch.dqReady (a : Arch) : Nat := (a.dq.filter fun e => e.status != .wait).length

/-- OQ entries poppable (R33). -/
def Arch.oqReady (a : Arch) : Nat := (a.oq.filter fun e => e.poppable).length

/-- AQ entries from their push: those held and those that land at the end of the step after their push (R27, R189). -/
def Arch.aqOccupancy (a : Arch) : Nat :=
  a.aq.length + (a.landing.filter fun l => match l.act with | .aqPush _ => true | _ => false).length

/-- QSTAT (Table 1-10). -/
def Arch.qstat (a : Arch) (k : DieKind) : Word :=
  match k with
  | .v => BitVec.ofNat 64 (a.aqOccupancy + a.dq.length * 2 ^ 8 + a.dqReady * 2 ^ 16)
  | .m => BitVec.ofNat 64 (a.oq.length + a.oqReady * 2 ^ 8)

/-- CTXMODE (Table 1-12); HOLD is shown to a handler only. -/
def Ctx.ctxmode (x : Ctx) (k : DieKind) (handlerView : Bool) : Word :=
  BitVec.ofNat 64 (b2n x.arch.guarded + b2n (handlerView && (x.held != 0 || x.run == .stopped)) * 2 +
    (match k with | .v => 0 | .m => 2 ^ 4 + x.groups.toNat * 2 ^ 8))

/-- CTXID (Table 1-10). -/
def ctxid (pkg : BitVec 10) (d c : Nat) (x : Ctx) : Word :=
  BitVec.ofNat 64 (pkg.toNat + d * 2 ^ 10 + c * 2 ^ 14 + x.member % 2 ^ 13 * 2 ^ 16 +
    (if c = 2 then x.served % 4 * 2 ^ 29 else 0) + x.asid % 2 ^ 12 * 2 ^ 32 + x.gang % 2 ^ 20 * 2 ^ 44)

/-- The context whose registers RDSR and WRSR reach: a handler reaches the context it serves (R42). -/
def State.srCtx (s : State) : Nat := if s.issue.ctx = 2 then s.me.served else s.issue.ctx

/-- The value of a system register at the issue step (R139, R42). -/
def State.readSr (s : State) (n : Nat) : Word :=
  let d := s.issue.die
  let k := kindOf d
  let x := s.ctx d s.srCtx
  let a := x.arch
  match n with
  | 0x00 => s.belfry
  | 0x01 => a.gbase
  | 0x02 => x.ctxmode k (s.issue.ctx == 2)
  | 0x03 => ctxid s.pkg d s.issue.ctx s.me
  | 0x04 => BitVec.ofNat 64 (a.ckix.toNat + a.commits.toNat * 2 ^ 24)
  | 0x05 => a.trapCause
  | 0x06 => a.trapStep
  | 0x07 => a.trapInfo
  | 0x08 => s.lstatus
  | 0x09 => a.flags.setWidth 64
  | 0x0A => a.seed
  | 0x0B => a.vrb.setWidth 64
  | 0x0C => a.lc
  | 0x0D => a.ec.setWidth 64
  | 0x0E => BitVec.ofNat 64 (a.bwinBase.toNat + a.bwinLimit.toNat * 2 ^ 32)
  | 0x0F => a.qstat k
  | n => if n < 0x18 then (tget a.promise (n - 0x10) default).word else 0

/-- The defined bits of TRAPCAUSE (Table 1-14). -/
def trapCauseMask : Word := 0xE000000000FFFFFF

/-- A write of a system register at the end of its issue step: only defined fields take the written bits; FLAGS clears
the bits written as 1; CTXMODE takes G, and on an M-die GROUPS (R139, R42). -/
def Ctx.writeSr (x : Ctx) (k : DieKind) (n : Nat) (w : Word) : Ctx :=
  let a := x.arch
  match n with
  | 0x01 => { x with arch := { a with gbase := w } }
  | 0x02 =>
    { x with arch := { a with guarded := w.getLsbD 0 },
             groups := match k with | .v => x.groups | .m => w.extractLsb' 8 4 }
  | 0x05 => { x with arch := { a with trapCause := w &&& trapCauseMask } }
  | 0x06 => { x with arch := { a with trapStep := w } }
  | 0x07 => { x with arch := { a with trapInfo := w } }
  | 0x09 => { x with arch := { a with flags := a.flags &&& ~~~(w.setWidth 8) } }
  | 0x0A => { x with arch := { a with seed := w } }
  | 0x0B => { x with arch := { a with vrb := w.setWidth 5 } }
  | 0x0C => { x with arch := { a with lc := w } }
  | 0x0D => { x with arch := { a with ec := w.setWidth 8 } }
  | 0x0E => { x with arch := { a with bwinBase := w.setWidth 28, bwinLimit := w.extractLsb' 32 28 } }
  | n => if 0x10 ≤ n ∧ n < 0x18 then { x with arch := { a with promise := tset a.promise (n - 0x10) (Promise.ofWord w) } }
         else x

/-- A BG context is always in guarded mode: a handler's write of its CTXMODE leaves G set (R39). -/
def Ctx.keepMode (x : Ctx) (c : Nat) : Ctx := if c = 1 then { x with arch := { x.arch with guarded := true } } else x

/-! ### Vector elements (R21, Table 1-2) -/

/-- Element e of width w of a register of any width. -/
def elemOf {n : Nat} (v : BitVec n) (w e : Nat) : Nat := (v.toNat >>> (w * e)) % 2 ^ w

/-- The number of elements of a register. -/
def elemCount (w : Nat) : Nat := 1024 / w

/-- Elements packed from element 0 upward (Table 1-2). -/
def packElems (w : Nat) : List Nat → Nat
  | [] => 0
  | x :: xs => x % 2 ^ w + 2 ^ w * packElems w xs

/-- A register of packed elements. -/
def vregOf (w : Nat) (xs : List Nat) : VReg := BitVec.ofNat 1024 (packElems w xs)

/-- The byte that an element's predicate bit belongs to: its lowest byte, or for 4-bit elements its byte (R22). -/
def elemByte (w e : Nat) : Nat := w * e / 8

/-- Whether a predicate selects an element of width w (R22). -/
def elemSel (p : PReg) (w e : Nat) : Bool := p.getLsbD (elemByte w e)

/-- Element i of the full vector of a register at width w: the clusters' parts in ascending order (R168). -/
def Arch.fullElem (a : Arch) (r : BitVec 6) (w i : Nat) : Nat :=
  elemOf (a.vreg (i / elemCount w) r) w (i % elemCount w)

/-- The predicate bit of element i of the full vector (R22, R168). -/
def Arch.fullSel (a : Arch) (p w i : Nat) : Bool := elemSel (a.preg (i / elemCount w) p) w (i % elemCount w)

/-- The bits of a predicate that cover element e at width w (R22). -/
def elemBits (w e : Nat) : Nat :=
  if w < 8 then 2 ^ elemByte w e else (2 ^ (w / 8) - 1) * 2 ^ elemByte w e

/-- The predicate whose bits cover exactly the elements of a list. -/
def coverMask (w : Nat) (es : List Nat) : PReg := BitVec.ofNat 128 (es.foldl (fun n e => n ||| elemBits w e) 0)

/-- The byte mask of the elements that a predicate selects (R22). -/
def selMask (p : PReg) (w : Nat) : PReg := coverMask w ((List.range (elemCount w)).filter fun e => elemSel p w e)

/-- A predicate written at width w from one result for each element; at width 4 the even element decides (R22). -/
def predOf (w : Nat) (f : Nat → Bool) : PReg :=
  if w < 8 then BitVec.ofNat 128 ((List.range 128).foldl (fun n b => if f (2 * b) then n ||| 2 ^ b else n) 0)
  else coverMask w ((List.range (elemCount w)).filter f)

/-- The guard of a cluster slot as a predicate: the named predicate, inverted by GN (R22, R57). -/
def Arch.vguard (a : Arch) (c : Nat) (h : Hdr) : PReg :=
  let p := a.preg c h.g.toNat
  if h.gn then ~~~p else p

/-- The class index under which a cluster's result counts (R63). -/
def clusterClass (c : Nat) : Nat := c + 2

/-- A cluster slot: the same work in each of its clusters, in ascending order (R23, R104). -/
def clusterRun (h : Hdr) (s : State) (f : Nat → State → State) : Res := .next (h.clusters.foldl (fun s c => f c s) s)

/-- A result into a vector register of a cluster, under a byte mask; the physical register is fixed now (R24). -/
def State.putV (s : State) (c lat : Nat) (d : BitVec 6) (x : VReg) (mask : PReg) : State :=
  if mask = 0 then s else s.emit lat (clusterClass c) (.v c (physV s.arch.vrb d.toNat) x mask)

/-- A result into a predicate of a cluster; p0 discards it (R22). -/
def State.putP (s : State) (c lat : Nat) (d : BitVec 6) (x mask : PReg) : State :=
  if d.toNat = 0 ∨ mask = 0 then s else s.emit lat (clusterClass c) (.p c (physP s.arch.vrb d.toNat) x mask)

/-- One element's rounding in an element-wise instruction: the rounded bits and the state with the draw taken. -/
structure ElemOut where
  st : State
  out : List Nat
  flags : Flags
  trap : Option Nat

/-- Element-wise work over the selected elements, in ascending order (R104): `f` gives the result of an element from the
number drawn for it (drawn only if `rnd` is stochastic and `draws` says that the element calls for a rounding). Elements
not selected give 0 and take no draw. The first element that traps is kept (Table 12-3: element index). -/
def mapElems (rnd : Rnd) (draws : Bool) (sel : Nat → Bool) (f : Nat → Nat → Rounded) (s : State) : List Nat → ElemOut
  | [] => { st := s, out := [], flags := 0, trap := none }
  | e :: es =>
    if sel e then
      let p := if draws then s.draw rnd else (s, 0)
      let r := f e p.2
      let rest := mapElems rnd draws sel f p.1 es
      { st := rest.st, out := r.bits :: rest.out, flags := r.flags ||| rest.flags,
        trap := if r.trap then some e else rest.trap }
    else
      let rest := mapElems rnd draws sel f s es
      { rest with out := 0 :: rest.out }

/-- Element-wise work whose results land in a vector register of a cluster (R145): flags land with it, an overflow under
policy 11 raises the precise overflow trap (R101, R105). -/
def State.vmap (s : State) (h : Hdr) (c lat w : Nat) (d : BitVec 6) (rnd : Rnd) (draws : Bool)
    (f : Nat → Nat → Rounded) : State :=
  let g := s.arch.vguard c h
  let r := mapElems rnd draws (fun e => elemSel g w e) f s (List.range (elemCount w))
  match r.trap with
  | some e => r.st.raise (clusterClass c) Cause.overflow e (some c)
  | none => (r.st.putV c lat d (vregOf w r.out) (selMask g w)).putFlags (clusterClass c) lat r.flags

end Sys2Proof.Machine
end

