-- ==== Sys2Proof/Machine/Banks.lean ====
section
/-!
DEFINITION. Reads of a bank wall through its two views (R119, R176, R267, R268), and the address checks that bank and
translated accesses share (R43, R119, R120).
-/

namespace Sys2Proof.Machine

/-- The values an aligned word may show to a read of a context through a view: as it stands, or as it stood before a
write of the context through the other view that is not yet joined (R268). -/
def Ctx.wordChoices (x : Ctx) (plate : Bool) (bank : Mem) (a : Nat) : List (BitVec 32) :=
  BitVec.ofNat 32 (Mem.nat bank a 4) :: (x.unjoined.filter fun u => u.addr == a && u.plate != plate).map (·.old)

/-- An aligned word of a die's bank wall as a context reads it through a view (R268). A view-join group, and a context
without unjoined writes, sees it as it stands. -/
def State.bankWord (s : State) (d c : Nat) (plate joined : Bool) (a : Nat) : BitVec 32 :=
  let x := s.ctx d c
  let bank := (s.die d).bank
  if joined || x.unjoined.isEmpty then BitVec.ofNat 32 (Mem.nat bank a 4)
  else
    let cs := x.wordChoices plate bank a
    cs.getD (Config.freeChoice s.free a % cs.length) 0

/-- A byte of it. -/
def State.bankByte (s : State) (d c : Nat) (plate joined : Bool) (a : Nat) : Byte :=
  (s.bankWord d c plate joined (a - a % 4)).extractLsb' (8 * (a % 4)) 8

/-- n bytes of it. -/
def State.bankBytes (s : State) (d c : Nat) (plate joined : Bool) (a : Nat) : Nat → List Byte
  | 0 => []
  | n + 1 => s.bankByte d c plate joined a :: s.bankBytes d c plate joined (a + 1) n

/-- A read of the executing slot through a view; the group's VJ bit and FENCE join before it reads (R268). -/
def State.readBank (s : State) (plate : Bool) (a n : Nat) : List Byte :=
  s.bankBytes s.issue.die s.issue.ctx plate s.issue.vj a n

/-- The counter of free choices advances once for each slot that reads a bank. -/
def State.afterRead (s : State) : State := { s with free := s.free + 1 }

/-- Linear-view access checks (R119): alignment, then the bank window. -/
def linearCheck (a : Arch) (addr k : Nat) : Option Nat :=
  if addr % k ≠ 0 then some Cause.misaligned
  else if a.inWindow addr k then none else some Cause.bankBounds

/-- Bytes of a scalar memory access: 1 << FN[1:0] (R119). -/
def memSize (fn : Nat) : Nat := 2 ^ (fn % 4)

/-- A value of 8k bits extended to 64 (R119). -/
def extendMem (sext : Bool) (k v : Nat) : Word := if sext then wordOfInt (sval (8 * k) v) else BitVec.ofNat 64 v

/-- The bank address that an address of an atomic, WAITB or barrier names: bit 63 set, bits [62:28] clear (R120);
`none` where it names no bank window. -/
def bankAddr (a : Word) : Option Nat := if (bits 62 28 a.toNat) = 0 then some (a.toNat % 2 ^ 28) else none

/-- The checks of an access to the executing die's own bank at such an address (R120). -/
def State.bankCheck (s : State) (a : Word) (k : Nat) : Option Nat :=
  match bankAddr a with
  | none => some Cause.bankBounds
  | some x => linearCheck s.arch x k

end Sys2Proof.Machine
end

