-- ==== Sys2Proof/Machine/ScalarMem.lean ====
section
/-!
DEFINITION. Scalar memory instructions as they issue (05 R119–R123): LDS, STS, LDH, STH, AADD, AINC, ACAS, AXCHG. What a
started access does afterwards is in Access.lean.
-/

namespace Sys2Proof.Machine

/-- The address of a scalar access: (s[x] + IMM) mod 2^64. -/
def State.memAddr (s : State) (h : Hdr) (o : RI) : Word := s.s o.x + wordOfInt (o.value h)

/-- LDS (R119): both faults at issue; the bytes are read at the issue step and land after 4. -/
def execLds (h : Hdr) (o : RI) (s : State) : Res :=
  slotRun h s fun s =>
    let a := (s.memAddr h o).toNat
    let k := memSize o.fn.toNat
    match linearCheck s.arch a k with
    | some c => s.raise h.cls.toNat c a
    | none =>
      let v := natOfBytes (s.readBank false a k)
      (s.afterRead).put h 4 (.s o.d.toNat (extendMem (bit 2 o.fn.toNat) k v))

/-- STS (R119): s[d]'s low bytes land in the bank after 4 steps. -/
def execSts (h : Hdr) (o : RI) (s : State) : Res :=
  slotRun h s fun s =>
    let a := (s.memAddr h o).toNat
    let k := memSize o.fn.toNat
    match linearCheck s.arch a k with
    | some c => s.raise h.cls.toNat c a
    | none => s.put h 4 (.bank false (placeBytes a (bytesOfNat k (s.s o.d).toNat)))

/-- A request of the executing slot, before its promise step is known. -/
def newReq (cls pr : Nat) (kind : ReqKind) (addr : Word) (size : Nat) : Req :=
  { (default : Req) with kind := kind, cls := cls, pr := pr, addr := addr, size := size }

/-- A slot starts an access at the end of its issue step (R121, R228). -/
def State.startReq (s : State) (h : Hdr) (r : Req) : State := s.put h 0 (.start r)

/-- LDH (R121). -/
def execLdh (h : Hdr) (o : RI) (s : State) : Res :=
  slotRun h s fun s =>
    let a := s.memAddr h o
    let k := memSize o.fn.toNat
    if a.toNat % k ≠ 0 then s.raise h.cls.toNat Cause.misaligned a.toNat
    else s.startReq h (newReq h.cls.toNat (bits 5 3 o.fn.toNat) (.ldh o.d.toNat (bit 2 o.fn.toNat)) a k)

/-- A write into the deferred-write set: bytes at consecutive addresses, split into aligned 64-byte granules (R311). -/
def granuleWrites (sth tdma cq : Bool) (a : Nat) (bs : List Byte) : List DefWrite :=
  let first := a / 64
  let last := (a + bs.length - 1) / 64
  (List.range (if bs.isEmpty then 0 else last + 1 - first)).map fun i =>
    let g := (first + i) * 64
    let cells := (placeBytes a bs).filter fun p => g ≤ p.1 && p.1 < g + 64
    { addr := g,
      data := BitVec.ofNat 512 (cells.foldl (fun n p => n + p.2.toNat * 256 ^ (p.1 - g)) 0),
      mask := BitVec.ofNat 64 (cells.foldl (fun n p => n + 2 ^ (p.1 - g)) 0),
      sth := sth, tdma := tdma, cq := cq, cls := 0, rst := none }

/-- A deferred write with its promise: it enters the set at the issue step, DONE at the end of it, PSTEP two counts after
issue (R122, R237, R252). -/
def State.deferWith (s : State) (h : Hdr) (pr : Nat) (addr : Word) (ws : List DefWrite) (size : Nat) : State :=
  (s.put h 0 (.defer ws)).startReq h (newReq h.cls.toNat pr .enqueue addr size)

/-- STH (R122). -/
def execSth (h : Hdr) (o : RI) (s : State) : Res :=
  slotRun h s fun s =>
    let a := s.memAddr h o
    let k := memSize o.fn.toNat
    if a.toNat % k ≠ 0 then s.raise h.cls.toNat Cause.misaligned a.toNat
    else s.deferWith h (bits 5 3 o.fn.toNat) a (granuleWrites true false false a.toNat (bytesOfNat k (s.s o.d).toNat)) k

/-- The entries the region's atomic log would hold with one more translated atomic (R124). -/
def State.atomicsSoFar (s : State) : Nat :=
  s.me.atomPos + (s.issue.acts.filter fun a => match a.2.2 with | .logAtomic _ => true | _ => false).length

/-- A region's log would need a 257th entry (R124); a handler runs without regions (R310). -/
def State.logFull (s : State) (n : Nat) : Bool := s.issue.ctx != 2 && 256 ≤ n

/-- The atomics (R123): an aligned word of 4 or 8 bytes; a bank word is checked at issue; a translated one takes an entry
of the region's atomic log, which holds 256 (R124). -/
def scalarAtomic (h : Hdr) (o : RRR) (op : AtomOp) (s : State) : State :=
  let a := s.s o.x
  let k := if bit 0 o.fn.toNat then 8 else 4
  let y := BitVec.ofNat 64 ((s.s o.y).toNat % 2 ^ (8 * k))
  let z := BitVec.ofNat 64 ((s.s o.z).toNat % 2 ^ (8 * k))
  let n := s.atomicsSoFar
  let r := newReq h.cls.toNat (bits 3 1 o.fn.toNat) (.atomic op y z o.d.toNat n) a k
  if a.toNat % k ≠ 0 then s.raise h.cls.toNat Cause.misaligned a.toNat
  else if bit 63 a.toNat then
    match s.bankCheck a k with
    | some c => s.raise h.cls.toNat c a.toNat
    | none => s.startReq h r
  else if s.logFull n then s.raise h.cls.toNat Cause.atomicLog a.toNat
  else (s.put h 0 (.logAtomic n)).startReq h r

/-- AADD (R123). -/
def execAadd (h : Hdr) (o : RRR) (s : State) : Res := slotRun h s (scalarAtomic h o .add)

/-- AINC (R123). -/
def execAinc (h : Hdr) (o : RRR) (s : State) : Res := slotRun h s (scalarAtomic h o .inc)

/-- ACAS (R123). -/
def execAcas (h : Hdr) (o : RRR) (s : State) : Res := slotRun h s (scalarAtomic h o .cas)

/-- AXCHG (R123). -/
def execAxchg (h : Hdr) (o : RRR) (s : State) : Res := slotRun h s (scalarAtomic h o .xchg)

end Sys2Proof.Machine
end

