-- ==== Sys2Proof/Machine/Shake.lean ====
section
/-!
DEFINITION. SHAKE256 as FIPS 202 defines it (R67, R324, R341, R367 name it; log 7).
-/

namespace Sys2Proof.Machine

/-- A Keccak state: 25 lanes, lane x + 5y. -/
abbrev Keccak := List (BitVec 64)

/-- A lane; 0 outside the state. -/
def lane (a : Keccak) (i : Nat) : BitVec 64 := a.getD i 0

/-- The rotation offsets of ρ, by lane. -/
def rhoOffsets : List Nat :=
  [0, 1, 62, 28, 27, 36, 44, 6, 55, 20, 3, 10, 43, 25, 39, 41, 45, 15, 21, 8, 18, 2, 61, 56, 14]

/-- The round constants of ι. -/
def iotaConstants : List (BitVec 64) :=
  [0x0000000000000001, 0x0000000000008082, 0x800000000000808A, 0x8000000080008000, 0x000000000000808B,
   0x0000000080000001, 0x8000000080008081, 0x8000000000008009, 0x000000000000008A, 0x0000000000000088,
   0x0000000080008009, 0x000000008000000A] ++
  [0x000000008000808B, 0x800000000000008B, 0x8000000000008089, 0x8000000000008003, 0x8000000000008002,
   0x8000000000000080, 0x000000000000800A, 0x800000008000000A, 0x8000000080008081, 0x8000000000008080,
   0x0000000080000001, 0x8000000080008008]

/-- θ: each lane takes the parities of two columns. -/
def theta (a : Keccak) : Keccak :=
  let c := (List.range 5).map fun x => lane a x ^^^ lane a (x + 5) ^^^ lane a (x + 10) ^^^ lane a (x + 15) ^^^ lane a (x + 20)
  let d := (List.range 5).map fun x => c.getD ((x + 4) % 5) 0 ^^^ (c.getD ((x + 1) % 5) 0).rotateLeft 1
  (List.range 25).map fun i => lane a i ^^^ d.getD (i % 5) 0

/-- ρ and π: lane (y, 2x + 3y) takes lane (x, y) rotated. -/
def rhoPi (a : Keccak) : Keccak :=
  let b := (List.range 25).map fun i => (lane a i).rotateLeft (rhoOffsets.getD i 0)
  (List.range 25).map fun i =>
    let x := i % 5
    let y := i / 5
    lane b ((x + 3 * y) % 5 + 5 * x)

/-- χ and ι. -/
def chiIota (rc : BitVec 64) (b : Keccak) : Keccak :=
  (List.range 25).map fun i =>
    let y := i / 5
    let v := lane b i ^^^ (~~~(lane b ((i % 5 + 1) % 5 + 5 * y)) &&& lane b ((i % 5 + 2) % 5 + 5 * y))
    if i = 0 then v ^^^ rc else v

/-- The permutation Keccak-f[1600]. -/
def keccakF (a : Keccak) : Keccak := iotaConstants.foldl (fun a rc => chiIota rc (rhoPi (theta a))) a

/-- A block of 136 bytes taken into the state. -/
def absorb (a : Keccak) (block : List Byte) : Keccak :=
  keccakF ((List.range 25).map fun i =>
    lane a i ^^^ BitVec.ofNat 64 ((List.range 8).foldl (fun n j => n + (block.getD (8 * i + j) 0).toNat * 256 ^ j) 0))

/-- The message padded for SHAKE256 to whole blocks. -/
def shakePad (m : List Byte) : List Byte :=
  let r := 136 - m.length % 136
  if r = 1 then m ++ [0x9F] else m ++ [0x1F] ++ List.replicate (r - 2) 0 ++ [0x80]

/-- All blocks of a padded message absorbed. -/
def absorbAll : Nat → Keccak → List Byte → Keccak
  | 0, a, _ => a
  | n + 1, a, m => absorbAll n (absorb a (m.take 136)) (m.drop 136)

/-- The bytes of the first 17 lanes. -/
def rateBytes (a : Keccak) : List Byte :=
  (List.range 136).map fun i => (lane a (i / 8)).extractLsb' (8 * (i % 8)) 8

/-- Output blocks. -/
def squeeze : Nat → Keccak → List Byte
  | 0, _ => []
  | n + 1, a => rateBytes a ++ squeeze n (keccakF a)

/-- n bytes of SHAKE256 output. -/
def shake256 (m : List Byte) (n : Nat) : List Byte :=
  let p := shakePad m
  (squeeze ((n + 135) / 136) (absorbAll (p.length / 136) (List.replicate 25 0) p)).take n

end Sys2Proof.Machine
end

