-- ==== Sys2Proof/Machine/Control.lean ====
section
/-!
DEFINITION. Control and system instructions as they issue (05 R125–R139): branches, LOOP, waits, FENCE, DRAIN, GUARD,
EXIT, EXITS, TRAP, RETT, RDSR, WRSR.
-/

namespace Sys2Proof.Machine

/-- The bytes of the code segment of a context's program; the sequencer fetches from it (R20, R51). -/
def State.codeTarget (s : State) (off : Int) : Word := wordOfInt (sx s.issue.pc + 8 * off)

/-- A taken branch: the target group issues in the step after (R125). -/
def State.branchTo (s : State) (t : Word) : State := { s with issue := { s.issue with branch := some t } }

/-- BR (R125). -/
def execBr (h : Hdr) (o : Branch) (s : State) : Res := slotRun h s fun s => s.branchTo (s.codeTarget o.value)

/-- BRC: branch if the condition holds on s[x], s[y] (R125, Table 3-3). -/
def execBrc (h : Hdr) (o : Branch) (s : State) : Res :=
  slotRun h s fun s =>
    if intCond (o.fn.toNat % 8) (s.s o.x) (s.s o.y) then s.branchTo (s.codeTarget o.value) else s

/-- CALL: branch, and s[x] takes the offset of the group after this one (R125). -/
def execCall (h : Hdr) (o : Branch) (s : State) : Res :=
  slotRun h s fun s =>
    (s.put h 1 (.s o.x.toNat (s.issue.pc + BitVec.ofNat 64 (8 * s.issue.size)))).branchTo (s.codeTarget o.value)

/-- The words of the code segment of a program in an image, and its entry offset; found by the segment table (R68). -/
def segments (img : List Byte) : List (Nat × Nat × Nat × Nat) :=
  let nseg := natOfBytes ((img.drop 8).take 2)
  (List.range nseg).map fun i =>
    let e := (img.drop (64 + 16 * i)).take 16
    (natOfBytes (e.take 1), natOfBytes ((e.drop 1).take 1), natOfBytes ((e.drop 4).take 4), natOfBytes ((e.drop 8).take 8))

/-- The bytes of the first segment of a kind that belongs to a program. -/
def segmentOf (img : List Byte) (kind prog : Nat) : List Byte :=
  match (segments img).find? fun g => g.1 == kind && g.2.1 == prog with
  | some g => (img.drop g.2.2.1).take g.2.2.2
  | none => []

/-- The bytes of every segment of a kind that belongs to a program, in segment-table order. -/
def segmentsOf (img : List Byte) (kind prog : Nat) : List (List Byte) :=
  ((segments img).filter fun g => g.1 == kind && g.2.1 == prog).map fun g => (img.drop g.2.2.1).take g.2.2.2

/-- Little-endian 64-bit words of bytes. -/
def wordsOfBytes : Nat → List Byte → List Word
  | 0, _ => []
  | n + 1, bs => BitVec.ofNat 64 (natOfBytes (bs.take 8)) :: wordsOfBytes n (bs.drop 8)

/-- The code words of a program of an image (R51). -/
def codeWords (img : List Byte) (prog : Nat) : List Word :=
  let bs := segmentOf img 1 prog
  wordsOfBytes (bs.length / 8) bs

/-- The sealed image with a handle. -/
def State.image? (s : State) (h : Nat) : Option Image := s.images.find? (·.handle == h)

/-- The code words of a context's program. -/
def State.code (s : State) (d c : Nat) : List Word :=
  match s.image? (s.ctx d c).image with
  | some i => codeWords i.bytes (s.ctx d c).prog
  | none => []

/-- The groups of a code segment with their offsets in words, in order (R51). -/
def groupsFrom : Nat → Nat → List Word → List (Nat × Group)
  | 0, _, _ => []
  | _, _, [] => []
  | n + 1, off, ws =>
    match decodeGroup ws with
    | none => []
    | some g => (off, g) :: groupsFrom n (off + g.size) (ws.drop g.size)

/-- The groups of a code segment. -/
def groupsOf (ws : List Word) : List (Nat × Group) := groupsFrom ws.length 0 ws

/-- A byte offset is a group start of a code segment (R20, R126). -/
def isGroupStart (ws : List Word) (off : Nat) : Bool := off % 8 == 0 && (groupsOf ws).any fun g => g.1 * 8 == off

/-- RET and JMPI: the PC takes s[x]; a target that is no group start faults (R126). -/
def indirectBranch (h : Hdr) (o : Branch) (s : State) : State :=
  let t := s.s o.x
  if isGroupStart (s.code s.issue.die s.issue.ctx) t.toNat then s.branchTo t
  else s.raise h.cls.toNat Cause.branchTarget t.toNat

/-- RET (R126). -/
def execRet (h : Hdr) (o : Branch) (s : State) : Res := slotRun h s (indirectBranch h o)

/-- JMPI (R126). -/
def execJmpi (h : Hdr) (o : Branch) (s : State) : Res := slotRun h s (indirectBranch h o)

/-- The stage predicate that LOOP writes to p8 of the eight clusters, under the new VRB (R127). -/
def State.loopStage (s : State) (h : Hdr) (vrb : BitVec 5) (stage : PReg) : State :=
  (List.range 8).foldl (fun s c => s.emit 0 h.cls.toNat (.p c (physP vrb 8) stage (BitVec.allOnes 128))) s

/-- LOOP (R127): where LC is not 0 it is decremented and the branch taken; on a V-die VRB rotates and p8 takes the stage
value, all at the end of the issue step. -/
def execLoop (h : Hdr) (o : Branch) (s : State) : Res :=
  slotRun h s fun s =>
    let a := s.arch
    if a.lc = 0 then s
    else
      let lc := a.lc - 1
      let s := (s.put h 0 (.lc lc)).branchTo (s.codeTarget o.value)
      match kindOf s.issue.die with
      | .m => s
      | .v =>
        let vrb := a.vrb - 1
        let stage : PReg := if a.ec.toNat ≤ lc.toNat then BitVec.allOnes 128 else 0
        (s.put h 0 (.vrb vrb)).loopStage h vrb stage

/-- WAITT: holds until the gang step reaches s[x] + IMM, comparing unsigned (R129). -/
def execWaitt (h : Hdr) (o : Sys) (s : State) : Res :=
  slotRun h s fun s => if (s.s o.x + BitVec.ofNat 64 (o.value h)).toNat ≤ s.gangStep then s else s.holdGroup

/-- A value satisfies a WAITB: zero for IMM[0] = 0, nonzero for 1 (R130). -/
def waitSatisfied (nonzero : Bool) (v : Nat) : Bool := (v != 0) == nonzero

/-- TRAP n (R137): the software trap. -/
def execTrap (h : Hdr) (o : Sys) (s : State) : Res :=
  slotRun h s fun s => s.raise h.cls.toNat Cause.software (o.value h % 2 ^ 16)

/-- EXIT (R135). -/
def execExit (h : Hdr) (_o : Sys) (s : State) : Res := slotRun h s fun s => s.put h 0 (.exit none)

/-- EXITS n (R136). -/
def execExits (h : Hdr) (o : Sys) (s : State) : Res :=
  slotRun h s fun s => s.put h 0 (.exit (some (o.value h % 2 ^ 16)))

/-- RETT k (R138). -/
def execRett (h : Hdr) (o : Sys) (s : State) : Res := slotRun h s fun s => s.put h 0 (.rett (o.value h))

/-- RDSR (R139): the value at the issue step lands after 1. -/
def execRdsr (h : Hdr) (o : Sys) (s : State) : Res :=
  slotRun h s fun s => s.put h 1 (.s o.d.toNat (s.readSr o.sr.toNat))

/-- WRSR (R139): s[x] is written at the end of the issue step. -/
def execWrsr (h : Hdr) (o : Sys) (s : State) : Res :=
  slotRun h s fun s => s.put h 0 (.sysreg o.sr.toNat (s.s o.x))

/-- GUARD enter (R134). Only an FG context changes its mode: a BG context stays guarded, a handler exposed (R39). -/
def execGuardEnter (h : Hdr) (_o : Sys) (s : State) : Res :=
  slotRun h s fun s => if s.issue.ctx = 0 then s.put h 0 (.guarded true) else s

/-- GUARD leave (R134), of an FG context. -/
def execGuardLeave (h : Hdr) (_o : Sys) (s : State) : Res :=
  slotRun h s fun s => if s.issue.ctx = 0 then s.put h 0 (.guarded false) else s

end Sys2Proof.Machine
end

