-- ==== Sys2Proof/Machine/Network.lean ====
section
/-!
DEFINITION. Plates, the three networks, the timed network frames and the Tracer as they issue (07 R176–R188).
-/

namespace Sys2Proof.Machine

/-! ### Plates (R178, R181) -/

/-- What a network access needs of a plate: the number of columns, enables, copy selects, row offsets, the column that a
position receives in a read and the position that a column receives in a write. -/
structure Route where
  ncol : Nat
  nrow : Nat
  cen : Nat → Bool
  pen : Nat → Bool
  sel : Nat → Nat
  row : Nat → Nat
  colOf : Nat → Nat
  posOf : Nat → Nat
  qmask : Nat

/-- The address bit that stage s of a network of 2^m ports switches (R181). -/
def stageBit (m s : Nat) : Nat := if s ≤ m - 1 then m - 1 - s else s - (m - 1)

/-- The switch that position p meets when bit b is switched (R181). -/
def switchIndex (b p : Nat) : Nat := (p >>> (b + 1)) * 2 ^ b + p % 2 ^ b

/-- One stage moved back through: the position that the value at p stood at before it. -/
def throughStage (m : Nat) (sw : Nat → Nat → Bool) (p s : Nat) : Nat :=
  let b := stageBit m s
  if sw s (switchIndex b p) then Nat.xor p (2 ^ b) else p

/-- The column whose value a position holds after stages 0 to 2m − 2 (R182, read). -/
def traceRead (m : Nat) (sw : Nat → Nat → Bool) (p : Nat) : Nat :=
  (List.range (2 * m - 1)).reverse.foldl (throughStage m sw) p

/-- The position whose value a column holds after stages 2m − 2 down to 0 (R182, write). -/
def traceWrite (m : Nat) (sw : Nat → Nat → Bool) (c : Nat) : Nat :=
  (List.range (2 * m - 1)).foldl (throughStage m sw) c

/-- A field of a packed array in a plate (R178). -/
def plateField (p : Plate4) (base width i : Nat) : Nat := (p.toNat >>> (base * 8 + width * i)) % 2 ^ width

/-- TYPE and second byte of a plate. -/
def plateType (p : Plate4) : Nat := plateField p 0 8 0
def plateByte1 (p : Plate4) : Nat := plateField p 0 8 1

/-- An image plate of a V-die (Table 7-2) or an M-die (Table 7-3). -/
def plateRoute (k : DieKind) (p : Plate4) : Route :=
  match k with
  | .v =>
    let sw := fun s i => plateField p 80 1 (128 * s + i) == 1
    { ncol := 256, nrow := 98304, cen := fun c => plateField p 16 1 c == 1, pen := fun q => plateField p 48 1 q == 1,
      sel := fun q => 32 * (q / 32) + plateField p 320 5 q, row := plateField p 480 17,
      colOf := traceRead 8 sw, posOf := traceWrite 8 sw, qmask := 0 }
  | .m =>
    let sw := fun s i => plateField p 272 1 (512 * s + i) == 1
    { ncol := 1024, nrow := 16384, cen := fun c => plateField p 16 1 c == 1, pen := fun q => plateField p 144 1 q == 1,
      sel := fun q => q, row := plateField p 1488 14,
      colOf := traceRead 10 sw, posOf := traceWrite 10 sw, qmask := plateByte1 p % 16 }

/-- A live plate (R187): enabled columns are routed to their positions; what the other columns reach is not observable. -/
def liveRoute (l : LivePlate) : Route :=
  { ncol := 256, nrow := 98304, cen := l.cen.getLsbD, pen := l.pen.getLsbD,
    sel := fun q => 32 * (q / 32) + l.sel.getD q 0, row := fun c => l.row.getD c 0,
    colOf := fun p => match l.pos.find? fun x => x.2 == p with | some x => x.1 | none => 256,
    posOf := fun c => match l.pos.find? fun x => x.1 == c with | some x => x.2 | none => 256,
    qmask := 0 }

/-- A plate of a context by the image's number (R180). -/
def Ctx.plate? (x : Ctx) (n : Nat) : Option Plate4 := (x.plates.find? fun p => p.1 == n).map (·.2)

/-- The route of an image plate for the executing context. -/
def State.route (s : State) (n : Nat) : Route := plateRoute (kindOf s.issue.die) ((s.me.plate? n).getD 0)

/-- The route of a live plate of the executing context. -/
def State.liveRoute (s : State) (n : Nat) : Route := Machine.liveRoute (tget s.arch.lp n default)

/-! ### Rows and checks (R183) -/

/-- The row of a column. -/
def Route.rowOf (r : Route) (base : Int) (c : Nat) : Int := base + r.row c

/-- The linear address of a column's word (R176). -/
def Route.addr (r : Route) (base : Int) (c : Nat) : Nat := (4 * (r.rowOf base c * r.ncol + c)).toNat

/-- A column's row is in the bank and its word in the window. -/
def Route.columnOk (r : Route) (a : Arch) (base : Int) (c : Nat) : Bool :=
  0 ≤ r.rowOf base c && r.rowOf base c < r.nrow && a.inWindow (r.addr base c) 4

/-- The enabled columns. -/
def Route.columns (r : Route) : List Nat := (List.range r.ncol).filter r.cen

/-- The first enabled column that breaks R183. -/
def Route.badColumn (r : Route) (a : Arch) (base : Int) : Option Nat :=
  r.columns.find? fun c => !r.columnOk a base c

/-- On an M-die the plate's quarters are owned (R179). -/
def State.plateOwned (s : State) (r : Route) : List (Nat × Nat) :=
  if r.qmask &&& s.me.groups.toNat ≠ r.qmask then [(Cause.ownership, s.issue.die)] else []

/-- Every enabled column is in bounds (R183). -/
def State.columnFault (s : State) (r : Route) (base : Int) : List (Nat × Nat) :=
  match r.badColumn s.arch base with
  | some c => [(Cause.bankBounds, (wordOfInt (4 * (r.rowOf base c * r.ncol + c))).toNat)]
  | none => []

/-- The failed checks of a network access at issue. -/
def State.netCheck (s : State) (r : Route) (base : Int) : List (Nat × Nat) := s.plateOwned r ++ s.columnFault r base

/-- A timed network word of a BG context (R185). -/
def State.bgFault (s : State) : List (Nat × Nat) := if s.issue.ctx = 1 then [(Cause.ownership, s.issue.die)] else []

/-! ### Reads and writes (R182) -/

/-- The word that a present port receives in a read; `none` for a port that is not present. -/
def State.netPort (s : State) (r : Route) (base : Int) (p : Nat) : Option (BitVec 32) :=
  if r.pen p then
    let c := r.colOf (r.sel p)
    some (if r.cen c then s.bankWord s.issue.die s.issue.ctx true s.issue.vj (r.addr base c) else 0)
  else none

/-- The bytes that a read delivers, at 4p + j for byte j of port p. -/
def State.netRead (s : State) (r : Route) (base : Int) : List (Nat × Byte) :=
  (List.range r.ncol).flatMap fun p =>
    match s.netPort r base p with
    | some w => placeBytes (4 * p) (bytesOfNat 4 w.toNat)
    | none => []

/-- The bank bytes that a write places: `z` gives byte j of port p, where it is present and selected. -/
def netWrite (r : Route) (base : Int) (z : Nat → Nat → Option Byte) : List (Nat × Byte) :=
  r.columns.flatMap fun c =>
    let p := r.posOf c
    if r.pen p then
      (List.range 4).filterMap fun j => (z (r.sel p) j).map fun b => (r.addr base c + j, b)
    else []

/-- A byte of a list of placed bytes. -/
def byteAt (bs : List (Nat × Byte)) (a : Nat) : Option Byte := (bs.find? fun p => p.1 == a).map (·.2)

/-- sx(s[b]) + ROFF (R183). -/
def State.netBase (s : State) (b : BitVec 6) (roff : Int) : Int := sx (s.s b) + roff

/-- The part of placed bytes that a cluster receives, as a register and its byte mask (R184). -/
def clusterPart (bs : List (Nat × Byte)) (c : Nat) : VReg × PReg :=
  let mine := bs.filter fun p => 128 * c ≤ p.1 && p.1 < 128 * (c + 1)
  (BitVec.ofNat 1024 (mine.foldl (fun n p => n + p.2.toNat * 256 ^ (p.1 - 128 * c)) 0),
   BitVec.ofNat 128 (mine.foldl (fun n p => n + 2 ^ (p.1 - 128 * c)) 0))

/-- NRD and NRDL: each cluster receives its ports' words; ports not present keep their bytes (Table 7-4). -/
def netLoad (h : Hdr) (o : Net) (r : Route) (s : State) : State :=
  let base := s.netBase o.b (o.value h)
  s.checked h (s.netCheck r base) fun s =>
    let bs := s.netRead r base
    (List.range 8).foldl (fun s c =>
      let x := clusterPart bs c
      if x.2 = 0 then s else s.put h 8 (.v c (physV s.arch.vrb o.d.toNat) x.1 x.2)) s.afterRead

/-- NWR (V-die) and NWRL: a byte is written only where pn's bit in its own cluster is 1 (Table 7-4). -/
def netStore (h : Hdr) (o : Net) (r : Route) (s : State) : State :=
  let base := s.netBase o.b (o.value h)
  s.checked h (s.netCheck r base) fun s =>
    let a := s.arch
    let z := fun q j =>
      let i := 4 * (q % 32) + j
      if (a.preg (q / 32) o.sub.toNat).getLsbD i then some ((a.vreg (q / 32) o.d).extractLsb' (8 * i) 8) else none
    s.put h 6 (.bank true (netWrite r base z))

/-- NRD (R184). -/
def execNrd (h : Hdr) (o : Net) (s : State) : Res := slotRun h s fun s => netLoad h o (s.route o.pl.toNat) s

/-- NRDL (R184). -/
def execNrdl (h : Hdr) (o : Net) (s : State) : Res :=
  slotRun h s fun s => netLoad h o (s.liveRoute (o.pl.toNat % 8)) s

/-- NWR on a V-die (R184). -/
def execNwr (h : Hdr) (o : Net) (s : State) : Res := slotRun h s fun s => netStore h o (s.route o.pl.toNat) s

/-- NWRL (R184). -/
def execNwrl (h : Hdr) (o : Net) (s : State) : Res :=
  slotRun h s fun s => netStore h o (s.liveRoute (o.pl.toNat % 8)) s

/-- NWR as tile companion on an M-die (R222): it names the plate and base of the group's MST or MQST, which makes the
writes; the slot itself has no further effect. -/
def execNwrTile (_h : Hdr) (_o : Net) (s : State) : Res := .next s

/-- NCOPY: write(plate + 1, s[d] + ROFF, read(plate, s[b] + ROFF)) (Table 7-4). -/
def execNcopy (h : Hdr) (o : Net) (s : State) : Res :=
  slotRun h s fun s =>
    let r := s.route o.pl.toNat
    let w := s.route (o.pl.toNat + 1)
    let rb := s.netBase o.b (o.value h)
    let wb := s.netBase o.d (o.value h)
    s.checked h (s.netCheck r rb ++ s.netCheck w wb) fun s =>
      let bs := s.netRead r rb
      s.afterRead.put h 10 (.bank true (netWrite w wb fun q j => byteAt bs (4 * q + j)))

/-- NFILL: every enabled column's word ← s[d][31:0]; PEN and SEL ignored (Table 7-4). -/
def execNfill (h : Hdr) (o : Net) (s : State) : Res :=
  slotRun h s fun s =>
    let r := s.route o.pl.toNat
    let base := s.netBase o.b (o.value h)
    s.checked h (s.netCheck r base) fun s =>
      let v := (s.s o.d).toNat % 2 ^ 32
      s.put h 6 (.bank true (r.columns.flatMap fun c => placeBytes (r.addr base c) (bytesOfNat 4 v)))

/-! ### Timed network frames (R185) -/

/-- Row and column of a die in the package (Table 7-5, R233): V0 M0 M1 V1 above V2 M2 M3 V3. -/
def dieRow (d : Nat) : Nat := match d with | 0 | 1 | 4 | 5 => 0 | _ => 1
def dieCol (d : Nat) : Nat := match d with | 0 | 2 => 0 | 4 | 6 => 1 | 5 | 7 => 2 | _ => 3

/-- The compute die at a row and column. -/
def dieAt (r c : Nat) : Nat :=
  match r, c with
  | 0, 0 => 0 | 0, 1 => 4 | 0, 2 => 5 | 0, _ => 1
  | _, 0 => 2 | _, 1 => 6 | _, 2 => 7 | _, _ => 3

/-- The compute die across an edge: 0 west, 1 east, 2 vertical; none for a code that names no edge or the port-die edge
(Table 7-5). -/
def neighbour (d code : Nat) : Option Nat :=
  match code with
  | 0 => if dieCol d = 0 then none else some (dieAt (dieRow d) (dieCol d - 1))
  | 1 => if dieCol d = 3 then none else some (dieAt (dieRow d) (dieCol d + 1))
  | 2 => some (dieAt (1 - dieRow d) (dieCol d))
  | _ => none

/-- The edge on which the far die receives. -/
def farEdge (code : Nat) : Nat := match code with | 0 => 1 | 1 => 0 | c => c

/-- The frame on an edge that arrives in this count (R185). -/
def State.arriving (s : State) (edge : Nat) : Option NFrame :=
  s.myDie.nframes.find? fun f => f.edge == edge && f.arrive == s.bel

/-- Ports that a die takes of a frame: a V-die keeps ports 0 to 255 (R185). -/
def frameBytes (d : Nat) (bs : List (Nat × Byte)) : List (Nat × Byte) :=
  match kindOf d with
  | .v => bs.filter fun p => p.1 < 1024
  | .m => bs

/-- NSEND: the bank words are read at t; the frame arrives at the adjacent die at t + 20 (R185). -/
def execNsend (h : Hdr) (o : Net) (s : State) : Res :=
  slotRun h s fun s =>
    let e := (s.s o.d).toNat
    let r := s.route o.pl.toNat
    let base := s.netBase o.b (o.value h)
    let edge := if 4 ≤ e ∨ (neighbour s.issue.die e).isNone then [(Cause.edgeAbsent, e)] else []
    s.checked h (s.bgFault ++ s.netCheck r base ++ edge) fun s => s.afterRead.put h 0 (.nframe e 20 (s.netRead r base))

/-- TRAPINFO of a late network frame: the source die code (Table 12-3). -/
def lateInfo (d edge : Nat) : Nat := (neighbour d edge).getD 0

/-- NRECV: takes the frame that arrives now and writes it after 6 (R185). -/
def execNrecv (h : Hdr) (o : Net) (s : State) : Res :=
  slotRun h s fun s =>
    let e := (s.s o.d).toNat
    let r := s.route o.pl.toNat
    let base := s.netBase o.b (o.value h)
    let edge := if e % 4 ≠ 0 ∨ 16 ≤ e ∨ (neighbour s.issue.die (e / 4)).isNone then [(Cause.edgeAbsent, e)] else []
    s.checked h (s.bgFault ++ s.netCheck r base ++ edge) fun s => match s.arriving (e / 4) with
      | none => s.raise h.cls.toNat Cause.lateArrival (lateInfo s.issue.die (e / 4))
      | some f =>
        let bs := frameBytes s.issue.die f.bytes
        (s.put h 0 (.ntake (e / 4))).put h 6 (.bank true (netWrite r base fun q j => byteAt bs (4 * q + j)))

/-- The frame after a plate's stages: port p receives what stood at the position that the stages bring to it (R185). -/
def passThrough (r : Route) (bs : List (Nat × Byte)) : List (Nat × Byte) :=
  (List.range r.ncol).flatMap fun p =>
    (List.range 4).filterMap fun j => (byteAt bs (4 * r.colOf p + j)).map fun b => (4 * p + j, b)

/-- NPASS: forwards the frame that arrives now through the plate's stages; it arrives at the next die 22 counts later
(R185). -/
def execNpass (h : Hdr) (o : Net) (s : State) : Res :=
  slotRun h s fun s =>
    let e := (s.s o.d).toNat
    let d := s.issue.die
    let r := s.route o.pl.toNat
    let edge := if 16 ≤ e ∨ e % 4 = e / 4 ∨ (neighbour d (e / 4)).isNone ∨ (neighbour d (e % 4)).isNone then
      [(Cause.edgeAbsent, e)] else []
    s.checked h (s.bgFault ++ s.plateOwned r ++ edge) fun s => match s.arriving (e / 4) with
      | none => s.raise h.cls.toNat Cause.lateArrival (lateInfo d (e / 4))
      | some f =>
        (s.put h 0 (.ntake (e / 4))).put h 0 (.nframe (e % 4) 22 (passThrough r (frameBytes d f.bytes)))

/-! ### The Tracer (R186–R188) -/

/-- A column that a wave carries: row offset, cluster and position (R187). -/
structure WaveCol where
  col : Nat
  row : Nat
  clus : Nat
  pos : Nat
  deriving DecidableEq, Repr

/-- A wave: its columns, and the select of each present port. -/
structure Wave where
  cols : List WaveCol
  ports : List (Nat × Nat)
  deriving DecidableEq, Repr

def Wave.empty : Wave := { cols := [], ports := [] }

/-- A word fits a wave: its column is free or already carries its row for its cluster (R187). -/
def Wave.fits (w : Wave) (q word : Nat) : Bool :=
  match w.cols.find? fun c => c.col == word % 256 with
  | none => true
  | some c => c.row == word / 256 && c.clus == q

/-- A word placed at a port of a wave (R187). -/
def Wave.place (w : Wave) (q word p : Nat) : Wave :=
  match w.cols.find? fun c => c.col == word % 256 with
  | none => { cols := w.cols ++ [{ col := word % 256, row := word / 256, clus := q, pos := p }],
              ports := w.ports ++ [(p, p % 32)] }
  | some c => { w with ports := w.ports ++ [(p, c.pos % 32)] }

/-- Words and ports of index g (R186). -/
def traceWords (w64 : Bool) (g u : Nat) : List (Nat × Nat) :=
  if w64 then [(2 * u, 2 * g), (2 * u + 1, 2 * g + 1)] else [(u, 2 * g)]

/-- The lowest of the waves that all words fit, with them placed; `none` where no wave fits (R187). -/
def placeInWaves (q : Nat) (ws : List (Nat × Nat)) : List Wave → Option (List Wave)
  | [] => none
  | w :: rest =>
    if ws.all fun x => w.fits q x.1 then some (ws.foldl (fun w x => w.place q x.1 x.2) w :: rest)
    else (placeInWaves q ws rest).map fun r => w :: r

/-- The procedure of R187 over the requested indices: the waves and the remainder. -/
def traceWaves (w64 : Bool) (u : Nat → Nat) : List Nat → List Wave → List Wave × List Nat
  | [], ws => (ws, [])
  | g :: gs, ws =>
    let words := traceWords w64 g (u g)
    let tooFar := words.any fun x => 98304 ≤ x.1 / 256
    match (if tooFar then none else placeInWaves (g / 16) words ws) with
    | some ws' => traceWaves w64 u gs ws'
    | none => let r := traceWaves w64 u gs ws; (r.1, g :: r.2)

/-- What the outer stages of a network of 2^m ports settle for a permutation: which inputs go to the lower half. Each loop starts at
an input that is free, sends its partner the other way, and goes on with the input whose output shares a switch with the
partner's. -/
def routeLoop (half : Nat) (perm inv : Array Nat) : Nat → Nat → Nat × Nat → Nat × Nat
  | 0, _, k => k
  | n + 1, x, k =>
    if bit x k.1 then k
    else
      let y := Nat.xor x half
      routeLoop half perm inv n (inv.getD (Nat.xor (perm.getD y 0) half) 0) (k.1 + 2 ^ x + 2 ^ y, k.2 + 2 ^ y)

/-- Switch settings, one number for each stage, that bring input i of a network of 2^m ports to position perm i: the outer stages,
and the two halves between them. -/
def routeStages : Nat → List Nat → List Nat
  | 0, _ => []
  | 1, perm => [b2n (perm.headD 0 == 1)]
  | m + 2, perm =>
    let half := 2 ^ (m + 1)
    let p := perm.toArray
    let inv := ((List.range (2 * half)).map fun y => (perm.idxOf? y).getD 0).toArray
    let low := ((List.range half).foldl (fun k x => routeLoop half p inv half x k) (0, 0)).2
    let part := fun (h : Bool) => routeStages (m + 1) ((List.range half).map fun i =>
      (p.getD (if bit i low == h then i else i + half) 0) % half)
    let ends := fun (f : Nat → Bool) => ((List.range half).map fun i => b2n (f i) * 2 ^ i).sum
    [ends fun i => bit i low] ++ ((part false).zip (part true)).map (fun q => q.1 + q.2 * 2 ^ (half / 2)) ++
      [ends fun i => bit (inv.getD i 0) low]

/-- A placement of some inputs made a permutation: the others take the positions left, in ascending order. -/
def fullPlacement (n : Nat) (pos : List (Nat × Nat)) : List Nat :=
  let left := (List.range n).filter fun p => !pos.any fun x => x.2 == p
  ((List.range n).foldl (fun (r : List Nat × List Nat) c => match pos.find? fun x => x.1 == c with
    | some x => (r.1 ++ [x.2], r.2)
    | none => (r.1 ++ [r.2.headD 0], r.2.tail)) ([], left)).1

/-- The 1,920 switch bits of a V-die plate route every placed column to its position (R181, R187). -/
def routes (pos : List (Nat × Nat)) (sw : Nat) : Bool :=
  pos.all fun x => traceRead 8 (fun s i => bit (128 * s + i) sw) x.2 == x.1

/-- Switch bits of a live plate: a free setting, if it routes every enabled column to its position, else one that does. Which
of the settings that do is not observable (R187, log 4). -/
def switchBits (pos : List (Nat × Nat)) (free : Nat) : Nat :=
  if routes pos free then free else packBits 128 (routeStages 8 (fullPlacement 256 pos))
where
  /-- Fields of one width, the first lowest. -/
  packBits (w : Nat) (xs : List Nat) : Nat := xs.foldr (fun x n => x + 2 ^ w * n) 0

/-- The live plate of a wave; a wave without columns gives the zero plate (R187). -/
def Wave.plate (w : Wave) : LivePlate :=
  if w.cols.isEmpty then LivePlate.zero
  else
    { cen := BitVec.ofNat 256 (w.cols.foldl (fun n c => n + 2 ^ c.col) 0),
      pen := BitVec.ofNat 256 (w.ports.foldl (fun n p => n + 2 ^ p.1) 0),
      sel := (List.range 256).map fun p => match w.ports.find? fun x => x.1 == p with | some x => x.2 | none => 0,
      row := (List.range 256).map fun c => match w.cols.find? fun x => x.col == c with | some x => x.row | none => 0,
      pos := w.cols.map fun c => (c.col, c.pos) }

/-- Waves used: 1 + the highest used, 0 when nothing was placed (Table 7-6). -/
def wavesUsed (ws : List Wave) : Nat := (ws.reverse.dropWhile fun w => w.cols.isEmpty).length

/-- TRACE (R186–R188): wave plates, result word, q7 and the remainder predicate land after 24. -/
def execTrace (h : Hdr) (o : Net) (s : State) : Res :=
  slotRun h s fun s =>
    let a := s.arch
    let w64 := o.value h == 1
    let pn := o.sub.toNat
    let lane := fun g => elemOf (a.vreg (g / 16) o.d) 64 (g % 16)
    let wanted := (List.range 128).filter fun g => (a.preg (g / 16) pn).getLsbD (8 * (g % 16))
    let r := traceWaves w64 (fun g => lane g % 2 ^ 32) wanted [Wave.empty, Wave.empty, Wave.empty, Wave.empty]
    let rem := r.2
    let word := wavesUsed r.1 + (wanted.length - rem.length) * 2 ^ 8 + rem.length * 2 ^ 16
    let s := (List.range 4).foldl (fun s k => s.put h 24 (.lp (o.pl.toNat + k) (r.1.getD k Wave.empty).plate)) s
    let s := (s.put h 24 (.s o.b.toNat (BitVec.ofNat 64 word))).put h 24 (.q 7 (!rem.isEmpty))
    if pn = 0 then s
    else (List.range 8).foldl (fun s c =>
      s.put h 24 (.p c (physP a.vrb pn) (predOf 64 fun e => rem.contains (16 * c + e)) (BitVec.allOnes 128))) s

end Sys2Proof.Machine
end

