-- ==== Sys2Proof/Machine/Translate.lean ====
section
/-!
DEFINITION. Homes of translated memory: stacks with remapped, lost and poisoned places, bank walls as other agents reach
them, the table walk, the translation slices, domain addresses, distances and scalar burst slots (R120, R230, R231, R236,
R306, R327–R329, R354, R364).
-/

namespace Sys2Proof.Machine

/-! ### Stacks (R1, R236, R306) -/

/-- An address in the reserved region of stack 0 (R364). -/
def reservedPhys (stack off : Nat) : Bool := stack == 0 && 0xF00000000 ≤ off

/-- Where a stack address lies now: in the frame a remap entry names, or nowhere if its frame is lost (R306). -/
def State.placeOf (s : State) (stack off : Nat) : Except Nat (Nat × Nat) :=
  let f := off / 65536
  if s.lostFrames.contains (stack, f) then .error Cause.homeLost
  else match s.remap.find? fun r => r.1 == stack && r.2.1 == f with
    | some r => .ok (r.2.2.1, r.2.2.2 * 65536 + off % 65536)
    | none => .ok (stack, off)

/-- A stack's bytes. -/
def State.stack (s : State) (n : Nat) : Mem := tget s.hbm n []

/-- Change of a stack's bytes. -/
def State.modStack (s : State) (n : Nat) (f : Mem → Mem) : State := { s with hbm := tmod s.hbm n f }

/-- A granule of an access is poisoned (R236). -/
def State.poisoned (s : State) (stack off n : Nat) : Bool :=
  s.poison.any fun p => p.1 == stack && p.2 / 64 * 64 < off + n && off < p.2 / 64 * 64 + 64

/-- A read of n bytes at a home of the package: the little-endian value, or the fault of the access. Homes elsewhere are
not read here. A bank word that its context has not joined reads as the newest word: copy engines, remote agents, accesses by
domain address and BARARR see one of the two words that R268 allows, by choice (log 76). -/
def State.readHome (s : State) (h : Home) (n : Nat) : Except Nat Nat :=
  match h with
  | .stack k off =>
    match s.placeOf k off with
    | .error c => .error c
    | .ok p => if s.poisoned p.1 p.2 n then .error Cause.memoryUncorrectable else .ok (Mem.nat (s.stack p.1) p.2 n)
  | .bank d a => if s.offline.getLsbD d then .error Cause.homeLost else .ok (Mem.nat (s.die d).bank a n)
  | _ => .error Cause.addressRange

/-- The memory that a home lies in now, and its place there; none for a place that is lost. -/
def State.spot (s : State) (h : Home) : Option ((Nat × Nat) × Nat) :=
  match h with
  | .stack k x => match s.placeOf k x with
    | .ok p => some ((0, p.1), p.2)
    | .error _ => none
  | .bank k x => some ((1, k), x)
  | .remote k x => some ((2, k), x)
  | .host x => some ((3, 0), x)

/-- Two homes lie in one aligned block of n bytes. -/
def State.sameBlock (s : State) (n : Nat) (a b : Home) : Bool :=
  match s.spot a, s.spot b with
  | some u, some v => u.1 == v.1 && u.2 / n == v.2 / n
  | _, _ => false

/-- A write of bytes at a home of the package; a write of a whole granule ends its poison (R236), and a ring slot that has been
claimed holds its packet once written (R281). -/
def State.writeHome (s : State) (h : Home) (bs : List Byte) : State :=
  let s := if s.claimed.isEmpty then s else { s with claimed := s.claimed.filter fun g => !s.sameBlock 64 g h }
  match h with
  | .stack k off =>
    match s.placeOf k off with
    | .error _ => s
    | .ok p =>
      let s := s.modStack p.1 fun m => Mem.write m (placeBytes p.2 bs)
      { s with poison := s.poison.filter fun q => !(q.1 == p.1 && p.2 ≤ q.2 && q.2 + 64 ≤ p.2 + bs.length) }
  | .bank d a => s.modDie d fun x => x.writeBank none none (placeBytes a bs)
  | _ => s

/-- A masked write of at most 64 bytes from an aligned place: byte i where bit i of the mask is set. -/
def State.writeHomeMasked (s : State) (h : Home) (data : Nat) (mask : Nat) (n : Nat) : State :=
  if mask % 2 ^ n = 2 ^ n - 1 then s.writeHome h (bytesOfNat n data)
  else (List.range n).foldl (fun s i =>
    if bit i mask then
      match h with
      | .stack k off => s.writeHome (.stack k (off + i)) [BitVec.ofNat 8 (data >>> (8 * i))]
      | .bank d a => s.writeHome (.bank d (a + i)) [BitVec.ofNat 8 (data >>> (8 * i))]
      | _ => s
    else s) s

/-! ### Domain addresses (R354) -/

/-- A compute die is present: not harvested, not absent (R1, Table 14-4). -/
def State.diePresent (s : State) (d : Nat) : Bool := d < 8 && s.pres.getLsbD d

/-- The home that a domain address names. -/
def State.domainHome (s : State) (a : Nat) : Except Nat Home :=
  let pkg := bits 57 48 a
  let unit := bits 38 36 a
  let off := bits 35 0 a
  let bank := bit 47 a
  if bits 46 39 a ≠ 0 ∨ (bank ∧ bankSize unit ≤ off) then .error Cause.addressRange
  else if pkg = s.pkg.toNat then
    if bank then
      if !s.diePresent unit then .error Cause.addressRange
      else if s.offline.getLsbD unit then .error Cause.homeLost
      else .ok (.bank unit off)
    else if reservedPhys unit off then .error Cause.addressRange
    else match s.placeOf unit off with
      | .error c => .error c
      | .ok _ => .ok (.stack unit off)
  else if s.domain.contains pkg then .ok (.remote pkg a)
  else .error Cause.addressRange

/-! ### Tables (R327) -/

/-- The levels: lowest address bit indexed, index bits, page size of a leaf (0: none) (Table 12-6). -/
def tableLevels : List (Nat × Nat × Nat) := [(39, 18, 0), (30, 9, 2 ^ 30), (21, 9, 2 ^ 21), (16, 5, 2 ^ 16)]

/-- The walk from a table at a stack-physical address of the package (Tables 12-6 and 12-7). -/
def State.walkFrom (s : State) (asid va : Nat) : List (Nat × Nat × Nat) → Nat → Except Nat Leaf
  | [], _ => .error Cause.translation
  | (lo, w, page) :: ls, table =>
    let at_ := table + 8 * (va / 2 ^ lo % 2 ^ w)
    match s.readHome (.stack (bits 38 36 at_) (bits 35 0 at_)) 8 with
    | .error c => .error c
    | .ok e =>
      let tgt := bits 5 4 e
      let out := bits 57 16 e * 65536
      if !bit 0 e || bits 15 6 e != 0 || bits 63 58 e != 0 || tgt == 3 then .error Cause.translation
      else if bit 1 e then
        if page = 0 ∨ out % page ≠ 0 then .error Cause.translation
        else .ok { asid := asid, page := va / page * page, size := page, tgt := tgt, out := out, rd := bit 2 e, wr := bit 3 e }
      else if ls.isEmpty ∨ tgt ≠ 0 ∨ 2 ^ 39 ≤ out ∨ reservedPhys (bits 38 36 out) (bits 35 0 out) then
        .error Cause.translation
      else State.walkFrom s asid va ls out

/-- The root of an ASID; 0 where none is registered (R327). -/
def State.rootOf (s : State) (asid : Nat) : Nat :=
  match s.roots.find? fun r => r.1 == asid with
  | some r => r.2.toNat
  | none => 0

/-- The walk of an address under an ASID. -/
def State.walk (s : State) (asid va : Nat) : Except Nat Leaf :=
  let root := s.rootOf asid
  if root = 0 then .error Cause.translation else s.walkFrom asid va tableLevels root

/-- The home of an address within a leaf, with its permissions and outputs checked (R327). -/
def State.leafHome (s : State) (l : Leaf) (va : Nat) (rd wr : Bool) : Except Nat Home :=
  let a := l.out + va % l.size
  if (rd && !l.rd) || (wr && !l.wr) then .error Cause.protection
  else match l.tgt with
    | 0 =>
      if 2 ^ 39 ≤ a ∨ reservedPhys (bits 38 36 a) (bits 35 0 a) then .error Cause.addressRange
      else match s.placeOf (bits 38 36 a) (bits 35 0 a) with
        | .error c => .error c
        | .ok _ => .ok (.stack (bits 38 36 a) (bits 35 0 a))
    | 1 => s.domainHome a
    | _ => .ok (.host a)

/-- The leaf entry that a die's slices hold for an address (R328). -/
def State.sliceEntry (s : State) (d asid va : Nat) : Option Leaf :=
  (s.die d).slices.find? fun l => l.asid == asid && va / l.size * l.size == l.page

/-- A leaf entry taken into a die's four slices of 1,024 entries; the entry that it replaces is free (R328). -/
def State.fillSlice (s : State) (d : Nat) (l : Leaf) : State :=
  let old := (s.die d).slices
  if old.contains l then s
  else if old.length < 4096 then s.modDie d fun x => { x with slices := l :: x.slices }
  else
    let (k, s) := s.freeBelow old.length
    s.modDie d fun x => { x with slices := l :: x.slices.eraseIdx k }

/-- The outcome of a lookup in the slices. -/
inductive Lookup where
  | home (h : Home)
  | miss
  | fault (code : Nat)
  deriving DecidableEq, Repr

/-- The translation of an address by what the slices hold (R120, R327). -/
def State.lookup (s : State) (d asid va : Nat) (rd wr : Bool) : Lookup :=
  if 2 ^ 57 ≤ va then .fault Cause.addressRange
  else match s.sliceEntry d asid va with
    | none => .miss
    | some l => match s.leafHome l va rd wr with
      | .ok h => .home h
      | .error c => .fault c

/-- The translation of an address for a context, or for none, walking where the slices miss (R328). -/
def State.reach (s : State) (d : Nat) (c : Option Nat) (asid va : Nat) (rd wr : Bool) : State × Except Nat Home :=
  match s.lookup d asid va rd wr with
  | .home h => (s, .ok h)
  | .fault c => (s, .error c)
  | .miss =>
    let s := s.perfEvent d 0x09 c 1
    match s.walk asid va with
    | .error c => (s, .error c)
    | .ok l => (s.fillSlice d l, s.leafHome l va rd wr)

/-- The translation of an address for the dispatcher and the copy engines, which have no slices (R286). -/
def State.reachPort (s : State) (asid va : Nat) (rd wr : Bool) : Except Nat Home :=
  if 2 ^ 57 ≤ va then .error Cause.addressRange
  else match s.walk asid va with
    | .error c => .error c
    | .ok l => s.leafHome l va rd wr

/-! ### Distances, pseudo-channels and slots (R230, R231, R233) -/

/-- Edge hops between two compute dies (R233). -/
def hops (a b : Nat) : Nat :=
  let x := dieCol a
  let y := dieCol b
  (if x < y then y - x else x - y) + (if dieRow a = dieRow b then 0 else 1)

/-- The edges of the package: three in each row, then the four between the rows. -/
def edgesBetween (row a b : Nat) : List Nat :=
  (List.range 3).filter (fun j => (a ≤ j && j < b) || (b ≤ j && j < a)) |>.map fun j => row * 3 + j

/-- The way of a transfer between two dies: along the row, then vertically (R233). -/
def edgePath (a b : Nat) : List Nat :=
  let row := edgesBetween (dieRow a) (dieCol a) (dieCol b)
  let row := if dieCol a ≤ dieCol b then row else row.reverse
  row ++ (if dieRow a = dieRow b then [] else [6 + dieCol b])

/-- The directed edges from a die to another: along the row, then vertically; 14 is added toward the lower column or row. -/
def dirPath (a b : Nat) : List Nat :=
  (edgePath a b).map fun e =>
    let up := if e < 6 then decide (dieCol a ≤ dieCol b) else dieRow a == 0
    if up then e else e + 14

/-- The port die of an identity. -/
def portOf (ident : Nat) : Nat := if ident < 7 then 8 else 9

/-- The V-die beside a port die that is nearer to a die, and its edge (R347). -/
def portVia (port d : Nat) : Nat × Nat :=
  if port = 8 then (if hops 0 d ≤ hops 2 d then (0, 10) else (2, 11)) else if hops 1 d ≤ hops 3 d then (1, 12) else (3, 13)

/-- The directed edges between a port die and a compute die, out of the package and into it; 14 is added toward the compute die
(R332). -/
def toPort (port d : Nat) : List Nat := dirPath d (portVia port d).1 ++ [(portVia port d).2]
def fromPort (port d : Nat) : List Nat := ((portVia port d).2 + 14) :: dirPath (portVia port d).1 d

/-- The way of a scalar access from a die to its home's die and back. -/
def roundTrip (d n : Nat) : List Nat := dirPath d n ++ dirPath n d

/-- The count in which what comes to the end of a way at a count enters one of its edges, each of which takes 20 counts (R332). -/
def entersEdge (way : List Nat) (arrive e : Nat) : Option Nat := (way.idxOf? e).map fun j => arrive - 20 * (way.length - j)

/-- Counts by which what comes to the end of a way at a count is late: an edge of it sends a flit again as it enters (R334). -/
def State.lateBy (s : State) (way : List Nat) (arrive : Nat) : Nat :=
  if s.edgeLate.any fun l => (entersEdge way arrive l.1).any fun b => b < l.2 then 8 else 0

/-- What comes to the end of a way at a count is on an edge as a flit of it fails, or queues behind that flit (R334). -/
def State.heldUp (s : State) (way : List Nat) (arrive e : Nat) : Bool :=
  (entersEdge way arrive e).any fun b => b < s.bel + 8 && s.bel < b + 20

/-- The pseudo-channel of a stack offset (R231). -/
def channelOf (off : Nat) : Nat := off / 64 % 160

/-- A pseudo-channel refreshes in a frame (R231). -/
def refreshes (channel frame : Nat) : Bool := frame % 48 == channel % 48

/-- The scalar burst slots of a channel from a count on, in n frames (Table 9-1). -/
def scalarSlots (channel b n : Nat) : List Nat :=
  (List.range n).flatMap fun i =>
    let f := b / 128 + i
    if refreshes channel f then [] else [128 * f + 102, 128 * f + 107].filter fun x => b ≤ x

/-- The first scalar slot at or after a count: A of Table 5-3. -/
def firstScalar (channel b : Nat) : Nat := (scalarSlots channel b 3).headD b

/-- One order of requests: the keys compared from their first part on. -/
def keyBefore : List Nat → List Nat → Bool
  | a :: as, b :: bs => a < b || (a == b && keyBefore as bs)
  | _, _ => false

/-- The request that a channel's scalar slot at a count serves: of those that can be served, the first in order (R230). -/
def scalarNext (stack channel at_ : Nat) : List ScalarReq → Option ScalarReq
  | [] => none
  | r :: rs =>
    let rest := scalarNext stack channel at_ rs
    if r.stack = stack ∧ r.channel = channel ∧ r.slot = none ∧ r.from_ ≤ at_ then
      match rest with
      | some q => if keyBefore q.key r.key then some q else some r
      | none => some r
    else rest

/-- A request joins those that wait for a scalar slot of its channel. -/
def State.askScalar (s : State) (r : ScalarReq) : State :=
  { s with scalarBook := (s.scalarBook.filter fun (q : ScalarReq) => match q.slot with
      | some x => s.bel < x + 512
      | none => true) ++ [r] }.scheduleBel
    (firstScalar r.channel (max r.from_ s.bel)) phEdge (.scalar r.stack r.channel)

/-- A scalar slot of a channel comes (R230): the first request in order takes it, reads or updates at its home and completes
64 counts later, and 40 more for each edge; those that it displaces look to the next slot. -/
def State.serveScalar (s : State) (stack channel : Nat) : State :=
  let later := fun (s : State) =>
    if (scalarNext stack channel s.bel s.scalarBook).isSome then
      s.scheduleBel (firstScalar channel (s.bel + 1)) phEdge (.scalar stack channel)
    else s
  let used := s.scalarBook.any fun q => q.stack == stack && q.channel == channel && q.slot == some s.bel
  if used ∨ firstScalar channel s.bel ≠ s.bel then later s
  else match scalarNext stack channel s.bel s.scalarBook with
    | none => s
    | some r =>
      let s := later { s with scalarBook := s.scalarBook.map fun (q : ScalarReq) => if q = r then { q with slot := some s.bel } else q }
      match r.work with
      | some (d, perform, finish) =>
        let at_ := s.bel + 64 + 40 * hops d stack
        (s.scheduleBel (at_ + s.lateBy (roundTrip d stack) at_) phEdge finish).soon perform
      | none => s

/-! ### Elastic bursts (R230, R231) -/

/-- The homes of the package that lie in a stack, with their pseudo-channel now. -/
def State.burstAt (s : State) (h : Home) : Option (Nat × Nat) :=
  match h with
  | .stack n off => match s.placeOf n off with
    | .ok p => some (p.1, channelOf p.2)
    | .error _ => none
  | _ => none

/-- Elastic bursts at homes can take place in this count: no channel refreshes, and each has one of its three elastic slots of
the frame left. Then they are taken (R230, R231). While BELFRY does not run there are no frames. -/
def State.elasticTurn (s : State) (hs : List Home) : Option State :=
  if !s.belfryOn then some s else
  let f := s.bel / 128
  let now := s.elasticBook.filter fun (b : Nat × Nat × Nat) => b.2.2 == f
  let want := (hs.filterMap s.burstAt).map fun p => (p.1, p.2, f)
  if want.all fun b => !refreshes b.2.1 f && now.count b + want.count b ≤ 3 then
    some (if want.isEmpty then s else { s with elasticBook := want ++ now })
  else none

/-- Something of the model's comes again at a free later count. -/
def State.laterOn (s : State) (m : Micro) : State :=
  { s with free := s.free + 1 }.schedule (s.now + 1 + Config.freeNat s.free) phEdge m

/-- An elastic access at homes: now, where its bursts can take place, else it comes again at a free later count. -/
def State.elastically (s : State) (hs : List Home) (again : Micro) (f : State → State) : State :=
  match s.elasticTurn hs with
  | some s => f s
  | none => s.laterOn again

/-- The home lies in a set named by a scope, for a context of die d (Table 10-2). -/
def Home.inScope (h : Home) (d : Nat) (sc : Scope) : Bool :=
  let pair := fun k => k % 4 == d % 4
  match sc, h with
  | .ctx, .bank k _ => k == d
  | .ctx, _ => false
  | .pair, .bank k _ => pair k
  | .pair, .stack k _ => pair k
  | .pair, _ => false
  | .pkg, .bank _ _ => true
  | .pkg, .stack _ _ => true
  | .pkg, _ => false
  | .dom, _ => true

/-- Two homes are one place. -/
def State.samePlace (s : State) (a b : Home) : Bool :=
  match s.spot a, s.spot b with
  | some u, some v => u == v
  | _, _ => a == b

/-- A home in the package. -/
def Home.inside : Home → Bool
  | .stack _ _ => true
  | .bank _ _ => true
  | _ => false

/-! ### Accesses of one context to one word (R271) -/

/-- Whether an address that an atomic, WAITB, BARINIT or BARARR names is of a bank (R120). -/
def isBankAddr (a : Nat) : Bool := bit 63 a

/-- The home of an address as a context's access finds it; none where it has none. -/
def State.homeFor (s : State) (d c a : Nat) : Option Home :=
  if isBankAddr a then some (.bank d (a % 2 ^ 28))
  else match s.lookup d (s.ctx d c).asid a false false with
    | .home h => some h
    | .fault _ => none
    | .miss => match s.walk (s.ctx d c).asid a with
      | .ok l => (s.leafHome l a false false).toOption
      | .error _ => none

/-- A pending access has performed; what it reports or begins follows (R363, R250). -/
def State.performed (s : State) (id : Nat) : State :=
  let notes := (s.pendings.filter fun p => p.id == id).flatMap fun (p : Pending) => p.note
  { s with pendings := s.pendings.filter (fun p => p.id != id), agenda := notes ++ s.agenda }

/-- A released STH of a context that is still to leave for its home: its granule, with the home. -/
def State.storeAt (s : State) (d c : Nat) (p : Pending) : Option (DefWrite × Home) :=
  if p.die = d ∧ p.ctx = c ∧ p.gang = (s.ctx d c).gang ∧ p.sent = false then
    match p.write with
    | some w => if w.sth then (p.home.or (s.homeFor d c w.addr)).map fun h => (w, h) else none
    | none => none
  else none

/-- A granule's write touches the aligned 8-byte word of a place. -/
def State.intoWord (s : State) (w : DefWrite) (g h : Home) : Bool :=
  match s.spot g, s.spot h with
  | some u, some v => u.1 == v.1 && u.2 / 64 == v.2 / 64 && bits 7 0 (w.mask.toNat / 2 ^ (v.2 % 64 / 8 * 8)) != 0
  | _, _ => false

/-- The STHs of a context that have been released, are still to perform, and write into the word of a place (R271). -/
def State.storesAhead (s : State) (d c : Nat) (h : Home) : List (Pending × DefWrite × Home) :=
  s.pendings.filterMap fun p => match s.storeAt d c p with
    | some (w, g) => if s.intoWord w g h then some (p, w, g) else none
    | none => none

/-- Before a context's later access to a word of the package performs, its released STHs to the word have performed (R271); none
where their bursts cannot take place in this count (R230, R231). -/
def State.settleStores (s : State) (d c : Nat) (h : Home) : Option State :=
  let ahead := s.storesAhead d c h
  (s.elasticTurn (ahead.map (·.2.2))).map fun s =>
    ahead.foldl (fun s q => (s.writeHomeMasked q.2.2 q.2.1.data.toNat q.2.1.mask.toNat 64).performed q.1.id) s

end Sys2Proof.Machine
end

