-- ==== Sys2Proof/Machine/Region.lean ====
section
/-!
DEFINITION. What a region keeps (R311–R314): before-images of the bank, weight buffer and tag table, read staging, the
deferred-write set; and the promises that the engine tracks (R41, R228).
-/

namespace Sys2Proof.Machine

/-! ### Spare registers (R322) -/

/-- A scalar register and its spare. -/
def Ctx.landS (x : Ctx) (n : Nat) (v : Word) : Ctx :=
  let a := x.arch.setS n v
  match x.dup.find? fun p => p.1 == 0 && p.2.1 == n with
  | some p => { x with arch := a.setS p.2.2 v }
  | none => { x with arch := a }

/-- A vector register and its spare. -/
def Ctx.landV (x : Ctx) (c n : Nat) (v : VReg) (mask : PReg) : Ctx :=
  let a := x.arch.setV c n v mask
  match x.dup.find? fun p => p.1 == c + 1 && p.2.1 == n with
  | some p => { x with arch := a.setV c p.2.2 v mask }
  | none => { x with arch := a }

/-! ### Limits (Table 12-1) -/

def beforeLimit (c : Nat) : Nat := if c = 0 then 16384 else 2048
def deferLimit (c : Nat) : Nat := if c = 0 then 32768 else 4096
def stagingLimit (c : Nat) : Nat := if c = 0 then 16384 else 2048

/-- TRAPINFO of a full store: its number and the entries in use, which are its limit (R311, log 65). -/
def storeInfo (store entries : Nat) : Nat := store + entries % 2 ^ 24 * 2 ^ 8

/-- The limit of a store, by its number. -/
def storeLimit (store c : Nat) : Nat := match store with | 1 => beforeLimit c | 2 => deferLimit c | _ => stagingLimit c

/-- A store needs an entry beyond its limit, at the bundle of a gang step (R311). -/
def State.storeFull (s : State) (d c cls store : Nat) (gstep : Option Nat) : State :=
  s.takeTrap d c [{ code := Cause.rollbackCapacity, info := storeInfo store (storeLimit store c), cls := cls, clus := none, gstep := gstep }]

/-! ### Before-images (R312) -/

/-- A line's value in one of the three stores. -/
def Die.line (x : Die) (store line : Nat) : BitVec 512 :=
  match store with
  | 0 => BitVec.ofNat 512 (Mem.nat x.bank (64 * line) 64)
  | 1 => BitVec.ofNat 512 (Mem.nat x.wbuf (64 * line) 64)
  | _ => BitVec.ofNat 512 ((List.range 4).foldl (fun n k =>
      n + (SMap.get x.tags (4 * line + k)).toNat * 2 ^ (128 * k)) 0)

/-- A line put back as a before-image holds it. -/
def Die.putLine (x : Die) (b : Before) : Die :=
  match b.store with
  | 0 => { x with bank := Mem.setNat x.bank (64 * b.line) 64 b.old.toNat }
  | 1 => { x with wbuf := Mem.setNat x.wbuf (64 * b.line) 64 b.old.toNat }
  | _ => { x with tags := (List.range 4).foldl (fun t k =>
      SMap.set t (4 * b.line + k) (b.old.extractLsb' (128 * k) 128)) x.tags }

/-- The before-images of lines that a context is about to write for the first time in its region; a handler context takes
none (R310). A full store raises rollback-capacity (R311). -/
def State.noteLines (s : State) (d c cls gstep store : Nat) (lines : List Nat) : State :=
  if c = 2 then s
  else
    let x := s.ctx d c
    let fresh := lines.eraseDups.filter fun l => !x.before.any fun b => b.store == store && b.line == l
    let images := fresh.map fun l => ({ store := store, line := l, old := (s.die d).line store l } : Before)
    let n := x.before.length + images.length
    let s := s.modCtx d c fun x => { x with before := x.before ++ images }
    if beforeLimit c < n then s.storeFull d c cls 1 (some gstep) else s

/-- The aligned words that a list of placed bytes touches. -/
def wordsTouched (bs : List (Nat × Byte)) : List Nat := (bs.map fun p => p.1 / 4 * 4).eraseDups

/-- A write of a context into its die's bank wall through one view: before-images, then the bytes; the words as they stood
are kept until a view join (R268, R312). -/
def State.ownBankWrite (s : State) (d c cls gstep : Nat) (plate : Bool) (bs : List (Nat × Byte)) : State :=
  let s := s.noteLines d c cls gstep 0 (bs.map fun p => p.1 / 64)
  let bank := (s.die d).bank
  let old := (wordsTouched bs).map fun a => ({ addr := a, old := BitVec.ofNat 32 (Mem.nat bank a 4), plate := plate } : Unjoined)
  let s := s.modDie d fun x => x.writeBank (some c) (some plate) bs
  s.modCtx d c fun x => { x with unjoined := x.unjoined ++ old }

/-- A landing of a transfer that a context started: before-images, then the bytes, seen in both views (R266, R312). -/
def State.transferWrite (s : State) (d c cls gstep addr : Nat) (bytes : List Byte) : State :=
  let bs := placeBytes addr bytes
  let s := s.noteLines d c cls gstep 0 (bs.map fun p => p.1 / 64)
  s.modDie d fun x => x.writeBank (some c) none bs

/-- A write of a context into its die's weight buffer (R204, R312). -/
def State.wbufWrite (s : State) (d c cls gstep : Nat) (bs : List (Nat × Byte)) : State :=
  let s := s.noteLines d c cls gstep 1 (bs.map fun p => p.1 / 64)
  s.modDie d fun x => { x with wbuf := Mem.write x.wbuf bs }

/-- A write of tag-table slots (R195, R312). -/
def State.tagWrite (s : State) (d c cls gstep : Nat) (ws : List (Nat × BitVec 128)) : State :=
  let s := s.noteLines d c cls gstep 2 (ws.map fun p => p.1 / 4)
  s.modDie d fun x => { x with tags := ws.foldl (fun t p => SMap.set t p.1 p.2) x.tags }

/-! ### Read staging (R313) -/

/-- The first entry of a family that the present run has not consumed. -/
def nextStaged (f : Family) (l : List Staged) : Option Staged := l.find? fun e => e.family == f && !e.used

/-- A read of a family takes its entry of the staging: the entry's key, and the value and steps if it is served from
there. A differing entry and every later one of the family are dropped (R313). -/
def State.openStage (s : State) (d c : Nat) (f : Family) (addr size cls : Nat) : State × Nat × Option (Nat × Nat) :=
  let x := s.ctx d c
  let add := fun (s : State) (l : List Staged) =>
    let (key, s) := s.fresh
    let e : Staged := { key := key, family := f, addr := addr, size := size, value := none, steps := 0, used := true }
    let s := s.modCtx d c fun x => { x with staging := l ++ [e] }
    let s := if stagingLimit c < l.length + 1 then s.storeFull d c cls 3 none else s
    (s, key, (none : Option (Nat × Nat)))
  if c = 2 then (s, 0, none)
  else match nextStaged f x.staging with
    | none => add s x.staging
    | some e =>
      if e.addr = addr ∧ e.size = size then
        (s.modCtx d c fun x => { x with staging := x.staging.map fun y => if y.key = e.key then { y with used := true } else y },
         e.key, e.value.map fun v => (v, e.steps))
      else add s (x.staging.filter fun y => !(y.family == f && !y.used))

/-- A staged read has returned (R313). -/
def State.fillStage (s : State) (d c key value steps : Nat) : State :=
  s.modCtx d c fun x => { x with staging := x.staging.map fun y =>
    if y.key = key then { y with value := some value, steps := steps } else y }

/-! ### Deferred-write set (R122, R314) -/

/-- The granule of a scatter element's cell. -/
def ScatElem.granule (e : ScatElem) : Nat := (e.cfg.base.toNat + (if e.cfg.wide then 16 else 4) * e.cell) % 2 ^ 64 / 64 * 64

/-- The granules that a context's deferred set holds: of its writes, its arrivals and its scatter updates (R311, R314). -/
def Ctx.deferredGranules (x : Ctx) : List Nat :=
  ((x.deferred.map fun (w : DefWrite) => w.addr) ++ (x.arrivals.map fun (a : DefArrival) => a.addr.toNat / 64 * 64) ++
    x.deferScat.flatten.map ScatElem.granule).eraseDups

/-- What enters the deferred set of a context without a region to end is released at once: of one that has exited (R133), and of a
handler (R310). -/
def State.releaseSoon (s : State) (d c : Nat) : State :=
  if (s.ctx d c).run = .exited ∨ c = 2 then s.soon (.release d c) else s

/-- A limit passed by the deferred set raises its trap (R311). -/
def State.checkDeferred (s : State) (d c cls : Nat) (gstep : Option Nat) : State :=
  if c ≠ 2 ∧ deferLimit c < (s.ctx d c).deferredGranules.length then s.storeFull d c cls 2 gstep else s

/-- Writes of a slot class, of the bundle of a gang step, enter the deferred set (R122, R311). -/
def State.addDeferred (s : State) (d c cls gstep : Nat) (ws : List DefWrite) : State :=
  let s := s.modCtx d c fun x => { x with deferred := x.deferred ++ ws.map fun (w : DefWrite) => { w with cls := cls, step := x.steps } }
  (s.releaseSoon d c).checkDeferred d c cls (some gstep)

/-- An arrival enters the deferred set (R253). -/
def State.addArrival (s : State) (d c cls gstep : Nat) (r : DefArrival) : State :=
  ((s.modCtx d c fun x => { x with arrivals := x.arrivals ++ [r] }).releaseSoon d c).checkDeferred d c cls (some gstep)

/-- A window of a translated region enters the deferred set; a limit passed is of the bundle whose element needs the entry
(R197, R311). -/
def State.addWindow (s : State) (d c : Nat) (w : List ScatElem) : State :=
  let held := (s.ctx d c).deferredGranules
  let new := ((w.map ScatElem.granule).eraseDups.filter fun g => !held.contains g)
  let first := (new[deferLimit c - held.length]?).bind fun g => (w.find? fun e => e.granule == g).map (·.gstep)
  ((s.modCtx d c fun x => { x with deferScat := x.deferScat ++ [w] }).releaseSoon d c).checkDeferred d c 11 first

/-- The byte that the deferred STHs of a region supply at a translated address: the latest one of an earlier step (R122, R265). -/
def Ctx.sthByte (x : Ctx) (a : Nat) : Option Byte :=
  match (x.deferred.filter fun w => w.sth && w.step < x.steps && w.addr == a / 64 * 64 && w.mask.getLsbD (a % 64)).getLast? with
  | some w => some (w.data.extractLsb' (8 * (a % 64)) 8)
  | none => none

/-- Two writes to one granule merged, the later bytes prevailing (Table 12-1). -/
def mergeWrite (old new : DefWrite) : DefWrite :=
  let m : BitVec 512 := BitVec.ofNat 512 ((List.range 64).foldl (fun n i =>
    if new.mask.getLsbD i then n + 255 * 256 ^ i else n) 0)
  { old with data := (old.data &&& ~~~m) ||| (new.data &&& m), mask := old.mask ||| new.mask, sth := old.sth || new.sth,
             cq := old.cq || new.cq, cls := new.cls, rst := new.rst.or old.rst }

/-- One write put into a merged set: writes of TDMA are kept apart, since they perform on the slots of their queue. -/
def mergeInto (w : DefWrite) : List DefWrite → List DefWrite
  | [] => [w]
  | u :: us => if u.addr = w.addr ∧ u.tdma = w.tdma then mergeWrite u w :: us else u :: mergeInto w us

/-- A deferred set with one entry for each granule. -/
def mergeAll (ws : List DefWrite) : List DefWrite := ws.foldl (fun l w => mergeInto w l) []

/-! ### Promises (R41, R228) -/

/-- PROMISEn of a context. -/
def Arch.prom (a : Arch) (n : Nat) : Promise := tget a.promise n default

/-- A request of a context. -/
def Ctx.req? (x : Ctx) (id : Nat) : Option Req := x.reqs.find? fun r => r.id == id

/-- Change of a request. -/
def State.modReq (s : State) (d c id : Nat) (f : Req → Req) : State :=
  s.modCtx d c fun x => { x with reqs := x.reqs.map fun r => if r.id = id then f r else r }

/-- Change of the promise register of a request, if it still reports that request: no later one has taken it (R41). -/
def State.modPromise (s : State) (d c : Nat) (r : Req) (f : Promise → Promise) : State :=
  if r.superseded then s else s.modArch d c fun a => { a with promise := tmod a.promise r.pr f }

/-- A request enters the engine and its promise register is set (R228). -/
def State.putReq (s : State) (d c : Nat) (r : Req) : State :=
  let s := s.modCtx d c fun x => { x with reqs := (x.reqs.map fun (q : Req) => if q.pr = r.pr then { q with superseded := true } else q) ++ [r] }
  let p : Promise := { v := true, done := r.done, retry := false, poison := r.poison.isSome, pstep := BitVec.ofNat 48 r.pstep }
  s.modArch d c fun a => { a with promise := tset a.promise r.pr p }

/-- A BELFRY count is greater than a PSTEP modulo 2^48 (R41). -/
def pastStep (b pstep : Nat) : Bool :=
  let x := (b % 2 ^ 48 + 2 ^ 48 - pstep % 2 ^ 48) % 2 ^ 48
  1 ≤ x && x < 2 ^ 47

/-- A request has ended: DONE or POISON (R229). -/
def Req.ended (r : Req) : Bool := r.done || r.poison.isSome

/-- What of a transfer still comes, comes from the staging (R313). -/
def Req.restServed (r : Req) : Bool := !r.grans.isEmpty && r.grans.all fun g => g.done || g.served

/-- Its promise counts as missed from a count on, unless it has ended; a read served from staging meets its promise (R41, R313). -/
def Req.overdue (r : Req) (b : Nat) : Bool := pastStep b r.pstep && !r.replayed && !r.restServed

/-- The transfer of a request has completed: DONE. -/
def State.reqDone (s : State) (d c id : Nat) : State :=
  match (s.ctx d c).req? id with
  | none => s
  | some r =>
    if r.poison.isSome then s
    else (s.modReq d c id fun r => { r with done := true, late := r.late || (!r.ended && r.overdue s.bel) }).modPromise d c r
      fun p => { p with done := true }

/-- A fault of a request is found: POISON (R120). TRAPCAUSE will name the class that set the promise (R46). -/
def State.reqPoison (s : State) (d c id code info : Nat) : State :=
  match (s.ctx d c).req? id with
  | none => s
  | some r =>
    if r.poison.isSome then s
    else (s.modReq d c id fun r =>
        { r with poison := some { code := code, info := info, cls := r.cls, clus := none },
                 late := r.late || (!r.ended && r.overdue s.bel) }).modPromise d c r fun p => { p with poison := true }

/-- An error retry has delayed a request past its PSTEP: RETRY (R236). -/
def State.reqRetry (s : State) (d c id : Nat) : State :=
  match (s.ctx d c).req? id with
  | none => s
  | some r => ((s.modReq d c id fun r => { r with retry := true }).modPromise d c r fun p => { p with retry := true }).perfEvent d 0x0A (some c) 1

/-- At a count the transfer is still to come though its PSTEP is past (R41). -/
def Req.missed (r : Req) (b : Nat) : Bool := r.overdue b && !r.ended

/-- TRAPINFO of a missed promise (Table 12-3): kind 0, the promise number in [7:4]. -/
def Req.missInfo (r : Req) : Nat := r.pr * 16

/-- Requests that no longer bind: ended without a fault, their value landed, their PSTEP past. -/
def Req.settled (r : Req) (b : Nat) : Bool := r.done && r.landed && r.poison.isNone && pastStep b r.pstep

/-- The requests that still bind are kept. -/
def Ctx.prune (x : Ctx) (b : Nat) : Ctx := { x with reqs := x.reqs.filter fun r => !r.settled b }

end Sys2Proof.Machine
end

