-- ==== Sys2Proof/Machine/Timetable.lean ====
section
/-!
DEFINITION. The timetable segment of an image (R340, R341): header, Lantern entries, stack grants, exchange records,
staging shares; program descriptors (R69); and the carriage of timed frames over a gang's slots (R346).
-/

namespace Sys2Proof.Machine

/-- The little-endian number of n bytes at an offset of a list. -/
def natAt (bs : List Byte) (off n : Nat) : Nat := natOfBytes ((bs.drop off).take n)

/-- The bytes of an image. -/
def State.imageBytes (s : State) (handle : Nat) : List Byte := ((s.image? handle).map (·.bytes)).getD []

/-- The timetable segment of an image; empty where it has none. -/
def timetableOf (img : List Byte) : List Byte := segmentOf img 6 0

/-- Slots in the period (Table 13-5); 1 without a timetable (R294). -/
def periodSlots (tt : List Byte) : Nat := if tt.isEmpty then 1 else 2 ^ natAt tt 0 1

/-- The period Tp in counts (R294, R340). -/
def periodOf (tt : List Byte) : Nat := 64 * periodSlots tt

/-- NPHASE; 0 without a timetable. -/
def phasesOf (tt : List Byte) : Nat := if tt.isEmpty then 0 else natAt tt 1 1

/-- A Lantern entry (Table 13-6). -/
structure LanEntry where
  ix : Nat
  start : Nat
  run : Nat
  fib : Nat
  wgm : Nat
  cls : Nat
  receive : Bool
  lan : Nat
  phase : Nat
  peer : Nat
  plan : Nat
  memb : Nat
  xu : Nat
  dly : Nat
  deriving DecidableEq, Repr

/-- A Lantern entry of its 16 bytes. -/
def lanEntry (ix n : Nat) : LanEntry :=
  { ix := ix, start := bits 15 0 n, run := bits 31 16 n, fib := bits 39 32 n, wgm := bits 47 40 n, cls := bits 49 48 n,
    receive := bit 50 n, lan := bits 55 52 n, phase := bits 59 56 n, peer := bits 73 64 n, plan := bits 77 74 n,
    memb := bits 92 80 n, xu := bits 111 96 n, dly := bits 127 112 n }

/-- The Lantern entries of a timetable. -/
def lanEntries (tt : List Byte) : List LanEntry :=
  (List.range (natAt tt 4 4)).map fun i => lanEntry i (natAt tt (64 + 16 * i) 16)

/-- Offset of the stack grants. -/
def grantBase (tt : List Byte) : Nat := 64 + 16 * natAt tt 4 4

/-- The stack grants: program, stack, slots (Table 9-2). -/
def grantsOf (tt : List Byte) : List (Nat × Nat × Nat) :=
  (List.range (natAt tt 8 4)).map fun i =>
    let n := natAt tt (grantBase tt + 8 * i) 8
    (bits 7 0 n, bits 11 8 n, bits 35 16 n)

/-- The granted (stack, slot) pairs of a program in ascending stack, then slot. -/
def grantPairs (tt : List Byte) (prog : Nat) : List (Nat × Nat) :=
  (List.range 8).flatMap fun st =>
    ((grantsOf tt).filter fun g => g.1 == prog && g.2.1 == st).flatMap fun g =>
      ((List.range 20).filter fun b => bit b g.2.2).map fun b => (st, b)

/-- An exchange record (R341). -/
structure Xch where
  xch : Nat
  npart : Nat
  start : Nat
  dur : Nat
  mchk : Nat
  parts : List Nat
  deriving DecidableEq, Repr

/-- The exchange records from an offset on. -/
def xchFrom : Nat → List Byte → List Xch
  | 0, _ => []
  | n + 1, bs =>
    let np := natAt bs 2 2
    { xch := natAt bs 0 2, npart := np, start := natAt bs 4 4, dur := natAt bs 8 4, mchk := natAt bs 12 8,
      parts := (List.range np).map fun i => natAt bs (32 + 2 * i) 2 } :: xchFrom n (bs.drop (32 + ceilDiv (2 * np) 16 * 16))

/-- The exchange records. -/
def xchRecords (tt : List Byte) : List Xch := xchFrom (natAt tt 12 4) (tt.drop (grantBase tt + 8 * natAt tt 8 4))

/-- Offset of the staging shares: past the exchange records. -/
def shareBase (tt : List Byte) : Nat :=
  grantBase tt + 8 * natAt tt 8 4 + ((xchRecords tt).map fun x => 32 + ceilDiv (2 * x.npart) 16 * 16).sum

/-- The receive-staging share of a program in bytes (R341). -/
def shareOf (tt : List Byte) (prog : Nat) : Nat :=
  let es := (List.range (natAt tt 16 4)).map fun i => natAt tt (shareBase tt + 8 * i) 8
  match es.find? fun n => bits 7 0 n == prog with
  | some n => bits 31 16 n * 65536
  | none => 0

/-- The timetable of a gang. -/
def State.timetable (s : State) (g : Gang) : List Byte := timetableOf (s.imageBytes g.image)

/-- The gang that the executing context belongs to; a gang of no members where there is none. -/
def State.myGang (s : State) : Gang := (s.gangOf s.issue.die s.issue.ctx).getD default

/-- The timetable of the executing context's gang. -/
def State.myTimetable (s : State) : List Byte := s.timetable s.myGang

/-- A field of a program's descriptor (Table 2-16). -/
def descriptorOf (img : List Byte) (prog off n : Nat) : Nat := natAt (segmentOf img 8 prog) off n

/-- The die type of a program of an image. -/
def programKind (img : List Byte) (prog : Nat) : DieKind := if descriptorOf img prog 0 1 = 0 then .v else .m

/-! ### Timed carriage (R346) -/

/-- Flits of a slot at an entry's width (R346). -/
def slotCap (e : LanEntry) : Nat := 20 * popCount 8 e.wgm * popCount 8 e.fib

/-- The timed transmit entry of a phase that carries toward a package at a slot position. -/
def carrier (tt : List Byte) (phase memb peer xu slot : Nat) : Option LanEntry :=
  (lanEntries tt).find? fun e => e.cls == 0 && !e.receive && e.phase == phase && e.memb == memb && e.peer == peer &&
    e.xu == xu && e.start ≤ slot && slot ≤ e.start + e.run

/-- Flits already carried by an entry in an absolute slot. -/
def carriedIn (l : List (Nat × Nat × Nat)) (e slot : Nat) : Nat :=
  match l.find? fun x => x.1 == e && x.2.1 == slot with
  | some x => x.2.2
  | none => 0

/-- The slots that `f` more flits fill from an absolute slot on, within the run's last absolute slot: each slot with the
flits it takes; `none` where they overrun the run. -/
def fillSlots (l : List (Nat × Nat × Nat)) (e cap last : Nat) : Nat → Nat → Nat → Option (List (Nat × Nat))
  | 0, _, _ => none
  | n + 1, slot, f =>
    if last < slot then none
    else
      let room := cap - carriedIn l e slot
      if f ≤ room then some [(slot, f)]
      else match fillSlots l e cap last n (slot + 1) (f - room) with
        | none => none
        | some r => some ((slot, room) :: r)

/-- The carriage of a frame of `f` flits sent at gang step t: its entry, the slots it fills, the absolute slot in which its
last flit leaves, and its arrival gang step (R346). -/
def carry (tt : List Byte) (used : List (Nat × Nat × Nat)) (phase memb peer xu t f : Nat) :
    Option (LanEntry × List (Nat × Nat) × Nat × Nat) :=
  let plen := periodSlots tt
  let tau := t / 64 + 2
  match carrier tt phase memb peer xu (tau % plen) with
  | none => none
  | some e =>
    let last := tau / plen * plen + e.start + e.run
    match fillSlots used e.ix (slotCap e) last (e.run + 1) tau f with
    | none => none
    | some fs =>
      let z := (fs.getLast?.map (·.1)).getD tau
      some (e, fs, z, 64 * (z + 1) + e.dly)

/-- The flits of a frame taken into an entry's queue. -/
def addCarried (l : List (Nat × Nat × Nat)) (e : Nat) (fs : List (Nat × Nat)) : List (Nat × Nat × Nat) :=
  fs.foldl (fun l p => (e, p.1, carriedIn l e p.1 + p.2) :: l.filter fun x => !(x.1 == e && x.2.1 == p.1)) l

/-- A Lantern identity that has failed or is absent (LSTATUS 0x0, 0x7; R339, R352). -/
def State.identDown (s : State) (ident : Nat) : Bool :=
  let l := (tget s.lanterns ident default).ls
  l == 0 || l == 7

/-- A link identity in service: neither absent, spare nor failed. -/
def State.identServes (s : State) (ident : Nat) : Bool := !s.identDown ident && (tget s.lanterns ident default).ls != 1

end Sys2Proof.Machine
end

