-- ==== Sys2Proof/Machine/Transfer.lean ====
section
/-!
DEFINITION. XF and OQ instructions as they issue (09 R228–R257, 13 R346, R356–R358). What the engines do afterwards is in
Access.lean, Frames.lean and Exchange.lean.
-/

namespace Sys2Proof.Machine

/-! ### Common checks -/

/-- A slot that a BG context may not issue (R228). -/
def notInBg (h : Hdr) (s : State) (f : State → State) : State :=
  if s.issue.ctx = 1 then s.raise h.cls.toNat Cause.ownership s.issue.die else f s

/-- Bank address and length checks of transfers: every quantity a multiple of 64, a length of 64 to the limit, and the
bank range inside BWIN (Table 9-3, R237, R238). The quantity that fails is TRAPINFO. -/
def transferCheck (a : Arch) (b n : Nat) (others : List Nat) (limit : Nat) : Option (Nat × Nat) :=
  match (b :: n :: others).find? fun x => x % 64 ≠ 0 with
  | some x => some (Cause.misaligned, x)
  | none =>
    if n = 0 ∨ limit < n then some (Cause.misaligned, n)
    else if a.inWindow b n then none else some (Cause.bankBounds, b)

/-- A slot under a check that gives a cause and TRAPINFO. -/
def State.unless (s : State) (h : Hdr) (c : Option (Nat × Nat)) (f : State → State) : State :=
  match c with
  | some e => s.raise h.cls.toNat e.1 e.2
  | none => f s

/-! ### TDMA (R233) -/

/-- The pin-table entry of the issuing context for an address (R329). -/
def State.pinEntry (s : State) (va : Nat) : Option Leaf :=
  (s.myDie.pins.find? fun p => p.2.asid == s.me.asid && va / p.2.size * p.2.size == p.2.page).map (·.2)

/-- The stack that a TDMA reaches and the stack address of its first byte, or the fault of Table 9-3. -/
def State.tdmaTarget (s : State) (va n : Nat) (wr : Bool) : Except Nat (Nat × Nat) :=
  if 2 ^ 57 ≤ va then .error Cause.addressRange
  else match s.pinEntry va with
    | none => .error Cause.unpinned
    | some l =>
      if l.page + l.size < va + n then .error Cause.transferSpan
      else if (wr && !l.wr) || (!wr && !l.rd) then .error Cause.protection
      else
        let a := l.out + va % l.size
        let st := bits 38 36 a
        let off := bits 35 0 a
        if 2 ^ 39 < a + n ∨ 2 ^ 36 < off + n ∨ reservedPhys st (off + n - 1) then .error Cause.addressRange
        else match (List.range (n / 64)).find? fun i => (s.placeOf st (off + 64 * i)).toOption.isNone with
          | some _ => .error Cause.homeLost
          | none =>
            if (grantPairs s.myTimetable s.me.prog).any fun p => p.1 == st then .ok (st, off)
            else .error Cause.stackGrant

/-- TDMA in either direction. -/
def tdma (h : Hdr) (o : Xfer) (out : Bool) (s : State) : State :=
  notInBg h s fun s =>
    let b := (s.s o.d).toNat
    let va := (s.s o.x).toNat
    let n := (s.s o.y).toNat
    s.unless h (transferCheck s.arch b n [va] (2 ^ 64)) fun s =>
      match s.tdmaTarget va n out with
      | .error c => s.raise h.cls.toNat c va
      | .ok t =>
        let r := newReq h.cls.toNat o.pr.toNat (if out then .tdmaOut else .tdmaIn) (s.s o.x) n
        s.startReq h { r with bank := b, home := some (.stack t.1 t.2) }

/-- TDMA dir=in (R233, R234). -/
def execTdmaIn (h : Hdr) (o : Xfer) (s : State) : Res := slotRun h s (tdma h o false)

/-- TDMA dir=out (R233, R235). -/
def execTdmaOut (h : Hdr) (o : Xfer) (s : State) : Res := slotRun h s (tdma h o true)

/-! ### RLD and RST (R237) -/

/-- RLD. -/
def execRld (h : Hdr) (o : Xfer) (s : State) : Res :=
  slotRun h s fun s =>
    let b := (s.s o.d).toNat
    let n := (s.s o.y).toNat
    s.unless h (transferCheck s.arch b n [(s.s o.x).toNat] 65536) fun s =>
      s.startReq h { newReq h.cls.toNat o.pr.toNat .rld (s.s o.x) n with bank := b }

/-- RST: the bank bytes as they stand at the issue step enter the deferred set. -/
def execRst (h : Hdr) (o : Xfer) (s : State) : Res :=
  slotRun h s fun s =>
    let b := (s.s o.d).toNat
    let n := (s.s o.y).toNat
    s.unless h (transferCheck s.arch b n [(s.s o.x).toNat] 65536) fun s =>
      let bs := s.readBank false b n
      s.afterRead.deferWith h o.pr.toNat (s.s o.x) ((granuleWrites false false false (s.s o.x).toNat bs).map fun (w : DefWrite) =>
        { w with rst := some (s.s o.x).toNat }) n

/-! ### SEND and RECV (R238–R241) -/

/-- Fields of a route word (Table 9-4). -/
def routePkg (w : Nat) : Nat := bits 9 0 w
def routeDie (w : Nat) : Nat := bits 13 10 w
def routeChan (w : Nat) : Nat := bits 21 14 w

/-- A route that R238 does not allow. -/
def State.routeBad (s : State) (w : Nat) : Bool :=
  bits 63 22 w != 0 || 7 < routeDie w ||
  (routePkg w == s.pkg.toNat && (routeDie w == s.issue.die || !s.diePresent (routeDie w)))

/-- The carriage of a SEND to another package at the issue step (R346). -/
def State.sendCarry (s : State) (peer n : Nat) : Option (LanEntry × List (Nat × Nat) × Nat × Nat) :=
  let g := s.myGang
  match carry (s.timetable g) g.carried g.phase s.me.member peer 0 s.gangStep (1 + n / 64) with
  | none => none
  | some x => if s.identDown x.1.lan then none else some x

/-- SEND (R238–R240). -/
def execSend (h : Hdr) (o : Xfer) (s : State) : Res :=
  slotRun h s fun s => notInBg h s fun s =>
    let b := (s.s o.d).toNat
    let w := (s.s o.x).toNat
    let n := (s.s o.y).toNat
    let seq := (s.s o.z).toNat % 2 ^ 32
    s.unless h (transferCheck s.arch b n [] 65536) fun s =>
      let first := s.readBank false b (Nat.min n (portRate s.issue.die))
      if s.routeBad w then s.raise h.cls.toNat Cause.edgeAbsent (routeDie w)
      else if routePkg w = s.pkg.toNat then s.afterRead.put h 0 (.sendFrame (routeDie w) (routeChan w) seq b n first)
      else if (s.sendCarry (routePkg w) n).isNone then s.raise h.cls.toNat Cause.fabricSlot s.gangStep
      else s.afterRead.put h 0 (.sendTimed (routePkg w) (routeDie w) (routeChan w) seq b n first)

/-- The frame in a die's staging with a key (R241). -/
def Die.staged (x : Die) (key : Nat × Nat × Nat × Nat) : Option StagedFrame := x.staging.find? fun f => f.key == key

/-- RECV (R241). -/
def execRecv (h : Hdr) (o : Xfer) (s : State) : Res :=
  slotRun h s fun s => notInBg h s fun s =>
    let b := (s.s o.d).toNat
    let w := (s.s o.x).toNat
    let n := (s.s o.y).toNat
    let key := (routePkg w, routeDie w, routeChan w, (s.s o.z).toNat % 2 ^ 32)
    s.unless h (transferCheck s.arch b n [] 65536) fun s =>
      let late := fun (s : State) => s.raise h.cls.toNat Cause.lateArrival (Config.pairInfo (routeDie w) (routeChan w))
      match s.myDie.staged key with
      | none => late s
      | some f =>
        if s.bel < f.ready then late s
        else if f.data.length ≠ n then s.raise h.cls.toNat Cause.receiveMismatch s.gangStep
        else s.put h 0 (.takeFrame key b)

/-! ### XPOSE and XRED (R243–R245, R355–R358) -/

/-- A distribution descriptor (Table 13-12). -/
structure Distr where
  gdim : Nat
  p : List Nat
  gax : List Nat
  l : List Nat
  zero : Bool
  deriving DecidableEq, Repr

/-- A stencil map (Table 13-11). -/
structure Stencil where
  typ : Nat
  ndim : Nat
  esz : Nat
  npart : Nat
  ext : List Nat
  src : Distr
  dst : Distr
  zero : Bool
  deriving DecidableEq, Repr

/-- Every byte of a range is zero. -/
def zeroRange (bs : List Byte) (off n : Nat) : Bool := ((bs.drop off).take n).all fun b => b == 0

/-- A descriptor of its 64 bytes; `zero` says that its zero fields are zero. -/
def readDistr (bs : List Byte) (ndim : Nat) : Distr :=
  let g := natAt bs 0 1
  let p := (List.range 4).map fun k => natAt bs (4 + 2 * k) 2
  let gax := (List.range 5).map fun d => natAt bs (12 + d) 1
  let l := (List.range 5).map fun d => natAt bs (24 + 8 * d) 8
  { gdim := g, p := p, gax := gax, l := l,
    zero := zeroRange bs 1 3 && zeroRange bs 17 7 && (p.drop g).all (· == 0) && (gax.drop ndim).all (· == 255) &&
      (l.drop ndim).all (· == 0) }

/-- A stencil map of its 192 bytes. -/
def readStencil (bs : List Byte) : Stencil :=
  let ndim := natAt bs 1 1
  let ext := (List.range 5).map fun d => natAt bs (8 + 4 * d) 4
  { typ := natAt bs 0 1, ndim := ndim, esz := natAt bs 2 1, npart := natAt bs 4 2, ext := ext,
    src := readDistr ((bs.drop 64).take 64) ndim, dst := readDistr ((bs.drop 128).take 64) ndim,
    zero := zeroRange bs 3 1 && zeroRange bs 6 2 && zeroRange bs 28 36 && (ext.drop ndim).all (· == 0) }

/-- Extent of a grid axis. -/
def Distr.grid (d : Distr) (k : Nat) : Nat := d.p.getD k 1

/-- Local extent of an array axis (R356). -/
def Stencil.local (m : Stencil) (d : Distr) (ax : Nat) : Nat :=
  let g := d.gax.getD ax 255
  if g = 255 then m.ext.getD ax 0 else m.ext.getD ax 0 / d.grid g

/-- Insertion by ascending stride. -/
def insertStride (x : Nat × Nat) : List (Nat × Nat) → List (Nat × Nat)
  | [] => [x]
  | y :: ys => if x.1 < y.1 then x :: y :: ys else y :: insertStride x ys

/-- Each later stride is at least the previous stride times its extent (R356). -/
def stridesOk : Nat → List (Nat × Nat) → Bool
  | _, [] => true
  | least, (l, n) :: r => least ≤ l && stridesOk (l * n) r

/-- A descriptor passes R356. -/
def Stencil.distrOk (m : Stencil) (d : Distr) : Bool :=
  let axes := List.range m.ndim
  let split := fun k => (axes.filter fun ax => d.gax.getD ax 255 == k).length
  1 ≤ d.gdim && d.gdim ≤ 4 && d.zero && (d.p.take d.gdim).foldl (· * ·) 1 == m.npart &&
  ((List.range d.gdim).all fun k => d.grid k ≤ 1 || split k == 1) &&
  (axes.all fun ax =>
    let g := d.gax.getD ax 255
    g == 255 || (g < d.gdim && 1 ≤ d.grid g && m.ext.getD ax 0 % d.grid g == 0)) &&
  stridesOk m.esz (((axes.filter fun ax => 1 < m.local d ax).map fun ax => (d.l.getD ax 0, m.local d ax)).foldr insertStride [])

/-- A map passes R356. -/
def Stencil.ok (m : Stencil) (npart : Nat) : Bool :=
  m.typ == 0x53 && 1 ≤ m.ndim && m.ndim ≤ 5 && 1 ≤ m.esz && m.esz ≤ 16 && m.zero && m.npart == npart &&
  ((m.ext.take m.ndim).all fun n => n != 0) && m.distrOk m.src && m.distrOk m.dst

/-- Bytes of a local buffer (R356). -/
def Stencil.extent (m : Stencil) (d : Distr) : Nat :=
  m.esz + ((List.range m.ndim).map fun ax => d.l.getD ax 0 * (m.local d ax - 1)).sum

/-- Where a global element lies: the rank and the offset (R357). -/
def Stencil.place (m : Stencil) (d : Distr) (ix : List Nat) : Nat × Nat :=
  let axes := List.range m.ndim
  let coord := fun k => match axes.find? fun ax => d.gax.getD ax 255 == k with
    | some ax => ix.getD ax 0 / m.local d ax
    | none => 0
  let rank := (List.range d.gdim).foldl (fun r k => r * d.grid k + coord k) 0
  let off := (axes.map fun ax =>
    let n := m.local d ax
    (if d.gax.getD ax 255 = 255 then ix.getD ax 0 else ix.getD ax 0 % n) * d.l.getD ax 0).sum
  (rank, off)

/-- All indices below the extents, the last axis fastest. -/
def indexSpace : List Nat → List (List Nat)
  | [] => [[]]
  | n :: ns => (List.range n).flatMap fun i => (indexSpace ns).map fun r => i :: r

/-- The moves of an exchange: source rank and offset, target rank and offset (R357). -/
def Stencil.moves (m : Stencil) : List ((Nat × Nat) × (Nat × Nat)) :=
  (indexSpace (m.ext.take m.ndim)).map fun ix => (m.place m.src ix, m.place m.dst ix)

/-- Bytes that a frame of exchange carries at most, in elements of a size (R358). -/
def frameElems (esz : Nat) : Nat := 65536 / esz

/-- Flits of each frame for a number of elements: a header flit and the data flits (R345, R358). -/
def frameFlits (esz total : Nat) : List Nat :=
  let per := frameElems esz
  (List.range (ceilDiv total per)).map fun i =>
    let k := if (i + 1) * per ≤ total then per else total - i * per
    1 + ceilDiv (k * esz) 64

/-- The package of a member of a gang, by the launch record's member table. -/
def State.memberPkg (s : State) (g : Gang) (m : Nat) : Nat :=
  match s.tasks.find? fun t => t.id == g.task with
  | some t => (t.record.members.getD m 0).toNat / 2 ^ 24 % 2 ^ 10
  | none => 0

/-- The frames that a participant sends: toward each target rank in the order of R358, the flits of each frame. -/
def exchangeFlits (x : Xch) (esz rank : Nat) (count : Nat → Nat) : List (Nat × List Nat) :=
  (List.range (x.npart - 1)).map fun j =>
    let q := (rank + j + 1) % x.npart
    (q, frameFlits esz (count q))

/-- The carriage of a list of frames toward one package, one after another (R358). -/
def carryAll (tt : List Byte) (phase memb peer xu t : Nat) :
    List (Nat × Nat × Nat) → List Nat → Option (List (Nat × Nat × Nat) × List (LanEntry × Nat × Nat))
  | used, [] => some (used, [])
  | used, f :: fs =>
    match carry tt used phase memb peer xu t f with
    | none => none
    | some (e, sl, z, a) =>
      match carryAll tt phase memb peer xu t (addCarried used e.ix sl) fs with
      | none => none
      | some (u, r) => some (u, (e, z, a) :: r)

/-- The carriage of all frames of a participant: for each target rank its frames' entries, last slots and arrival steps; none
where a frame finds no slot (R358). -/
def State.exchangeCarry (s : State) (g : Gang) (memb : Nat) (x : Xch) (t : Nat) :
    List (Nat × Nat × Nat) → List (Nat × List Nat) →
      Option (List (Nat × Nat × Nat) × List (Nat × List (LanEntry × Nat × Nat)))
  | used, [] => some (used, [])
  | used, (q, fs) :: rest =>
    match carryAll (s.timetable g) g.phase memb (s.memberPkg g (x.parts.getD q 0)) (x.xch + 1) t used fs with
    | none => none
    | some (u, r) =>
      if r.any fun e => s.identDown e.1.lan then none
      else match State.exchangeCarry s g memb x t u rest with
        | none => none
        | some (u', rs) => some (u', (q, r) :: rs)

/-- The elements that a rank sends to each rank under a map. -/
def Stencil.countTo (m : Stencil) (rank q : Nat) : Nat := (m.moves.filter fun v => v.1.1 == rank && v.2.1 == q).length

/-- The exchange record that a slot names, if the issuing member takes part, with its rank (R243). -/
def State.exchangeOf (s : State) (k : Nat) : Option (Xch × Nat) :=
  match (xchRecords s.myTimetable).find? fun x => x.xch == k with
  | none => none
  | some x => match x.parts.idxOf? s.me.member with
    | some r => some (x, r)
    | none => none

/-- The checks that XPOSE and XRED share (R243): the record lists the member, and the issue step is at START. -/
def State.exchangeRun (s : State) (h : Hdr) (k : Nat) (f : Xch → Nat → State) : State :=
  match s.exchangeOf k with
  | none => s.raise h.cls.toNat Cause.collDescriptor k
  | some (x, r) =>
    if s.gangStep % periodOf s.myTimetable ≠ x.start then s.raise h.cls.toNat Cause.collMismatch s.gangStep
    else f x r

/-- XPOSE (R243, R355–R358). A map that is not 64-byte aligned (R355) fails its checks; a buffer outside the window is the
bank-bounds fault of R43 and R356. The map counts among the buffers that XPOSE names and joins (R268): R280 speaks of source and
target only, so it is read as its newest word by choice (log 40). -/
def execXpose (h : Hdr) (o : Xfer) (s : State) : Res :=
  slotRun h s fun s => notInBg h s fun s =>
    let k := o.value h
    s.exchangeRun h k fun x r =>
      let map := (s.s o.d).toNat
      let src := (s.s o.x).toNat
      let dst := (s.s o.y).toNat
      if map % 64 ≠ 0 then s.raise h.cls.toNat Cause.collDescriptor k
      else if !s.arch.inWindow map 192 then s.raise h.cls.toNat Cause.bankBounds map
      else
        let bytes := s.bankBytes s.issue.die s.issue.ctx false true map 192
        let m := readStencil bytes
        if !m.ok x.npart then s.raise h.cls.toNat Cause.collDescriptor k
        else if natOfBytes (shake256 bytes 8) ≠ x.mchk then s.raise h.cls.toNat Cause.collMismatch k
        else if !s.arch.inWindow src (m.extent m.src) then s.raise h.cls.toNat Cause.bankBounds src
        else if !s.arch.inWindow dst (m.extent m.dst) then s.raise h.cls.toNat Cause.bankBounds dst
        else if (s.exchangeCarry s.myGang s.me.member x s.gangStep s.myGang.carried
            (exchangeFlits x m.esz r (m.countTo r))).isNone then s.raise h.cls.toNat Cause.fabricSlot s.gangStep
        else
          let q := newReq h.cls.toNat o.pr.toNat .collective (s.s o.y) (m.extent m.dst)
          s.put h 0 (.exchange k r src dst 0 (some bytes) 0 0 q)

/-- The element format of TY (R244). -/
def xredFmt (ty : Nat) : Fmt := match ty with | 0 => .f32 | 1 => .f64 | 2 => .bf16 | 3 => .i32 | _ => .i64

/-- XRED (R244): every participant sends its elements to every other (log 30). A length that is not a multiple of 64 is a
collective-descriptor fault: Table 9-9 lists no misaligned-access for XRED (log 70). -/
def execXred (h : Hdr) (o : Xfer) (s : State) : Res :=
  slotRun h s fun s => notInBg h s fun s =>
    let k := o.value h
    s.exchangeRun h k fun x r =>
      let src := (s.s o.d).toNat
      let dst := (s.s o.x).toNat
      let n := (s.s o.y).toNat
      if n % 64 ≠ 0 then s.raise h.cls.toNat Cause.collDescriptor k
      else if !s.arch.inWindow src n then s.raise h.cls.toNat Cause.bankBounds src
      else if !s.arch.inWindow dst n then s.raise h.cls.toNat Cause.bankBounds dst
      else
        let esz := (xredFmt (bits 4 2 o.sub.toNat)).width / 8
        if (s.exchangeCarry s.myGang s.me.member x s.gangStep s.myGang.carried
            (exchangeFlits x esz r fun _ => n / esz)).isNone then s.raise h.cls.toNat Cause.fabricSlot s.gangStep
        else
          let q := newReq h.cls.toNat o.pr.toNat .collective (s.s o.x) n
          s.put h 0 (.exchange k r src dst n none (bits 1 0 o.sub.toNat) (bits 4 2 o.sub.toNat) q)

/-! ### Queues and barriers (R247, R252, R253) -/

/-- CQPOST (R247). -/
def execCqpost (h : Hdr) (o : Xfer) (s : State) : Res :=
  slotRun h s fun s =>
    let hd := (s.s o.x).toNat
    let b := (s.s o.y).toNat
    if hd % 64 ≠ 0 then s.raise h.cls.toNat Cause.misaligned hd
    else if b % 64 ≠ 0 then s.raise h.cls.toNat Cause.misaligned b
    else if !s.arch.inWindow b 64 then s.raise h.cls.toNat Cause.bankBounds b
    else
      let n := s.atomicsSoFar
      if s.logFull n then s.raise h.cls.toNat Cause.atomicLog hd
      else
        let pkt := s.readBank false b 64
        (s.afterRead.put h 0 (.logAtomic n)).startReq h
          (newReq h.cls.toNat o.pr.toNat (.claim o.d.toNat pkt n) (s.s o.x) 64)

/-- The two words that BARINIT writes (R252). -/
def barrierWords (v : Word) : List Byte :=
  let x := v.toNat % 2 ^ 63
  bytesOfNat 8 x ++ bytesOfNat 8 x

/-- BARINIT (R252). -/
def execBarinit (h : Hdr) (o : Xfer) (s : State) : Res :=
  slotRun h s fun s =>
    let a := s.s o.x
    let pr := o.pr.toNat
    if a.toNat % 16 ≠ 0 then s.raise h.cls.toNat Cause.misaligned a.toNat
    else if bit 63 a.toNat then
      match s.bankCheck a 16 with
      | some c => s.raise h.cls.toNat c a.toNat
      | none => s.startReq h (newReq h.cls.toNat pr (.barinit (s.s o.y)) a 16)
    else s.deferWith h pr a (granuleWrites false false false a.toNat (barrierWords (s.s o.y))) 16

/-- BARARR (R253). -/
def execBararr (h : Hdr) (o : Xfer) (s : State) : Res :=
  slotRun h s fun s =>
    let a := s.s o.x
    let go := fun (s : State) => (s.put h 0 (.arrive { addr := a, value := s.s o.y, scope := o.scope })).startReq h
      (newReq h.cls.toNat o.pr.toNat .enqueue a 16)
    if a.toNat % 16 ≠ 0 then s.raise h.cls.toNat Cause.misaligned a.toNat
    else if bit 63 a.toNat then
      match s.bankCheck a 16 with
      | some c => s.raise h.cls.toNat c a.toNat
      | none => go s
    else go s

/-! ### Operand queue (R33, R254) -/

/-- The die paired with a die (R2). -/
def pairOf (d : Nat) : Nat := (d + 4) % 8

/-- OQPUSH (R254). -/
def execOqpush (h : Hdr) (o : Xfer) (s : State) : Res :=
  slotRun h s fun s =>
    let m := s.ctx (pairOf s.issue.die) s.issue.ctx
    if m.run = .absent then s.raise h.cls.toNat Cause.ownership s.issue.die
    else if 64 ≤ m.arch.oq.length then s.holdOrTrap h.cls.toNat Cause.queueOverflow 2
    else s.put h 0 (.oqPush (s.s o.x))

/-- OQPOP (R254, R33). -/
def execOqpop (h : Hdr) (o : Xfer) (s : State) : Res :=
  slotRun h s fun s =>
    match s.arch.oq with
    | [] => s.raise h.cls.toNat Cause.queueUnderflow 2
    | e :: _ =>
      if e.poppable then (s.put h 0 .oqPop).put h 1 (.s o.d.toNat e.value)
      else s.holdOrTrap h.cls.toNat Cause.timing 3

/-! ### Lantern power, phase, re-base (R255–R257) -/

/-- A Lantern request: the Lantern must stand in the gang's timetable (R255). -/
def lanternSlot (h : Hdr) (o : Xfer) (wake : Bool) (s : State) : State :=
  notInBg h s fun s =>
    let l := (s.s o.x).toNat
    if 14 ≤ l ∨ !((lanEntries s.myTimetable).any fun e => e.lan == l) then
      s.raise h.cls.toNat Cause.ownership s.issue.die
    else s.put h 0 (.lantern l (s.s o.y) wake (if wake && bit 0 o.sub.toNat then some (s.s o.z).toNat else none))

/-- LPARK (R255). -/
def execLpark (h : Hdr) (o : Xfer) (s : State) : Res := slotRun h s (lanternSlot h o false)

/-- LWAKE (R255). -/
def execLwake (h : Hdr) (o : Xfer) (s : State) : Res := slotRun h s (lanternSlot h o true)

/-- TTSEL (R256). -/
def execTtsel (h : Hdr) (o : Xfer) (s : State) : Res :=
  slotRun h s fun s =>
    let p := (s.s o.x).toNat
    let g := s.myGang
    if p < phasesOf (s.timetable g) then
      (s.put h 0 (.selectPhase p)).put h 1 (.s o.d.toNat (BitVec.ofNat 64 g.phase))
    else s.put h 1 (.s o.d.toNat (BitVec.allOnes 64))

/-- RESYNC (R257): it waits from its presentation until the release, and lands the periods added. -/
def execResync (h : Hdr) (o : Xfer) (s : State) : Res :=
  slotRun h s fun s => notInBg h s fun s =>
    match s.me.resynced with
    | some m => s.put h 1 (.s o.d.toNat m)
    | none => (s.modCtx s.issue.die s.issue.ctx fun x => { x with atResync := some (s.s o.x) }).holdGroup

end Sys2Proof.Machine
end

