-- ==== Sys2Proof/Machine/Elastic.lean ====
section
/-!
DEFINITION. Elastic requests that leave the package: forwarding entries, elastic slots, frames toward other modules,
requests toward the host (R327, R343, R348–R350, R353).
-/

namespace Sys2Proof

/-- Data flits of a frame. -/
def Frame.dataFlits (f : Frame) : Nat := ceilDiv f.data.length 64

/-- Flits of a frame with its header. -/
def Frame.flits (f : Frame) : Nat := 1 + f.dataFlits

/-- The compute die that a frame for this package goes to: that of its header, or of its domain address (R354). -/
def Frame.target (f : Frame) : Nat := if f.dstDie < 8 then f.dstDie else if 3 ≤ f.kind ∧ f.kind ≤ 5 then bits 38 36 f.addr else 8

/-- The directed edges from the port die at which a frame came to its compute die. -/
def Frame.way (f : Frame) (port : Nat) : List Nat := if f.target < 8 then Machine.fromPort port f.target else []

/-- A frame that asks for a reply: an elastic read, write or atomic, or a row request (Table 13-7). -/
def Frame.isRequest (f : Frame) : Bool := f.kind == 3 || f.kind == 4 || f.kind == 5 || f.kind == 7

/-- Two elastic frames belong to one request stream. -/
def Frame.sameStream (f g : Frame) : Bool := g.srcPkg == f.srcPkg && g.srcDie == f.srcDie && g.dstPkg == f.dstPkg && 3 ≤ g.kind

end Sys2Proof

namespace Sys2Proof.Machine

/-! ### Belfry time (R336) -/

/-- What another package asks is done only while this one takes part in the domain (R336). -/
def State.inDomain (s : State) (f : State → Res) : Res := if s.belfryOn then f s else .next s

/-- A frame that came over a Lantern is taken only while the package takes part in the domain (R336). -/
def State.fromDomain (s : State) (f : Frame) (g : State → Res) : Res := if f.port.isSome then s.inDomain g else g s

/-! ### Frame kinds (Table 13-7) -/

namespace FrameKind
def send : Nat := 1
def exchange : Nat := 2
def read : Nat := 3
def write : Nat := 4
def atomic : Nat := 5
def reply : Nat := 6
def rowRequest : Nat := 7
def rowReply : Nat := 8
def status : Nat := 9
end FrameKind

/-- Change of a link identity. -/
def State.modLantern (s : State) (i : Nat) (f : Lantern → Lantern) : State :=
  { s with lanterns := tmod s.lanterns i f }

/-- The link identity. -/
def State.lantern (s : State) (i : Nat) : Lantern := tget s.lanterns i default

/-- The entries of the base timetable of an identity. -/
def State.baseEntries (s : State) (ident : Nat) : List LanEntry :=
  match s.baseTT.find? fun b => b.1 == ident with
  | some b => (b.2.mapIdx fun i e => lanEntry i e.toNat)
  | none => []

/-- A gang holds its timetable's slots: it is placed, its start is fixed, and it has not been saved (R294, R302, R343). -/
def Gang.holdsSlots (g : Gang) : Bool :=
  g.state != .saved && g.state != .aborted && !(g.state == .placing && g.startAt == 0)

/-- The entries of a gang's timetable for its members here on an identity (R341). -/
def State.gangEntries (s : State) (g : Gang) (ident : Nat) : List LanEntry :=
  (lanEntries (s.timetable g)).filter fun e => e.lan == ident && g.members.any fun m => m.ix == e.memb

/-- The period of a gang's timetable in slots. -/
def State.gangSlots (s : State) (g : Gang) : Nat := periodSlots (s.timetable g)

/-- The placed gangs' entries of an identity in their present phases, with the gang and its period in slots (R343). -/
def State.heldEntries (s : State) (ident : Nat) : List (Nat × Nat × LanEntry) :=
  (s.gangs.filter Gang.holdsSlots).flatMap fun g =>
    ((s.gangEntries g ident).filter fun e => e.phase == g.phase).map fun e => (g.id, s.gangSlots g, e)

/-- The phase of a gang that is in force in a slot to come: the one it has, up to the period boundary at which it takes another
(R256). -/
def State.phaseIn (s : State) (g : Gang) (slot : Nat) : Nat :=
  if (s.bel / 64 / s.gangSlots g + 1) * s.gangSlots g ≤ slot then g.nextPhase.getD g.phase else g.phase

/-- The placed gangs' transmit entries of an identity in the phases that are in force in a slot. -/
def State.entriesIn (s : State) (ident slot : Nat) : List (Nat × Nat × LanEntry) :=
  (s.gangs.filter Gang.holdsSlots).flatMap fun g =>
    ((s.gangEntries g ident).filter fun e => e.phase == s.phaseIn g slot && !e.receive).map fun e => (g.id, s.gangSlots g, e)

/-- The circuits of a gang's present phase go to the optical circuit switches (R343). -/
def State.tellCircuits (s : State) (gid : Nat) : State :=
  match s.gang? gid with
  | none => s
  | some g =>
    let es := (List.range 14).flatMap fun i => (s.gangEntries g i).filter fun e => e.phase == g.phase && e.cls ≤ 1
    if es.isEmpty then s
    else { s with control := s.control ++ [.circuits gid (es.map fun e => (e.lan, e.receive, e.fib, e.peer, e.plan))] }

/-- An entry holds an absolute slot under a period. -/
def LanEntry.holds (e : LanEntry) (period slot : Nat) : Bool :=
  e.start ≤ slot % period && slot % period ≤ e.start + e.run

/-- The next absolute slot at or after one that an entry holds under a period. -/
def LanEntry.next (e : LanEntry) (period slot : Nat) : Nat :=
  if e.holds period slot then slot else slot + (e.start + period - slot % period) % period

/-- Two entries face different far ends. -/
def LanEntry.differs (a b : LanEntry) : Bool := a.peer != b.peer || a.plan != b.plan

/-- Slots since the last slot of an entry before a slot, under its period. -/
def LanEntry.since (e : LanEntry) (period slot : Nat) : Nat := (slot + period - (e.start + e.run) % period - 1) % period

/-- The run of a placed gang on a fibre that a run which begins in a slot follows. -/
def runBefore (held : List (Nat × Nat × LanEntry)) (f slot : Nat) : Option LanEntry :=
  ((held.filter fun p => p.2.2.cls ≤ 1 && bit f p.2.2.fib).foldl (fun (m : Option (Nat × LanEntry)) p =>
    let n := p.2.2.since p.2.1 slot
    match m with
    | some y => if n < y.1 then some (n, p.2.2) else some y
    | none => some (n, p.2.2)) none).map (·.2)

/-- A base slot on a fibre is one of the four guard slots before a run of a gang: a run that faces another far end than the base entry,
or than the run of a gang that it follows (R343). -/
def State.guards (s : State) (i : Nat) (e : LanEntry) (x f : Nat) : Bool :=
  [1, 2, 3, 4].any fun j => (s.entriesIn i (x + j)).any fun p =>
    p.2.2.cls ≤ 1 && bit f p.2.2.fib && (x + j) % p.2.1 == p.2.2.start &&
    (p.2.2.differs e || (runBefore (s.entriesIn i x) f (x + j)).any p.2.2.differs)

/-- The fibres of a base entry that follow it in a slot: those on which no placed gang holds the slot, nor makes it one of the
four guard slots before its run (R343). -/
def State.baseFibres (s : State) (i : Nat) (e : LanEntry) (x : Nat) : Nat :=
  let held := s.entriesIn i x
  ((List.range 8).filter fun f => bit f e.fib && !(held.any fun p => p.2.2.holds p.2.1 x && bit f p.2.2.fib) && !s.guards i e x f).map
    (2 ^ ·) |>.sum

/-- The fibres over which an identity carries elastic flits toward a next hop in an absolute slot (R343). -/
def State.elasticFibres (s : State) (i peer slot : Nat) : Nat :=
  let held := s.heldEntries i
  let ok := fun (e : LanEntry) => e.cls == 1 && !e.receive && e.peer == peer
  let gangs := held.foldl (fun n p => if ok p.2.2 && p.2.2.holds p.2.1 slot then n ||| p.2.2.fib else n) 0
  (s.baseEntries i).foldl (fun n e => if ok e && e.holds 65536 slot then n ||| s.baseFibres i e slot else n) gangs

/-- Bytes in a count over fibres with the groups that are woken on them and named (R337, R338). -/
def Lantern.rate (l : Lantern) (fibres groups : Nat) : Nat :=
  20 * (((List.range 8).filter fun f => bit f fibres).map fun f => popCount 8 (l.woken.toNat / 2 ^ (8 * f) % 256 &&& groups)).sum

/-- The earliest slot from an absolute slot on in which an elastic entry of the identity faces a next hop, where no placed
gang holds the base slot. -/
def State.elasticSlot (s : State) (ident peer slot : Nat) : Option Nat :=
  let held := s.heldEntries ident
  let gangs := (held.filter fun p => p.2.2.cls == 1 && !p.2.2.receive && p.2.2.peer == peer).map fun p => p.2.2.next p.2.1 slot
  let base := ((s.baseEntries ident).filter fun e => e.cls == 1 && !e.receive && e.peer == peer).filterMap fun e =>
    let from_ := e.next 65536 slot
    ((List.range (e.run + 1)).map fun i => from_ + i).find? fun x =>
      e.holds 65536 x && s.baseFibres ident e x != 0
  (gangs ++ base).foldl (fun m x => match m with | none => some x | some y => some (Nat.min x y)) none

/-- The slot in which a flit leaves that has bytes ahead of it toward its next hop, from a count on: slots with an elastic entry
toward it are filled at the width now woken; one without a woken group is not passed over (R349, R353). -/
def State.slotBehind (s : State) (i peer : Nat) : Nat → Nat → Nat → Option Nat
  | 0, count, _ => s.elasticSlot i peer (count / 64)
  | n + 1, count, ahead =>
    match s.elasticSlot i peer (count / 64) with
    | none => none
    | some x =>
      let counts := if x = count / 64 then 64 - count % 64 else 64
      let cap := counts * (s.lantern i).rate (s.elasticFibres i peer x) 255
      if ahead < cap ∨ cap = 0 then some x else State.slotBehind s i peer n (64 * (x + 1)) (ahead - cap)

/-- Bytes that wait on an identity for elastic slots toward a next hop. -/
def Lantern.ahead (l : Lantern) (peer : Nat) : Nat :=
  ((l.txq.filter fun x => x.peer == peer && (!x.timed || x.seq.isSome)).map fun x => x.left).sum

/-- The slot in which the header flit of a frame that joins an identity's queue now would leave (R349). -/
def State.headerSlot (s : State) (i peer : Nat) : Option Nat :=
  let n := (s.lantern i).ahead peer
  s.slotBehind i peer (n / 1280 + 2) (s.bel + 1) n

/-- The identity and slot in which a frame toward a next hop leaves: the earliest slot, the lowest identity (R349). -/
def State.departure (s : State) (mask peer : Nat) : Option (Nat × Nat) :=
  ((List.range 14).filter fun i => bit i mask && s.identServes i).foldl (fun m i =>
    match s.headerSlot i peer, m with
    | none, m => m
    | some x, none => some (x, i)
    | some x, some (y, j) => if x < y then some (x, i) else some (y, j)) none

/-- A forwarded frame leaves the receive buffer that held it. -/
def State.leaveBuffer (s : State) (f : Frame) : State :=
  match s.transit.find? fun t => t.2 == f with
  | none => s
  | some t =>
    let s := { s with transit := s.transit.eraseP fun (x : Nat × Frame) => x.2 == f }
    s.modLantern t.1 fun l => { l with rxBytes := l.rxBytes - 64 * f.flits }

/-- Bytes queued for elastic transmission, those of replays among them (R353). -/
def Lantern.queued (l : Lantern) : Nat := ((l.txq.filter fun x => !x.timed || x.seq.isSome).map fun x => x.left).sum

/-- The armed threshold of an identity is met by its elastic queue: the wake starts within 64 counts (R353). -/
def State.armedCheck (s : State) (i : Nat) : State :=
  let l := s.lantern i
  match l.armed with
  | some (mask, thr) =>
    if thr ≤ l.queued then
      let (k, s) := s.freeBelow 65
      (s.modLantern i fun l => { l with armed := none, firing := l.firing ||| mask }).schedule (s.now + k) phStart (.ev (.armedWake i))
    else s
  | none => s

/-- A flit completes an elastic frame of the stream of another one. -/
def TxFlit.ofStream (f : Frame) (x : TxFlit) : Bool :=
  match x.tail with
  | some (.frame g) => f.sameStream g
  | _ => false

/-- The identity in service on which frames of the same stream wait (R349). -/
def State.streamIdent (s : State) (f : Frame) : Option Nat :=
  (List.range 14).find? fun i => s.identServes i && (s.lantern i).txq.any (TxFlit.ofStream f)

/-- The identity that a frame toward a next hop takes: that of its stream; none where an earlier frame of the stream still looks for
one. -/
def State.chooseIdent (s : State) (e : FwdEntry) (f : Frame) : Option Nat :=
  if s.waitingOut.any f.sameStream then none
  else match s.streamIdent f with
    | some i => some i
    | none => (s.departure e.mask e.nextHop).map (·.2)

/-- The flits of a frame of n flits in all, the last of which completes it. -/
def txFlits (x : TxFlit) (n : Nat) (t : TxTail) : List TxFlit := List.replicate (n - 1) x ++ [{ x with tail := some t }]

/-- Flits join the queue of an identity. -/
def State.queueFlits (s : State) (i : Nat) (xs : List TxFlit) : State :=
  (s.modLantern i fun l => { l with txq := l.txq ++ xs }).armedCheck i

/-- The flits of an elastic frame. -/
def elasticFlits (job peer from_ : Nat) (f : Frame) : List TxFlit :=
  txFlits { job := job, timed := false, peer := peer, run := none, any := false, from_ := from_, left := 64, seq := none, coll := none,
            tail := none } f.flits (.frame f)

/-- A frame joins the queue of the identity that carries it, and leaves from the next count on; without an elastic slot toward its
next hop it waits. -/
def State.enqueueFrame (s : State) (e : FwdEntry) (f : Frame) : State :=
  match s.chooseIdent e f with
  | none => { s with waitingOut := s.waitingOut ++ [f] }
  | some i =>
    let (job, s) := s.fresh
    let s := s.queueFlits i (elasticFlits job e.nextHop (s.bel + 1) f)
    if f.isRequest && f.srcPkg == s.pkg.toNat then
      { s with elastic := s.elastic.map fun (r : Elastic) => if r.id = f.chan then { r with via := some (i, e.nextHop) } else r }
    else s

/-- A forwarding entry that can carry a frame: present, with an identity in service (R350). -/
def State.forwardEntry (s : State) (pkg : Nat) : Option FwdEntry :=
  match s.fwd.find? fun e => e.pkg == pkg with
  | none => none
  | some e => if (List.range 14).any fun i => bit i e.mask && s.identServes i then some e else none

/-- The status frame that ends a request with PATH-LOST (R350). -/
def pathLost (f : Frame) (pkg hop : Nat) : Frame :=
  { f with kind := FrameKind.status, hop := 0, srcPkg := pkg, srcDie := 8, dstPkg := f.srcPkg, dstDie := f.srcDie,
           addr := pkg % 2 ^ 10 + hop % 2 ^ 6 * 2 ^ 10, data := [] }

/-- A frame of this package toward another module; the requester's own port die ends a request that it cannot pass on, and an
answer without a way is lost. -/
def State.sendOut (s : State) (f : Frame) : State :=
  match s.forwardEntry f.dstPkg with
  | some e => s.enqueueFrame e f
  | none => if f.isRequest then s.schedule (s.now + 1) phEnd (.ev (.statusFrame (pathLost f s.pkg.toNat 0))) else s

/-- A request of a die that awaits a reply. -/
def State.request (s : State) (d : Nat) (who : Awaits) (pkg kind addr op : Nat) (data : List Byte) : State :=
  let (id, s) := s.fresh
  let s := { s with elastic := s.elastic ++ [({ id := id, who := who, pkg := pkg, host := false, sent := s.bel, via := none } : Elastic)] }
  let s := s.schedule (s.now + Config.pathLostCounts) phEnd (.ev (.pathLostTimeout id))
  let f : Frame := { kind := kind, hop := 0, srcPkg := s.pkg.toNat, srcDie := d, dstPkg := pkg, dstDie := 8, chan := id,
                     seq := 0, addr := addr, gang := 0, op := op, data := data }
  s.sendOut f

/-- A read of host memory; its completion comes from the host (R327). -/
def State.hostRead (s : State) (who : Awaits) (addr size : Nat) : State :=
  let (id, s) := s.fresh
  { s with elastic := s.elastic ++ [({ id := id, who := who, pkg := 0, host := true, sent := s.bel, via := none } : Elastic)],
           hostOut := s.hostOut ++ [.read id addr size] }

/-- A posted write to host memory: it performs when the root complex accepts it (R275). -/
def State.hostWrite (s : State) (addr : Nat) (data : List Byte) : State := { s with hostOut := s.hostOut ++ [.write addr data] }

/-- A vector is masked: MSI-X is not enabled, or the function or the vector is masked (R363; log 71). -/
def State.vectorMasked (s : State) (n : Nat) : Bool :=
  !s.msixOn || s.msixAll || (Mem.byte s.msixTable (16 * n + 12)).getLsbD 0

/-- An interrupt message of the package (R363): sent, or pending while its vector is masked. -/
def State.msix (s : State) (v : Option Nat) : State :=
  match v with
  | some n =>
    if s.vectorMasked n then { s with msixPend := s.msixPend ||| ((1 : BitVec 64) <<< n) }
    else { s with hostOut := s.hostOut ++ [.msix n] }
  | none => s

/-- Atomic operation codes of elastic atomic frames (log 9). -/
def AtomOp.code : AtomOp → Nat
  | add => 0 | inc => 1 | cas => 2 | xchg => 3

/-- The operation of a frame: 0 to 3 an atomic, 4 a claim, 5 an arrival, 6 and 7 a float and a wide cell; the size in
[15:8], F of a wide cell in [23:16]. -/
def opWord (code size f : Nat) : Nat := code + size * 2 ^ 8 + f * 2 ^ 16

end Sys2Proof.Machine
end

