-- ==== Sys2Proof/Machine/Access.lean ====
section
/-!
DEFINITION. What becomes of a started access: scalar translated reads, atomics and claims, TDMA and RLD granules, promised
landings (R41, R120–R124, R230–R237, R247).
-/

namespace Sys2Proof.Machine

/-! ### Steps of a value (R313) -/

/-- Steps from a request's issue to the end of this count, seen before the contexts' landings. -/
def Ctx.stepsBefore (x : Ctx) (step : Nat) : Nat := x.steps + b2n x.stepped - (step + 1)

/-- The same, seen after them. -/
def Ctx.stepsAfter (x : Ctx) (step : Nat) : Nat := x.steps - (step + 1)

/-- A landing that falls n steps after the step now ending, at once for n = 0 (`gstep` 1); class 16 lands after every other of
its step, class 0 of birth 0 before every other. -/
def replayLanding (act : Act) (n cls : Nat) : Landing :=
  { act := act, rem := n - 1, cls := cls, born := 0, gstep := b2n (n == 0) }

/-! ### Promise steps (Table 5-3) -/

/-- The PSTEP of a scalar access to a home, issued at a count from a die. -/
def State.homeStep (s : State) (d : Nat) (h : Home) (t : Nat) : Nat :=
  match h with
  | .stack n off =>
    let p := match s.placeOf n off with
      | .ok p => p
      | .error _ => (n, off)
    firstScalar (channelOf p.2) (t + 4) + 64 + 40 * hops d p.1
  | .bank k _ => t + 4 + 40 * hops d k
  | _ => t + 8192

/-- The row of Table 5-3 that an address's output under a held entry falls in, whether or not the access then faults. -/
def State.outputHome (s : State) (l : Leaf) (va : Nat) : Home :=
  let a := l.out + va % l.size
  let place := Home.stack (bits 38 36 a) (bits 35 0 a)
  if l.tgt = 0 ∧ a < 2 ^ 39 then place
  else if l.tgt = 1 ∧ bits 57 48 a = s.pkg.toNat ∧ bits 46 39 a = 0 then
    if bit 47 a then .bank (bits 38 36 a) (bits 35 0 a) else place
  else .host a

/-- The PSTEP of a translated address: by the leaf entry that the slices hold, else the issue count + 8,192. -/
def State.addrStep (s : State) (d asid va t : Nat) : Nat :=
  if 2 ^ 57 ≤ va then t + 8192
  else match s.sliceEntry d asid va with
    | none => t + 8192
    | some l => s.homeStep d (s.outputHome l va) t

/-! ### Landing of promised values (R121) -/

/-- The value of an LDH or atomic as its register takes it. -/
def Req.landed? (r : Req) : Option (Nat × Word) :=
  match r.kind, r.value with
  | .ldh d sx, some v => some (d, extendMem sx r.size v)
  | .atomic _ _ _ d _, some v => some (d, BitVec.ofNat 64 v)
  | .claim d _ _, some v => some (d, BitVec.ofNat 64 v)
  | _, _ => none

/-- PROMISED_VALUE_LANDING (R121): after every other landing of the count; nothing where the context has gone. -/
def execPromisedValueLanding (d c id : Nat) (s : State) : Res :=
  let x := s.ctx d c
  match x.req? id with
  | none => .next s
  | some r =>
    if x.run = .absent ∨ x.run = .stopped ∨ r.landed then .next s
    else match r.landed? with
      | none => .next s
      | some (n, w) =>
        let s := s.modCtx d c fun x => x.landS n w
        let s := s.modReq d c id fun r => { r with landed := true }
        .next (s.fillStage d c r.stage (r.value.getD 0) (x.stepsAfter r.step))

/-- The value of a request is known and its transfer complete at this count: it lands at PSTEP; a later completion lands at
once in guarded mode and never in exposed mode (R121). -/
def State.finishValue (s : State) (d c id v : Nat) : State :=
  match (s.ctx d c).req? id with
  | none => s
  | some r =>
    let s := (s.modReq d c id fun r => { r with value := some v }).reqDone d c id
    if pastStep s.bel r.pstep then
      if r.replayed || (s.ctx d c).arch.guarded then s.schedule s.now phPromise (.ev (.promisedValueLanding d c id))
      else s.modReq d c id fun r => { r with landed := true }
    else s.scheduleBel (s.bel + (r.pstep - s.bel)) phPromise (.ev (.promisedValueLanding d c id))

/-! ### Scalar reads (R121) -/

/-- LDH, an atomic on a translated word, or a claim. -/
def Req.scalar (r : Req) : Bool :=
  match r.kind with
  | .ldh _ _ => true
  | .atomic .. => !bit 63 r.addr.toNat
  | .claim .. => true
  | _ => false

/-- A scalar request goes to its home from this count: at its burst slot, within a window of a bank, or elastically. -/
def State.launchAt (s : State) (d c : Nat) (r : Req) (h : Home) (from_ : Nat) (perform : Micro) (finish : Micro)
    (remote : Nat → State → State) (host : Nat → State → State) : State :=
  let s := s.modReq d c r.id fun r => { r with home := some h }
  match h with
  | .stack n off =>
    match s.placeOf n off with
    | .error code => s.reqPoison d c r.id code r.addr.toNat
    | .ok p => s.askScalar { key := [r.issued, d, c, r.cls], stack := p.1, channel := channelOf p.2, from_ := from_, slot := none,
                             work := some (d, perform, finish) }
  | .bank k _ =>
    let span := 3 + 40 * hops d k
    let (j, s) := s.freeBelow span
    let at_ := s.bel + 1 + span
    (s.scheduleBel (s.bel + 1 + j) phEdge perform).scheduleBel (at_ + s.lateBy (roundTrip d k) at_) phEdge finish
  | .remote pkg a => remote pkg (s.modReq d c r.id fun q => { q with bank := a })
  | .host a => host a s

/-- An LDH goes to its home. -/
def State.launchLdh (s : State) (d c : Nat) (r : Req) (h : Home) : State :=
  s.launchAt d c r h (max (r.issued + 4) s.bel) (.read d c r.id) (.done d c r.id)
    (fun pkg s => match h with
      | .remote _ a => s.request d (.req d c r.id) pkg FrameKind.read a r.size []
      | _ => s)
    (fun a s => s.hostRead (.req d c r.id) a r.size)

/-- The operation word of an atomic or claim toward another home. -/
def Req.opCode (r : Req) : Nat :=
  match r.kind with
  | .atomic op _ _ _ _ => opWord op.code r.size 0
  | _ => opWord 4 r.size 0

/-- Its operands as bytes. -/
def Req.operandBytes (r : Req) : List Byte :=
  match r.kind with
  | .atomic _ y z _ _ => bytesOfNat 8 y.toNat ++ bytesOfNat 8 z.toNat
  | _ => []

/-- The place of a request in the atomic log. -/
def Req.logIx (r : Req) : Option Nat :=
  match r.kind with
  | .atomic _ _ _ _ n => some n
  | .claim _ _ n => some n
  | _ => none

/-- What the log holds of a request's atomic. -/
def Ctx.logged (x : Ctx) (r : Req) (e : AtomEntry) : Ctx :=
  match r.logIx with
  | some n => { x with atomLog := x.atomLog.set n e }
  | none => x

/-- A translated atomic or claim goes to its home; from then on it performs whatever becomes of its region (R124). -/
def State.launchAtomic (s : State) (d c : Nat) (r : Req) (h : Home) : State :=
  let s := s.modCtx d c fun x => ({ x with sentAtomics := x.sentAtomics ++ [{ r with home := some h, asid := x.asid }] }).logged r .sent
  s.launchAt d c r h (max (r.issued + 4) s.bel) (.ev (.atomicPerform d c r.id)) (.ev (.atomicValueReturn d c r.id))
    (fun pkg s => match h with
      | .remote _ a => s.request d (.atomic d c r.id) pkg FrameKind.atomic a r.opCode r.operandBytes
      | _ => s)
    (fun a s =>
      let (id, s) := s.fresh
      let y := natOfBytes (r.operandBytes.take 8)
      let z := natOfBytes (r.operandBytes.drop 8)
      { s with elastic := s.elastic ++ [({ id := id, who := .atomic d c r.id, pkg := 0, host := true, sent := s.bel, via := none } : Elastic)],
               hostOut := s.hostOut ++ [.atomic id a (r.opCode % 256) r.size y z] })

/-- An earlier scalar access of a context to the same aligned 8-byte word is still to go to its home. -/
def Ctx.waitsFor (x : Ctx) (r : Req) : Bool :=
  x.reqs.any fun q => q.id < r.id && q.scalar && q.addr.toNat / 8 == r.addr.toNat / 8 && q.home.isNone && !q.ended && !q.replayed

/-- A scalar request is translated: by the slices at once, else after a walk of free length (R121, R328). It follows the
earlier accesses of its context to the same word (R271). -/
def State.tryScalar (s : State) (d c : Nat) (r : Req) : State :=
  let atomic := match r.kind with | .ldh _ _ => false | _ => true
  match s.lookup d (s.ctx d c).asid r.addr.toNat true atomic with
  | .home h =>
    if (s.ctx d c).waitsFor r || (!h.inside && !(s.storesAhead d c h).isEmpty) then s.laterOn (.launch d c r.id)
    else if atomic then s.launchAtomic d c r h else s.launchLdh d c r h
  | .fault code => s.reqPoison d c r.id code r.addr.toNat
  | .miss =>
    let (k, s) := (Config.freeNat s.free, { s with free := s.free + 1 })
    s.schedule (s.now + 1 + k) phStart (.ev (.translationWalk d (s.ctx d c).asid r.addr.toNat))

/-- A request still waits for its translation. -/
def Req.untranslated (r : Req) : Bool := r.home.isNone && !r.ended && !r.replayed && r.value.isNone && r.scalar

/-- A request that waited for an earlier one goes to its home. -/
def State.relaunch (s : State) (d c id : Nat) : State :=
  match (s.ctx d c).req? id with
  | some r => if r.untranslated then s.tryScalar d c r else s
  | none => s

/-- TRANSLATION_WALK (R328): the entry fills a slice and the requests that wait for its page go on; or their fault is
found. -/
def execTranslationWalk (d asid va : Nat) (s : State) : Res :=
  let waiting := (List.range 3).flatMap fun c =>
    let x := s.ctx d c
    if x.asid = asid then
      (x.reqs.filter fun r => r.untranslated && !bit 63 r.addr.toNat && r.addr.toNat / 65536 == va / 65536).map fun r => (c, r)
    else []
  let s := s.perfEvent d 0x09 (waiting.head?.map (·.1)) 1
  match s.walk asid va with
  | .ok l => .next (waiting.foldl (fun s p => s.tryScalar d p.1 p.2) (s.fillSlice d l))
  | .error code => .next (waiting.foldl (fun s p => s.reqPoison d p.1 p.2.id code p.2.addr.toNat) s)

/-- The bytes that deferred STHs of the region supply over those read (R122). -/
def Req.withOver (r : Req) (v : Nat) : Nat :=
  natOfBytes ((List.range r.size).map fun i => (r.overBy.getD i none).getD (BitVec.ofNat 8 (v >>> (8 * i))))

/-- The transfer of an LDH completes; or a TDMA dir=out has read its last bytes, at the end of that count (R235). -/
def State.doneReq (s : State) (d c id : Nat) : State :=
  match (s.ctx d c).req? id with
  | none => s
  | some r =>
    if r.kind = .tdmaOut then (s.modReq d c id fun r => { r with landed := true }).reqDone d c id
    else match r.value with
    | none => s
    | some v =>
      if r.ended then s
      else
        let w := r.withOver v
        let steps := (s.ctx d c).stepsBefore r.step + (r.pstep - s.bel)
        (s.fillStage d c r.stage w steps).finishValue d c id w

/-! ### Atomics and claims (R123, R124, R247) -/

/-- The word that an atomic leaves; none where it writes nothing. -/
def atomNew (op : AtomOp) (size old y z : Nat) : Option Nat :=
  match op with
  | .add => some ((old + y) % 2 ^ (8 * size))
  | .inc => some ((old + 1) % 2 ^ (8 * size))
  | .cas => if old = y then some z else none
  | .xchg => some y

/-- An atomic at a home of the package: the value returned, or the fault. -/
def State.atomAt (s : State) (h : Home) (op : AtomOp) (size y z : Nat) : Except Nat (State × Nat) :=
  match s.readHome h size with
  | .error c => .error c
  | .ok old =>
    match atomNew op size old y z with
    | some n => .ok (s.writeHome h (bytesOfNat size n), old)
    | none => .ok (s, old)

/-- All ones: the answer of a full queue. -/
def fullAnswer : Nat := 2 ^ 64 - 1

/-- The ring slot that a claim on a registered queue takes is watched until its packet is written (R281, log 64). -/
def State.noteClaim (s : State) (h : Home) (slot : Nat) : State :=
  match s.queues.find? fun y => (s.reachPort y.asid y.header true false).toOption.any (s.samePlace h) with
  | some y => match s.reachPort y.asid slot true false with
    | .ok g => if g.inside then { s with claimed := s.claimed ++ [g] } else s
    | .error _ => s
  | none => s

/-- A claim at the home of a queue header: the index or the full answer, the ring and its size (R247). -/
def State.claimAt (s : State) (h : Home) : Except Nat (State × Nat × Nat × Nat) :=
  match s.readHome h 64 with
  | .error c => .error c
  | .ok hd =>
    let w := bits 63 0 hd
    let rix := bits 127 64 hd
    let lsz := bits 135 128 hd
    let ring := bits 255 192 hd
    if 2 ^ lsz ≤ (w + 2 ^ 64 - rix) % 2 ^ 64 then .ok (s, fullAnswer, ring, lsz)
    else .ok ((s.writeHome h (bytesOfNat 8 (w + 1))).noteClaim h ((ring + 64 * (w % 2 ^ lsz)) % 2 ^ 64), w, ring, lsz)

/-- The value of an atomic reaches the request that waits for it: a claim defers its packet, with SEQ, to its ring slot
(R247). -/
def State.deliverAtomic (s : State) (d c : Nat) (r : Req) (v ring lsz : Nat) : State :=
  match r.kind with
  | .claim _ pkt _ =>
    if v = fullAnswer then s.finishValue d c r.id v
    else
      let bytes := bytesOfNat 4 (v % 2 ^ 32) ++ pkt.drop 4
      let s := s.addDeferred d c r.cls r.gstep (granuleWrites false false true ((ring + 64 * (v % 2 ^ lsz)) % 2 ^ 64) bytes)
      let s := match s.reach d (some c) (s.ctx d c).asid r.addr.toNat true true with
        | (s, .ok h) => s.modCtx d c fun x => { x with posted := x.posted ++ [(h, v, false)] }
        | (s, .error _) => s
      s.finishValue d c r.id v
  | _ => s.finishValue d c r.id v

/-- An atomic on a word of the context's own bank wall: at the issue count + 4, with a before-image (R123). A word not yet
joined reads as one of its values, as to every other linear read (R268). -/
def State.bankAtomic (s : State) (d c : Nat) (r : Req) : State :=
  match r.kind with
  | .atomic op y z _ _ =>
    let a := r.addr.toNat % 2 ^ 28
    let old := natOfBytes (s.bankBytes d c false false a r.size)
    let s := s.afterRead
    let s := match atomNew op r.size old y.toNat z.toNat with
      | some n => s.ownBankWrite d c r.cls r.gstep false (placeBytes a (bytesOfNat r.size n))
      | none => s
    s.finishValue d c r.id old
  | .barinit v =>
    (s.ownBankWrite d c r.cls r.gstep false (placeBytes (r.addr.toNat % 2 ^ 28) (barrierWords v))).reqDone d c r.id
  | _ => s

/-- Change of a sent atomic. -/
def State.modSent (s : State) (d c id : Nat) (f : Req → Req) : State :=
  s.modCtx d c fun x => { x with sentAtomics := x.sentAtomics.map fun r => if r.id = id then f r else r }

/-- A sent atomic or claim performs at its home, once (R123). -/
def State.performSent (s : State) (d c : Nat) (r : Req) : State :=
  let fail := fun (code : Nat) => s.modSent d c r.id fun r =>
    { r with poison := some { code := code, info := r.addr.toNat, cls := r.cls, clus := none } }
  if r.value.isSome ∨ r.poison.isSome then s
  else match r.home, r.kind with
  | some h, .atomic op y z _ _ =>
    match s.atomAt h op r.size y.toNat z.toNat with
    | .ok (s, old) => s.modSent d c r.id fun r => { r with value := some old }
    | .error code => fail code
  | some h, .claim _ _ _ =>
    match s.claimAt h with
    | .ok (s, v, ring, lsz) => s.modSent d c r.id fun r => { r with value := some v, aux := (ring, lsz) }
    | .error code => fail code
  | _, _ => s

/-- An LDH reads at its home, once. -/
def State.performLdh (s : State) (d c : Nat) (r : Req) : State :=
  match r.home, r.kind with
  | some h, .ldh _ _ =>
    if r.value.isSome ∨ r.ended then s
    else match s.readHome h r.size with
      | .ok v => s.modReq d c r.id fun r => { r with value := some v }
      | .error code => s.reqPoison d c r.id code r.addr.toNat
  | _, _ => s

/-- Insertion of a request by its identifier, which rises with issue. -/
def insertReq (r : Req) : List Req → List Req
  | [] => [r]
  | q :: qs => if q.id < r.id then q :: insertReq r qs else r :: q :: qs

/-- Scalar accesses of a context that have gone to their homes, in order of issue: LDHs of its present region, and sent
atomics. -/
def Ctx.scalars (x : Ctx) : List Req :=
  ((x.reqs.filter fun r => match r.kind with | .ldh _ _ => true | _ => false) ++ x.sentAtomics).foldr insertReq []

/-- Before an access of a context to a word of the package performs, those that it released before it to the same word have
(R271): its STHs, then its LDHs and atomics in order of issue; none where an STH finds no burst in this count. -/
def State.settleWord (s : State) (d c id : Nat) (h : Home) : Option State :=
  (s.settleStores d c h).map fun s =>
  let before := (s.ctx d c).scalars.filter fun r => r.id < id && r.value.isNone && r.poison.isNone && match r.home with
    | some g => g.inside && s.sameBlock 8 g h
    | none => false
  before.foldl (fun s r => (s.performLdh d c r).performSent d c r) s

/-- A scalar access that a slot has served, and that follows an STH without a burst, looks to the next slot (R230, R271). -/
def State.scalarAgain (s : State) (m : Micro) : State :=
  match s.scalarBook.find? fun q => q.slot == some s.bel && q.work.any fun w => w.2.1 == m with
  | some q =>
    { s with calendar := s.calendar.filter fun (e : Dated) => !(q.work.any fun (w : Nat × Micro × Micro) => e.what == w.2.2) }.askScalar
      { q with slot := none, from_ := s.bel + 1 }
  | none => s

/-- An LDH reads at its home. -/
def State.readReq (s : State) (d c id : Nat) : State :=
  match (s.ctx d c).req? id with
  | some r => match r.home with
    | some h => match s.settleWord d c id h with
      | some s => s.performLdh d c r
      | none => s.scalarAgain (.read d c id)
    | none => s
  | none => s

/-- ATOMIC_PERFORM (R123): indivisibly at the word's home, after its context's earlier accesses to the word. -/
def execAtomicPerform (d c id : Nat) (s : State) : Res :=
  let x := s.ctx d c
  match x.sentAtomics.find? fun r => r.id == id with
  | some r => match r.home with
    | some h => .next (match s.settleWord d c id h with
      | some s => s.performSent d c r
      | none => s.scalarAgain (.ev (.atomicPerform d c id)))
    | none => .next s
  | none =>
    match x.req? id with
    | some r => .next (if x.run = .stopped then s else s.bankAtomic d c r)
    | none => .next s

/-- The live request of a place in the atomic log. -/
def Ctx.waitingAtomic (x : Ctx) (n : Nat) : Option Req := x.reqs.find? fun r => r.logIx == some n && !r.ended

/-- ATOMIC_VALUE_RETURN (R124): the value fills the log, and the request of the same place lands it. One that ended with a
fault has left no value: its place is as if it had not been sent (log 63). -/
def execAtomicValueReturn (d c id : Nat) (s : State) : Res :=
  match (s.ctx d c).sentAtomics.find? fun r => r.id == id with
  | none => .next s
  | some r =>
    let s := s.modCtx d c fun x => { x with sentAtomics := x.sentAtomics.filter fun q => q.id != id }
    match r.poison, r.value, r.logIx with
    | some t, _, some n =>
      let s := s.modCtx d c fun x => x.logged r .unsent
      match (s.ctx d c).waitingAtomic n with
      | some q => .next (s.reqPoison d c q.id t.code t.info)
      | none => .next s
    | none, some v, some n =>
      let s := s.modCtx d c fun x => x.logged r (.value v r.aux.1 r.aux.2)
      match (s.ctx d c).waitingAtomic n with
      | some q => .next (s.deliverAtomic d c q v r.aux.1 r.aux.2)
      | none => .next s
    | _, _, _ => .next s

/-- A translated atomic or claim starts: replayed from the log where the log has its value, awaited where it has been sent,
else sent (R124). -/
def State.beginAtomic (s : State) (d c : Nat) (r : Req) : State :=
  let x := s.ctx d c
  let n := x.atomPos
  let s := s.modCtx d c fun x => { x with atomPos := n + 1, atomLog := x.atomLog ++ List.replicate (n + 1 - x.atomLog.length) .unsent }
  match x.atomLog.getD n .unsent with
  | .value v ring lsz => s.deliverAtomic d c r v ring lsz
  | .sent => s
  | .unsent => s.tryScalar d c r

/-! ### TDMA (R234–R236) -/

/-- The first granted slot of a channel, from a frame on, that no entry has taken. -/
def nextBurst (granted : List Nat) (taken : List (Nat × Nat)) (c : Nat) : Nat → Nat → Option (Nat × Nat)
  | 0, _ => none
  | n + 1, f =>
    match (if refreshes c f then none else granted.find? fun b => !taken.contains (f, b)) with
    | some b => some (f, b)
    | none => nextBurst granted taken c n (f + 1)

/-- Frame and slot for each granule of a range from a stack offset, in ascending address (R234). -/
def assignBursts (granted : List Nat) (taken : List BurstSlot) (stack f0 : Nat) : Nat → Nat → List BurstSlot
  | 0, _ => []
  | n + 1, off =>
    let c := channelOf off
    let mine := (taken.filter fun t => t.1 == stack && t.2.2.2 == c).map fun t => (t.2.1, t.2.2.1)
    match nextBurst granted mine c (2 * mine.length + 4) f0 with
    | none => []
    | some (f, b) => (stack, f, b, c) :: assignBursts granted ((stack, f, b, c) :: taken) stack f0 n (off + 64)

/-- The landing count of a granule in a burst slot, for a die and the granted pairs of its program (R234). -/
def burstDue (d : Nat) (pairs : List (Nat × Nat)) (t : BurstSlot) : Nat :=
  let h := hops d t.1
  let port := pairs.filter fun p => (hops d p.1 == 0) == (h == 0)
  let r := (port.idxOf? (t.1, t.2.2.1)).getD 0
  128 * (t.2.1 + 1) + (if h = 0 then 64 else 224) + (160 * r + t.2.2.2) / (portRate d / 64)

/-- The phase of a transfer-port landing (R177, R233). -/
def portPhase (d stack : Nat) : Nat := if hops d stack = 0 then phHbm else phEdge

/-- The granted pairs of a context's program. -/
def State.pairsOf (s : State) (d c : Nat) : List (Nat × Nat) :=
  match s.gangOf d c with
  | some g => grantPairs (s.timetable g) (s.ctx d c).prog
  | none => []

/-- The slots that a range of n granules takes in a die's queue of a stack, issued or released at a count (R234). -/
def State.burstsFor (s : State) (d c stack off n t : Nat) : List BurstSlot :=
  let granted := ((s.pairsOf d c).filter fun p => p.1 == stack).map (·.2)
  assignBursts granted ((s.die d).slotq.filter fun x => s.bel ≤ 128 * (x.2.1 + 1)) stack ((t + 8) / 128 + 1) n off

/-- Slots taken into a die's queue. -/
def State.takeBursts (s : State) (d : Nat) (ts : List BurstSlot) : State :=
  s.modDie d fun x => { x with slotq := (x.slotq.filter fun y => s.bel ≤ 128 * (y.2.1 + 1)) ++ ts }

/-- A TDMA dir=in starts (R234): its granules take their slots; those that the staging serves land after their recorded
steps (R313). -/
def State.beginTdmaIn (s : State) (d c : Nat) (r : Req) (stack off : Nat) : State :=
  let n := r.size / 64
  let pairs := s.pairsOf d c
  let bursts := s.burstsFor d c stack off n r.issued
  let pstep := (bursts.map (burstDue d pairs)).foldl max r.issued
  let (s, grans, served) := (List.range n).foldl (fun (acc : State × List Gran × List (Nat × Nat)) k =>
    let (s, grans, served) := acc
    let va := r.addr.toNat + 64 * k
    let (s, key, hit) := s.openStage d c .tdma va 64 r.cls
    let b := bursts.getD k (stack, 0, 0, 0)
    let g : Gran := { k := k, bank := r.bank + 64 * k, addr := off + 64 * k, slot := if hit.isSome then none else some b,
                      due := burstDue d pairs b, data := hit.map (·.1), stage := key, done := false, served := hit.isSome }
    (s, grans ++ [g], match hit with | some h => served ++ [(k, h.2)] | none => served)) (s, [], [])
  let s := s.putReq d c { r with pstep := pstep, grans := grans, replayed := served.length == n }
  let s := s.takeBursts d (grans.filterMap (·.slot))
  let s := served.foldl (fun s p => s.modArch d c fun a => { a with landing := a.landing ++ [replayLanding (.replayGran r.id p.1) p.2 0] }) s
  grans.foldl (fun s g => match g.slot with
    | none => s
    | some b =>
      let (j, s) := s.freeBelow 128
      (s.scheduleBel (128 * b.2.1 + j) phStart (.gran d c r.id g.k)).scheduleBel g.due (portPhase d stack)
        (.ev (.tdmaGranuleLand d c r.id g.k))) s

/-- Change of a granule. -/
def State.modGran (s : State) (d c id k : Nat) (f : Gran → Gran) : State :=
  s.modReq d c id fun r => { r with grans := r.grans.map fun g => if g.k = k then f g else g }

/-- A granule of a request. -/
def Req.gran? (r : Req) (k : Nat) : Option Gran := r.grans.find? fun g => g.k == k

/-- The granules of a TDMA dir=out, none of their bytes read yet. -/
def Req.outHolders (r : Req) : List DefWrite :=
  (granuleWrites false true false r.addr.toNat (List.replicate r.size 0)).map fun w => { w with mask := 0, cls := r.cls }

/-- The granules of the TDMAs dir=out that a context has under way as its region ends: of its EXIT group alone (R229, R235). -/
def Ctx.outHolders (x : Ctx) : List DefWrite :=
  x.reqs.flatMap fun r => if r.kind = .tdmaOut ∧ !r.ended then r.outHolders else []

/-- Bytes that a TDMA dir=out has read enter the deferred set; those of a range that has been released already, at EXIT or by a handler
(R133, R310), join their granules. -/
def State.outBytes (s : State) (d c : Nat) (r : Req) (ws : List DefWrite) : State :=
  if (s.ctx d c).run = .exited ∨ c = 2 then
    { s with pendings := s.pendings.map fun (p : Pending) =>
      if p.die = d ∧ p.ctx = c ∧ p.gang = (s.ctx d c).gang then
        match p.write with
        | some w => match (if w.tdma then ws.find? fun v => v.addr == w.addr else none) with
          | some v => { p with write := some (mergeWrite w v) }
          | none => p
        | none => p
      else p }
  else s.addDeferred d c r.cls r.gstep ws

/-- All granules of a request have landed: DONE. -/
def State.granDone (s : State) (d c id k : Nat) : State :=
  let s := s.modGran d c id k fun g => { g with done := true }
  match (s.ctx d c).req? id with
  | some r => if r.grans.all (·.done) then (s.modReq d c id fun r => { r with landed := true }).reqDone d c id else s
  | none => s

/-- The data of a granule lands whole in the bank, with its before-image, and enters the staging (R234, R237, R313). -/
def State.landGran (s : State) (d c : Nat) (r : Req) (g : Gran) (v steps : Nat) : State :=
  ((s.fillStage d c g.stage v steps).transferWrite d c r.cls r.gstep g.bank (bytesOfNat 64 v)).granDone d c r.id g.k

/-- TDMA_GRANULE_LAND (R234). -/
def execTdmaGranuleLand (d c id k : Nat) (s : State) : Res :=
  let x := s.ctx d c
  match x.req? id with
  | none => .next s
  | some r =>
    match r.gran? k with
    | none => .next s
    | some g =>
      if g.done || g.due % 2 ^ 64 != s.bel || x.run == .stopped then .next s
      else match g.data with
        | some v => .next (s.landGran d c r g v (x.stepsBefore r.step))
        | none => .next s

/-- RLD_GRANULE_LAND (R237). -/
def execRldGranuleLand (d c id k : Nat) (s : State) : Res :=
  let x := s.ctx d c
  match x.req? id with
  | none => .next s
  | some r =>
    match r.gran? k with
    | none => .next s
    | some g =>
      if g.done || x.run == .stopped then .next s
      else match g.data with
        | some v => .next (s.landGran d c r g v (x.stepsBefore r.step))
        | none => .next s

/-- A granule that the staging serves lands with the step that its Landing names (R313). -/
def State.landReplayed (s : State) (d c id k : Nat) : State :=
  match (s.ctx d c).req? id with
  | none => s
  | some r =>
    match r.gran? k with
    | none => s
    | some g => match g.data with
      | some v => s.landGran d c r g v ((s.ctx d c).steps - r.step)
      | none => s

/-- An LDH that the staging serves lands with its step (R313). -/
def State.landReplayedValue (s : State) (d c id : Nat) : State :=
  match (s.ctx d c).req? id with
  | none => s
  | some r =>
    match r.landed? with
    | none => s
    | some (n, w) =>
      let s := s.modCtx d c fun x => x.landS n w
      (s.modReq d c id fun r => { r with landed := true }).reqDone d c id

/-- The read of a granule is fixed: a TDMA burst at its stack, an RLD granule at its home, or the bank bytes of a TDMA
dir=out (R234, R235, R237). -/
def State.readGran (s : State) (d c id k : Nat) : State :=
  match (s.ctx d c).req? id with
  | none => s
  | some r =>
    match r.kind with
    | .tdmaOut =>
      let per := portRate d
      let bytes := s.bankBytes d c false false (r.bank + per * k) (Nat.min per (r.size - per * k))
      let s := { s with free := s.free + 1 }
      let s := s.outBytes d c r (granuleWrites false true false (r.addr.toNat + per * k) bytes)
      if r.size ≤ per * (k + 1) then s.schedule s.now phEnd (.done d c id) else s
    | .tdmaIn =>
      match r.gran? k, r.home with
      | some g, some (.stack n _) =>
        if g.done || g.data.isSome || (g.slot.any fun b => s.bel / 128 < b.2.1) then s
        else match s.readHome (.stack n g.addr) 64 with
          | .ok v => s.modGran d c id k fun g => { g with data := some v }
          | .error code => s.reqPoison d c id code (r.addr.toNat + 64 * k)
      | _, _ => s
    | .rld =>
      match r.gran? k with
      | none => s
      | some g =>
        match s.reach d (some c) (s.ctx d c).asid g.addr true false with
        | (s, .error code) => s.reqPoison d c id code g.addr
        | (s, .ok (.remote pkg a)) => s.request d (.gran d c id k) pkg FrameKind.read a 64 []
        | (s, .ok (.host a)) => s.hostRead (.gran d c id k) a 64
        | (s, .ok h) => s.elastically [h] (.gran d c id k) fun s =>
          match s.readHome h 64 with
          | .error code => s.reqPoison d c id code g.addr
          | .ok v =>
            let s := s.modGran d c id k fun g => { g with data := some v }
            let (j, s) := (Config.freeNat s.free, { s with free := s.free + 1 })
            s.schedule (s.now + j) phEdge (.ev (.rldGranuleLand d c id k))
    | _ => s

/-- An RLD starts (R237). -/
def State.beginRld (s : State) (d c : Nat) (r : Req) : State :=
  let n := r.size / 64
  let (s, grans, served) := (List.range n).foldl (fun (acc : State × List Gran × List (Nat × Nat)) k =>
    let (s, grans, served) := acc
    let va := r.addr.toNat + 64 * k
    let (s, key, hit) := s.openStage d c .rld va 64 r.cls
    let g : Gran := { k := k, bank := r.bank + 64 * k, addr := va, slot := none, due := 0, data := hit.map (·.1), stage := key,
                      done := false, served := hit.isSome }
    (s, grans ++ [g], match hit with | some h => served ++ [(k, h.2)] | none => served)) (s, [], [])
  let s := s.putReq d c { r with pstep := r.issued + 8192 + 4 * n, grans := grans, replayed := served.length == n }
  let s := served.foldl (fun s p => s.modArch d c fun a => { a with landing := a.landing ++ [replayLanding (.replayGran r.id p.1) p.2 0] }) s
  grans.foldl (fun s g =>
    if g.data.isSome then s
    else
      let (j, s) := (Config.freeNat s.free, { s with free := s.free + 1 })
      s.schedule (s.now + 1 + j) phEdge (.gran d c r.id g.k)) s

/-- A TDMA dir=out starts (R235): its reads follow at the port's rate. A handler's range is released with its issue (R310). -/
def State.beginTdmaOut (s : State) (d c : Nat) (r : Req) : State :=
  let per := portRate d
  let s := if c = 2 then s.addDeferred d c r.cls r.gstep r.outHolders else s
  let s := s.putReq d c { r with pstep := r.issued + 1 + (r.size - 64) / per }
  (List.range (ceilDiv r.size per)).foldl (fun s j =>
    s.scheduleBel (s.bel + 1 + j) phStart (.gran d c r.id j)) s

/-- The granules of a TDMA on a channel move one slot later from a burst on (R236): the slot after a granted one. -/
def laterBurst (granted : List Nat) (c : Nat) (t : Nat × Nat) : Nat × Nat :=
  match (granted.filter fun b => t.2 < b).head? with
  | some b => (t.1, b)
  | none =>
    let f := if refreshes c (t.1 + 1) then t.1 + 2 else t.1 + 1
    (f, granted.headD t.2)

/-- A burst comes at or after another on one channel. -/
def burstFrom (a t : BurstSlot) : Bool :=
  t.1 == a.1 && t.2.2.2 == a.2.2.2 && (a.2.1 < t.2.1 || (a.2.1 == t.2.1 && a.2.2.1 ≤ t.2.2.1))

/-- A granule lands at a later count; the transfer whose last landing now passes its PSTEP has RETRY set (R236). -/
def State.lateGran (s : State) (d c : Nat) (r : Req) (g : Gran) (b : BurstSlot) (due : Nat) : State :=
  let s := s.modGran d c r.id g.k fun g => { g with due := due }
  let s := s.scheduleBel due (portPhase d b.1) (.ev (.tdmaGranuleLand d c r.id g.k))
  if pastStep due r.pstep then s.reqRetry d c r.id else s

/-- A granule takes a later burst, in which it is read anew (R236). -/
def State.moveGran (s : State) (d c : Nat) (r : Req) (g : Gran) (b : BurstSlot) (due : Nat) : State :=
  let s := s.modGran d c r.id g.k fun g => { g with slot := some b, data := none }
  let (j, s) := s.freeBelow 128
  (s.scheduleBel (128 * b.2.1 + j) phStart (.gran d c r.id g.k)).lateGran d c r g b due

/-- The error retry of a timed burst of a die's queue (R236). -/
def State.retryTimed (s : State) (d : Nat) (a : BurstSlot) : State :=
  let granted := ((s.pairsOf d 0).filter fun p => p.1 == a.1).map (·.2)
  let granted := if granted.isEmpty then ((s.pairsOf d 2).filter fun p => p.1 == a.1).map (·.2) else granted
  let move := fun (t : BurstSlot) =>
    let n := laterBurst granted a.2.2.2 (t.2.1, t.2.2.1)
    ((t.1, n.1, n.2, t.2.2.2) : BurstSlot)
  let pairs := fun c => s.pairsOf d c
  let s := s.modDie d fun x => { x with slotq := x.slotq.map fun t => if burstFrom a t then move t else t }
  let s := (List.range 3).foldl (fun s c => (s.ctx d c).reqs.foldl (fun s r => r.grans.foldl (fun s g =>
    match g.slot with
    | some t => if burstFrom a t && !g.done then s.moveGran d c r g (move t) (burstDue d (pairs c) (move t)) else s
    | none => s) s) s) s
  let late := s.pendings.filter fun p => p.die == d && (match p.slot with | some t => burstFrom a t | none => false)
  late.foldl (fun s p =>
    match p.slot with
    | some t =>
      let due := burstDue d (pairs p.ctx) (move t)
      let s := { s with pendings := s.pendings.map fun (q : Pending) =>
        if q.id = p.id then { q with slot := some (move t), due := due } else q }
      s.scheduleBel due phEdge (.ev (.deferredWritePerform p.id))
    | none => s) s

/-- The scalar request whose burst of a frame meets an error: one that its slot has served and that has not completed, else the
next one that a slot of the frame would serve. -/
def State.erringScalar (s : State) (stack channel frame : Nat) : Option (ScalarReq × Nat) :=
  let mine := s.scalarBook.filter fun q => q.stack == stack && q.channel == channel
  let going := fun (q : ScalarReq) => q.work.any fun w => s.calendar.any fun e => e.what == w.2.2
  match mine.findSome? fun q => q.slot.bind fun x => if x / 128 = frame ∧ going q then some (q, x) else none with
  | some r => some r
  | none =>
    ((List.range 2).map fun i => 128 * frame + 102 + 5 * i).findSome? fun x =>
      if x < s.bel ∨ refreshes channel frame then none else (scalarNext stack channel x mine).map fun q => (q, x)

/-- The error retry of a scalar burst: its request takes the next scalar slot, and RETRY is set (R121). -/
def State.retryScalar (s : State) (r : ScalarReq) (slot : Nat) : State :=
  let s := { s with scalarBook := s.scalarBook.filter fun q => q != r,
                    calendar := s.calendar.filter fun (e : Dated) => !(r.work.any fun (w : Nat × Micro × Micro) => e.what == w.2.1 || e.what == w.2.2) }
  let s := s.askScalar { r with slot := none, from_ := slot + 1 }
  match r.work with
  | some (_, _, .done d c id) => (s.modReq d c id fun q => { q with value := none }).reqRetry d c id
  | some (_, _, .ev (.atomicValueReturn d c id)) => s.reqRetry d c id
  | _ => s

/-- BURST_RETRY (R236, R121): of the bursts of a channel in a frame, the first timed one that a queue has taken, else the
first scalar one. -/
def execBurstRetry (stack channel frame : Nat) (s : State) : Res :=
  let timed := (List.range 8).findSome? fun d =>
    ((s.die d).slotq.filter fun t => t.1 == stack && t.2.1 == frame && t.2.2.2 == channel).foldl
      (fun (m : Option (Nat × BurstSlot)) t => match m with
        | none => some (d, t)
        | some (_, u) => if t.2.2.1 < u.2.2.1 then some (d, t) else m) none
  match timed with
  | some (d, t) => .next (s.retryTimed d t)
  | none =>
    match s.erringScalar stack channel frame with
    | some (r, x) => .next (s.retryScalar r x)
    | none => .next s

/-- MEMORY_UNCORRECTABLE (R236): the granule is poisoned in its stack; every later read of it meets the error. -/
def execMemoryUncorrectable (stack off : Nat) (s : State) : Res :=
  let g := off / 64 * 64
  .next (if s.poison.contains (stack, g) then s else { s with poison := s.poison ++ [(stack, g)] })

/-! ### Starting (R228) -/

/-- A write of a deferred kind starts: its address is translated at issue, a fault of it sets POISON, else DONE (R122, R237,
R252, R253). -/
def State.beginEnqueue (s : State) (d c : Nat) (r : Req) : State :=
  let s := s.putReq d c { r with pstep := r.issued + 2 }
  let ok := fun (s : State) => (s.modReq d c r.id fun r => { r with landed := true }).reqDone d c r.id
  if bit 63 r.addr.toNat ∧ r.size = 16 then ok s
  else
    let addrs := r.addr.toNat :: (List.range (r.size / 64)).map fun i => r.addr.toNat + 64 * i
    match addrs.foldl (fun (acc : State × Option (Nat × Nat)) a =>
      match acc.2 with
      | some _ => acc
      | none => match acc.1.reach d (some c) (acc.1.ctx d c).asid a false true with
        | (s, .ok _) => (s, none)
        | (s, .error code) => (s, some (code, a))) (s, none) with
    | (s, none) => ok s
    | (s, some (code, a)) => s.reqPoison d c r.id code a

/-- An LDH starts. -/
def State.beginLdh (s : State) (d c : Nat) (r : Req) : State :=
  let va := r.addr.toNat
  let x := s.ctx d c
  let overBy := (List.range r.size).map fun i => x.sthByte ((va + i) % 2 ^ 64)
  let (s, key, hit) := s.openStage d c .ldh va r.size r.cls
  let r := { r with pstep := s.addrStep d x.asid va r.issued, overBy := overBy, stage := key }
  match hit with
  | some (v, n) =>
    let s := s.putReq d c { r with value := some v, replayed := true }
    s.modArch d c fun a => { a with landing := a.landing ++ [replayLanding (.replayed r.id) n 16] }
  | none => (s.putReq d c r).tryScalar d c r

/-- An access starts at the end of its issue step (R228, R121, R123). -/
def State.beginReq (s : State) (d c : Nat) (r : Req) : State :=
  let (id, s) := s.fresh
  let r := { r with id := id, issued := s.bel, step := (s.ctx d c).steps, gstep := (s.belfry - (s.ctx d c).arch.gbase).toNat }
  match r.kind with
  | .ldh _ _ => s.beginLdh d c r
  | .atomic .. =>
    if bit 63 r.addr.toNat then
      (s.putReq d c { r with pstep := r.issued + 4 }).scheduleBel (s.bel + 4) phEdge (.ev (.atomicPerform d c id))
    else
      let r := { r with pstep := s.addrStep d (s.ctx d c).asid r.addr.toNat r.issued }
      (s.putReq d c r).beginAtomic d c r
  | .claim .. =>
    let r := { r with pstep := s.addrStep d (s.ctx d c).asid r.addr.toNat r.issued }
    (s.putReq d c r).beginAtomic d c r
  | .barinit _ =>
    (s.putReq d c { r with pstep := r.issued + 4, landed := true }).scheduleBel (s.bel + 4) phEdge (.ev (.atomicPerform d c id))
  | .tdmaIn => match r.home with
    | some (.stack n off) => s.beginTdmaIn d c r n off
    | _ => s
  | .tdmaOut => s.beginTdmaOut d c r
  | .rld => s.beginRld d c r
  | .enqueue => s.beginEnqueue d c r
  | .collective => s

end Sys2Proof.Machine
end

