-- ==== Sys2Proof/Machine/Scalar.lean ====
section
/-!
DEFINITION. Scalar integer, bit, compare and floating-point instructions (05 R112–R118).
-/

namespace Sys2Proof.Machine

/-- A SCALAR-RRR instruction that lands a value computed from s[x] and s[y] (Table 5-1). -/
def scalarXY (h : Hdr) (o : RRR) (s : State) (lat : Nat) (f : Word → Word → Word) : Res :=
  slotRun h s fun s => s.put h lat (.s o.d.toNat (f (s.s o.x) (s.s o.y)))

/-- Signed minimum and maximum by sx, unsigned by un. -/
def sminW (x y : Word) : Word := if x.slt y then x else y
def smaxW (x y : Word) : Word := if x.slt y then y else x
def uminW (x y : Word) : Word := if x.ult y then x else y
def umaxW (x y : Word) : Word := if x.ult y then y else x

/-- The shift count y[5:0]. -/
def shiftCount (y : Word) : Nat := y.toNat % 64

/-- Leading zeros of the low w bits of x. -/
def leadingZeros : Nat → Nat → Nat
  | 0, _ => 0
  | w + 1, x => if x.testBit w then 0 else 1 + leadingZeros w x

/-- High half of the signed and of the unsigned product. -/
def mulHighS (x y : Word) : Word := wordOfInt (sx x * sx y / 2 ^ 64)
def mulHighU (x y : Word) : Word := BitVec.ofNat 64 (x.toNat * y.toNat / 2 ^ 64)

/-- Quotients and remainders with the flags they raise (R116). -/
def divS (x y : Word) : Word × Flags :=
  if y = 0 then (BitVec.allOnes 64, flagDZ) else (wordOfInt ((sx x).tdiv (sx y)), 0)
def remS (x y : Word) : Word × Flags :=
  if y = 0 then (x, flagDZ) else (wordOfInt (sx x - sx y * (sx x).tdiv (sx y)), 0)
def divN (x y : Word) : Word × Flags :=
  if y = 0 then (BitVec.allOnes 64, flagDZ) else (BitVec.ofNat 64 (x.toNat / y.toNat), 0)
def remN (x y : Word) : Word × Flags :=
  if y = 0 then (x, flagDZ) else (BitVec.ofNat 64 (x.toNat % y.toNat), 0)

/-- A division or remainder: value and flags land after 18 steps (R116). -/
def scalarDiv (h : Hdr) (o : RRR) (s : State) (f : Word → Word → Word × Flags) : Res :=
  slotRun h s fun s =>
    let r := f (s.s o.x) (s.s o.y)
    (s.put h 18 (.s o.d.toNat r.1)).putFlags h.cls.toNat 18 r.2

/-- A scalar floating-point result: one rounding with policy 01 and no flushing, its flags landing with it (R117). -/
def scalarFp (h : Hdr) (o : RRR) (s : State) (lat : Nat) (f : Fmt) (x : XRes) : State :=
  let p := s.draw o.rnd
  let r := x.round f o.rnd .inf false p.2
  (p.1.put h lat (.s o.d.toNat (BitVec.ofNat 64 r.bits))).putFlags h.cls.toNat lat r.flags

/-- ADD: d ← (x + y) mod 2^64 (R114). -/
def execAdd (h : Hdr) (o : RRR) (s : State) : Res := scalarXY h o s 1 (· + ·)

/-- SUB: d ← (x − y) mod 2^64 (R114). -/
def execSub (h : Hdr) (o : RRR) (s : State) : Res := scalarXY h o s 1 (· - ·)

/-- MIN: signed minimum (R114). -/
def execMin (h : Hdr) (o : RRR) (s : State) : Res := scalarXY h o s 1 sminW

/-- MAX: signed maximum (R114). -/
def execMax (h : Hdr) (o : RRR) (s : State) : Res := scalarXY h o s 1 smaxW

/-- MINN: unsigned minimum (R114). -/
def execMinn (h : Hdr) (o : RRR) (s : State) : Res := scalarXY h o s 1 uminW

/-- MAXN: unsigned maximum (R114). -/
def execMaxn (h : Hdr) (o : RRR) (s : State) : Res := scalarXY h o s 1 umaxW

/-- AND (R114). -/
def execAnd (h : Hdr) (o : RRR) (s : State) : Res := scalarXY h o s 1 (· &&& ·)

/-- OR (R114). -/
def execOr (h : Hdr) (o : RRR) (s : State) : Res := scalarXY h o s 1 (· ||| ·)

/-- XOR (R114). -/
def execXor (h : Hdr) (o : RRR) (s : State) : Res := scalarXY h o s 1 (· ^^^ ·)

/-- ANDN: x and not y (R114). -/
def execAndn (h : Hdr) (o : RRR) (s : State) : Res := scalarXY h o s 1 fun x y => x &&& ~~~y

/-- ORN: x or not y (R114). -/
def execOrn (h : Hdr) (o : RRR) (s : State) : Res := scalarXY h o s 1 fun x y => x ||| ~~~y

/-- SHL: logical left shift by y[5:0] (R114). -/
def execShl (h : Hdr) (o : RRR) (s : State) : Res := scalarXY h o s 1 fun x y => x <<< shiftCount y

/-- SHR: logical right shift by y[5:0] (R114). -/
def execShr (h : Hdr) (o : RRR) (s : State) : Res := scalarXY h o s 1 fun x y => x >>> shiftCount y

/-- SHRA: arithmetic right shift by y[5:0] (R114). -/
def execShra (h : Hdr) (o : RRR) (s : State) : Res := scalarXY h o s 1 fun x y => x.sshiftRight (shiftCount y)

/-- ROTL: rotate left by y[5:0] (R114). -/
def execRotl (h : Hdr) (o : RRR) (s : State) : Res := scalarXY h o s 1 fun x y => x.rotateLeft (shiftCount y)

/-- CLZ: leading zeros of x, 64 for 0 (R114). -/
def execClz (h : Hdr) (o : RRR) (s : State) : Res := scalarXY h o s 1 fun x _ => BitVec.ofNat 64 (leadingZeros 64 x.toNat)

/-- POPC: ones of x (R114). -/
def execPopc (h : Hdr) (o : RRR) (s : State) : Res := scalarXY h o s 1 fun x _ => BitVec.ofNat 64 (popCount 64 x.toNat)

/-- MUL: low half of the product (R114). -/
def execMul (h : Hdr) (o : RRR) (s : State) : Res := scalarXY h o s 3 (· * ·)

/-- MULH: high half of the signed product (R114). -/
def execMulh (h : Hdr) (o : RRR) (s : State) : Res := scalarXY h o s 3 mulHighS

/-- MULHN: high half of the unsigned product (R114). -/
def execMulhn (h : Hdr) (o : RRR) (s : State) : Res := scalarXY h o s 3 mulHighU

/-- DIVS (R116). -/
def execDivs (h : Hdr) (o : RRR) (s : State) : Res := scalarDiv h o s divS

/-- DIVN (R116). -/
def execDivn (h : Hdr) (o : RRR) (s : State) : Res := scalarDiv h o s divN

/-- REMS (R116). -/
def execRems (h : Hdr) (o : RRR) (s : State) : Res := scalarDiv h o s remS

/-- REMN (R116). -/
def execRemn (h : Hdr) (o : RRR) (s : State) : Res := scalarDiv h o s remN

/-- MADD: d ← (x × y + z) mod 2^64 (R114). -/
def execMadd (h : Hdr) (o : RRR) (s : State) : Res :=
  slotRun h s fun s => s.put h 3 (.s o.d.toNat (s.s o.x * s.s o.y + s.s o.z))

/-- SEL: x if the q predicate FN[2:0] is 1, else y (R114). -/
def execSel (h : Hdr) (o : RRR) (s : State) : Res :=
  slotRun h s fun s => s.put h 1 (.s o.d.toNat (if s.arch.qreg (o.fn.toNat % 8) then s.s o.x else s.s o.y))

/-- CMP: the condition FN[2:0] on x, y into q[d] (R114, R78). -/
def execCmp (h : Hdr) (o : RRR) (s : State) : Res :=
  slotRun h s fun s => s.put h 1 (.q o.d.toNat (intCond (o.fn.toNat % 8) (s.s o.x) (s.s o.y)))

/-- ADDI: d ← (x + IMM) mod 2^64 (R115). -/
def execAddi (h : Hdr) (o : RI) (s : State) : Res :=
  slotRun h s fun s => s.put h 1 (.s o.d.toNat (s.s o.x + wordOfInt (o.value h)))

/-- LI: d ← IMM, sign-extended (R115). -/
def execLi (h : Hdr) (o : RI) (s : State) : Res :=
  slotRun h s fun s => s.put h 1 (.s o.d.toNat (wordOfInt (o.value h)))

/-- LIH: IMM[31:0] × 2^32 + d[31:0], d read at issue (R115). -/
def execLih (h : Hdr) (o : RI) (s : State) : Res :=
  slotRun h s fun s => s.put h 1 (.s o.d.toNat (o.imm ++ (s.s o.d).setWidth 32))

/-- Position and width of a bit field: IMM[5:0] and IMM[11:6] + 1 (R115). -/
def fieldPos (o : RI) : Nat := bits 5 0 o.imm.toNat
def fieldWidth (o : RI) : Nat := bits 11 6 o.imm.toNat + 1

/-- BFX: x[pos + width − 1 : pos], zero-extended (R115). -/
def execBfx (h : Hdr) (o : RI) (s : State) : Res :=
  slotRun h s fun s => s.put h 1 (.s o.d.toNat (BitVec.ofNat 64 (((s.s o.x).toNat >>> fieldPos o) % 2 ^ fieldWidth o)))

/-- The ones of a bit field. -/
def fieldMask (pos width : Nat) : Word := BitVec.ofNat 64 ((2 ^ width - 1) * 2 ^ pos)

/-- BFI: d with the field replaced by the low bits of x; d read at issue (R115). -/
def execBfi (h : Hdr) (o : RI) (s : State) : Res :=
  slotRun h s fun s =>
    let m := fieldMask (fieldPos o) (fieldWidth o)
    s.put h 1 (.s o.d.toNat ((s.s o.d &&& ~~~m) ||| ((s.s o.x <<< fieldPos o) &&& m)))

/-- FADD (R117). -/
def execFadd (h : Hdr) (o : RRR) (s : State) : Res :=
  slotRun h s fun s => scalarFp h o s 4 o.fpFmt ((s.fp o.fpFmt o.x).add o.rnd (s.fp o.fpFmt o.y))

/-- FMUL (R117). -/
def execFmul (h : Hdr) (o : RRR) (s : State) : Res :=
  slotRun h s fun s => scalarFp h o s 4 o.fpFmt ((s.fp o.fpFmt o.x).mul (s.fp o.fpFmt o.y))

/-- FMA: one rounding of x × y + z (R117). -/
def execFma (h : Hdr) (o : RRR) (s : State) : Res :=
  slotRun h s fun s =>
    scalarFp h o s 5 o.fpFmt (XV.fma o.rnd (s.fp o.fpFmt o.x) (s.fp o.fpFmt o.y) (s.fp o.fpFmt o.z))

/-- FDIV (R117). -/
def execFdiv (h : Hdr) (o : RRR) (s : State) : Res :=
  slotRun h s fun s => scalarFp h o s 16 o.fpFmt ((s.fp o.fpFmt o.x).div (s.fp o.fpFmt o.y))

/-- The conversion that FN[2:0] selects, with the draw u (Table 5-2). -/
def fcvtResult (k : Nat) (x : Word) (rnd : Rnd) (u : Nat) : Rounded :=
  let a64 := fpValue .f64 x.toNat
  let a32 := fpValue .f32 (x.toNat % 2 ^ 32)
  match k with
  | 0 => roundTo .f32 a64 rnd .inf false u
  | 1 => roundTo .f64 a32 rnd .inf false u
  | 2 => floatToInt .i64 a64 rnd .sat u
  | 3 => floatToInt .i64 a32 rnd .sat u
  | 4 => roundTo .f64 (.ofInt (sx x)) rnd .inf false u
  | _ => roundTo .f32 (.ofInt (sx x)) rnd .inf false u

/-- FCVT (R118): every kind takes its draw under code 100. -/
def execFcvt (h : Hdr) (o : RRR) (s : State) : Res :=
  slotRun h s fun s =>
    let p := s.draw o.rnd
    let r := fcvtResult (o.fn.toNat % 8) (s.s o.x) o.rnd p.2
    (p.1.put h 4 (.s o.d.toNat (BitVec.ofNat 64 r.bits))).putFlags h.cls.toNat 4 r.flags

/-- FCMP: the condition FN[2:0] in the width FN[3] into q[d]; no flag (R118). -/
def execFcmp (h : Hdr) (o : RRR) (s : State) : Res :=
  slotRun h s fun s =>
    s.put h 2 (.q o.d.toNat (fpCond (o.fn.toNat % 8) (s.fp o.fpFmt o.x) (s.fp o.fpFmt o.y)))

end Sys2Proof.Machine
end

