-- ==== Sys2Proof/Machine/Vector.lean ====
section
/-!
DEFINITION. Cluster vector and predicate instructions (06 R141–R157, R163–R166): element arithmetic, compares, selects,
moves, conversions, predicate operations.
-/

namespace Sys2Proof

/-! ### Element arithmetic -/

/-- The bits of a float element with a subnormal flushed under FTZ (R89). -/
def flushBits (f : Fmt) (ftz : Bool) (n : Nat) : Nat :=
  if ftz && f.flushes && fpSubnormal f n then (if bit (f.fp.eb + f.fp.mb) n then f.signBit else 0) else n

/-- An integer result under R76, a float result under R100, from exact values of the sources (R143). -/
def arith1 (f : Fmt) (o : VRRRR) (i : Int → Int) (x : XV → XRes) (a u : Nat) : Rounded :=
  if f.isInt then intTo f (i (intValue f a)) o.ovf
  else (x (fpSource f o.ftz a)).round f o.rnd o.ovf o.ftz u

/-- The same for two sources. -/
def arith2 (f : Fmt) (o : VRRRR) (i : Int → Int → Int) (x : XV → XV → XRes) (a b u : Nat) : Rounded :=
  if f.isInt then intTo f (i (intValue f a) (intValue f b)) o.ovf
  else (x (fpSource f o.ftz a) (fpSource f o.ftz b)).round f o.rnd o.ovf o.ftz u

/-- Rank of a value in the total order among values of one kind: −0 below +0 (R149). -/
def XV.totalLt (a b : XV) : Bool :=
  a.lt b || (a.isZero && b.isZero && a.neg? && !b.neg?)

/-- Total order of floats (R149): all NaNs equal, greater than +∞ or less than −∞. -/
def totalLess (nanFirst : Bool) (a b : XV) : Bool :=
  match a.isNaN, b.isNaN with
  | true, true => false
  | true, false => nanFirst
  | false, true => !nanFirst
  | false, false => a.totalLt b

/-- IEEE minimum or maximum of two float elements, as bits (Table 6-1): default NaN, −0 < +0, exact. -/
def fpPick (f : Fmt) (ftz max : Bool) (a b : Nat) : Nat :=
  let x := fpSource f ftz a
  let y := fpSource f ftz b
  if x.isNaN || y.isNaN then f.defaultNaN
  else if (if max then x.totalLt y else y.totalLt x) then flushBits f ftz b else flushBits f ftz a

/-- Integer minimum or maximum of two elements by the format's signedness. -/
def intPick (f : Fmt) (max : Bool) (a b : Nat) : Nat :=
  if (if max then intValue f a < intValue f b else intValue f b < intValue f a) then b else a

/-- The format of width 2w that VMULW writes (R146). -/
def Fmt.widened : Fmt → Fmt
  | .i8 => .i16 | .i16 => .i32 | .i32 => .i64
  | .n8 => .n16 | .n16 => .n32 | .n32 => .n64
  | _ => .f32

/-- Latency that depends on the format family: the first figure for VI and VW, the second for VF (R80). -/
def Fmt.lat (f : Fmt) (i x : Nat) : Nat := if f.isFloat then x else i

/-- The conditions of VCMP and VCMPI on integers (Table 6-2). -/
def vecIntCond (c : Nat) (a b : Int) : Bool :=
  match c with
  | 0 => a == b
  | 1 => a != b
  | 2 => a < b
  | 3 => a ≤ b
  | 4 => b < a
  | 5 => b ≤ a
  | _ => false

/-- The conditions under the total order (Table 6-2). -/
def vecTotCond (c : Nat) (nanFirst : Bool) (a b : XV) : Bool :=
  let lt := totalLess nanFirst a b
  let gt := totalLess nanFirst b a
  match c with
  | 0 => !lt && !gt
  | 1 => lt || gt
  | 2 => lt
  | 3 => !gt
  | 4 => gt
  | 5 => !lt
  | _ => false

/-- One element rounded to an integral value of its format (R157). -/
def rndIntegral (f : Fmt) (ftz : Bool) (rnd : Rnd) (a u : Nat) : Rounded :=
  match fpSource f ftz a with
  | .nan => { bits := f.defaultNaN }
  | .inf _ => { bits := a }
  | .fin neg num den e =>
    if num = 0 then { bits := flushBits f ftz a }
    else
      let r := roundMag num den e 0 rnd neg u
      { bits := (roundTo f (.fin neg r.1 1 0) .ne .inf false 0).bits, flags := flagIf (!r.2) flagNX }

end Sys2Proof

namespace Sys2Proof.Machine

/-- Element e of a register of a cluster at width w. -/
def State.vel (s : State) (c : Nat) (r : BitVec 6) (w e : Nat) : Nat := elemOf (s.arch.vreg c r) w e

/-- An element-wise instruction of one register source. -/
def vec1 (h : Hdr) (o : VRRRR) (s : State) (lat : Nat) (draws : Bool) (f : Nat → Nat → Rounded) : Res :=
  clusterRun h s fun c s0 => s0.vmap h c lat o.fmt.width o.d o.rnd draws fun e u => f (s.vel c o.x o.fmt.width e) u

/-- An element-wise instruction of two register sources. -/
def vec2 (h : Hdr) (o : VRRRR) (s : State) (lat : Nat) (draws : Bool) (f : Nat → Nat → Nat → Rounded) : Res :=
  clusterRun h s fun c s0 => s0.vmap h c lat o.fmt.width o.d o.rnd draws fun e u =>
    f (s.vel c o.x o.fmt.width e) (s.vel c o.y o.fmt.width e) u

/-- An exact element-wise instruction of two register sources. -/
def vecBits (h : Hdr) (o : VRRRR) (s : State) (lat : Nat) (f : Nat → Nat → Nat) : Res :=
  vec2 h o s lat false fun a b _ => { bits := f a b }

/-- A destination whose elements are computed from their index and cluster (R152–R155). -/
def vecGen (h : Hdr) (d : BitVec 6) (w : Nat) (s : State) (lat : Nat) (f : Nat → Nat → Nat) : Res :=
  clusterRun h s fun c s0 => s0.vmap h c lat w d .ne false fun e _ => { bits := f c e }

/-- A predicate destination with one result for each selected element (R148, R164–R166). -/
def predGen (h : Hdr) (d : BitVec 6) (w : Nat) (s : State) (lat : Nat) (f : Nat → Nat → Bool) : Res :=
  clusterRun h s fun c s0 => s0.putP c lat d (predOf w (f c)) (selMask (s.arch.vguard c h) w)

/-! ### Arithmetic (R145) -/

/-- VADD. -/
def execVadd (h : Hdr) (o : VRRRR) (s : State) : Res :=
  vec2 h o s (o.fmt.lat 2 4) o.fmt.isFloat (arith2 o.fmt o (· + ·) (XV.add o.rnd))

/-- VSUB. -/
def execVsub (h : Hdr) (o : VRRRR) (s : State) : Res :=
  vec2 h o s (o.fmt.lat 2 4) o.fmt.isFloat (arith2 o.fmt o (· - ·) fun a b => a.add o.rnd b.negate)

/-- VMUL. -/
def execVmul (h : Hdr) (o : VRRRR) (s : State) : Res :=
  vec2 h o s 4 o.fmt.isFloat (arith2 o.fmt o (· * ·) XV.mul)

/-- VMULH: the high half of the exact product, signed or unsigned by format. -/
def execVmulh (h : Hdr) (o : VRRRR) (s : State) : Res :=
  vecBits h o s 4 fun a b => wrapTo o.fmt.width (intValue o.fmt a * intValue o.fmt b / 2 ^ o.fmt.width)

/-- Fused multiply-add of float elements; the addend's sign is inverted for VFMS. -/
def vecFma (h : Hdr) (o : VRRRR) (neg : Bool) (s : State) : Res :=
  clusterRun h s fun c s0 => s0.vmap h c 5 o.fmt.width o.d o.rnd true fun e u =>
    let v := fun r => fpSource o.fmt o.ftz (s.vel c r o.fmt.width e)
    (XV.fma o.rnd (v o.x) (v o.y) (if neg then (v o.z).negate else v o.z)).round o.fmt o.rnd o.ovf o.ftz u

/-- VFMA: x × y + z with one rounding. -/
def execVfma (h : Hdr) (o : VRRRR) (s : State) : Res := vecFma h o false s

/-- VFMS: x × y − z with one rounding. -/
def execVfms (h : Hdr) (o : VRRRR) (s : State) : Res := vecFma h o true s

/-- VMIN and VMAX. -/
def vecPick (h : Hdr) (o : VRRRR) (max : Bool) (s : State) : Res :=
  vecBits h o s (o.fmt.lat 2 4) fun a b =>
    if o.fmt.isInt then intPick o.fmt max a b else fpPick o.fmt o.ftz max a b

/-- VMIN. -/
def execVmin (h : Hdr) (o : VRRRR) (s : State) : Res := vecPick h o false s

/-- VMAX. -/
def execVmax (h : Hdr) (o : VRRRR) (s : State) : Res := vecPick h o true s

/-- A change of sign without rounding (VABS, VNEG): a NaN gives the default NaN. -/
def signOp (f : Fmt) (ftz : Bool) (g : Nat → Nat) (a : Nat) : Rounded :=
  { bits := if (fpValue f a).isNaN then f.defaultNaN else g (flushBits f ftz a) }

/-- VABS. -/
def execVabs (h : Hdr) (o : VRRRR) (s : State) : Res :=
  vec1 h o s 2 false fun a _ =>
    if o.fmt.isInt then intTo o.fmt (intValue o.fmt a).natAbs o.ovf
    else signOp o.fmt o.ftz (fun n => n % o.fmt.signBit) a

/-- VNEG. -/
def execVneg (h : Hdr) (o : VRRRR) (s : State) : Res :=
  vec1 h o s 2 false fun a _ =>
    if o.fmt.isInt then intTo o.fmt (-intValue o.fmt a) o.ovf
    else signOp o.fmt o.ftz (fun n => Nat.xor n o.fmt.signBit) a

/-- VMULW (R146): products of half H of the sources at twice the width. -/
def execVmulw (h : Hdr) (o : VRRRR) (s : State) : Res :=
  let f := o.fmt
  let w := f.width
  let off := o.sub.toNat % 2 * elemCount (2 * w)
  clusterRun h s fun c s0 => s0.vmap h c 4 (2 * w) o.d o.rnd f.isFloat fun i u =>
    let a := s.vel c o.x w (i + off)
    let b := s.vel c o.y w (i + off)
    if f.isInt then { bits := wrapTo (2 * w) (intValue f a * intValue f b) }
    else ((fpSource f o.ftz a).mul (fpSource f o.ftz b)).round f.widened o.rnd o.ovf o.ftz u

/-! ### Logic, shifts, counts (R145) -/

/-- VAND. -/
def execVand (h : Hdr) (o : VRRRR) (s : State) : Res := vecBits h o s 2 Nat.land

/-- VOR. -/
def execVor (h : Hdr) (o : VRRRR) (s : State) : Res := vecBits h o s 2 Nat.lor

/-- VXOR. -/
def execVxor (h : Hdr) (o : VRRRR) (s : State) : Res := vecBits h o s 2 Nat.xor

/-- VANDN: x and not y. -/
def execVandn (h : Hdr) (o : VRRRR) (s : State) : Res :=
  vecBits h o s 2 fun a b => Nat.land a (2 ^ o.fmt.width - 1 - b)

/-- VSHL. -/
def execVshl (h : Hdr) (o : VRRRR) (s : State) : Res :=
  vecBits h o s 2 fun a b => a * 2 ^ (b % o.fmt.width) % 2 ^ o.fmt.width

/-- VSHR. -/
def execVshr (h : Hdr) (o : VRRRR) (s : State) : Res := vecBits h o s 2 fun a b => a >>> (b % o.fmt.width)

/-- VSHRA: fills with the top bit, whatever the signedness. -/
def execVshra (h : Hdr) (o : VRRRR) (s : State) : Res :=
  vecBits h o s 2 fun a b => wrapTo o.fmt.width (sval o.fmt.width a / 2 ^ (b % o.fmt.width))

/-- VADDI: x + IMM under R76. -/
def execVaddi (h : Hdr) (o : VRRI) (s : State) : Res :=
  clusterRun h s fun c s0 => s0.vmap h c 2 o.fmt.width o.d o.rnd false fun e _ =>
    intTo o.fmt (intValue o.fmt (s.vel c o.x o.fmt.width e) + o.value h) o.ovf

/-- VMOVI: IMM in every selected element. -/
def execVmovi (h : Hdr) (o : VRRI) (s : State) : Res :=
  vecGen h o.d o.fmt.width s 2 fun _ _ => wrapTo o.fmt.width (o.value h)

/-- VCLZ. -/
def execVclz (h : Hdr) (o : VRRRR) (s : State) : Res :=
  vec1 h o s 2 false fun a _ => { bits := leadingZeros o.fmt.width a }

/-- VPOPC. -/
def execVpopc (h : Hdr) (o : VRRRR) (s : State) : Res :=
  vec1 h o s 2 false fun a _ => { bits := popCount o.fmt.width a }

/-! ### Compares and selects (R148–R151) -/

/-- The condition of VCMP on two elements (Table 6-2). -/
def vcmpElem (o : VRRRR) (a b : Nat) : Bool :=
  let n := o.sub.toNat
  if o.fmt.isInt then vecIntCond (n % 8) (intValue o.fmt a) (intValue o.fmt b)
  else
    let x := fpSource o.fmt o.ftz a
    let y := fpSource o.fmt o.ftz b
    if bit 3 n then vecTotCond (n % 8) (bit 4 n) x y else fpCond (n % 8) x y

/-- VCMP (R148). -/
def execVcmp (h : Hdr) (o : VRRRR) (s : State) : Res :=
  predGen h o.d o.fmt.width s (o.fmt.lat 2 4) fun c e =>
    vcmpElem o (s.vel c o.x o.fmt.width e) (s.vel c o.y o.fmt.width e)

/-- VCMPI (R148). -/
def execVcmpi (h : Hdr) (o : VRRI) (s : State) : Res :=
  predGen h o.d o.fmt.width s 2 fun c e =>
    vecIntCond (o.sub.toNat % 8) (intValue o.fmt (s.vel c o.x o.fmt.width e)) (o.value h)

/-- The order of VCSWP: x is greater than y (R150). -/
def swapGreater (o : VRRRR) (a b : Nat) : Bool :=
  if o.fmt.isInt then intValue o.fmt b < intValue o.fmt a
  else totalLess (bit 0 o.sub.toNat) (fpSource o.fmt o.ftz b) (fpSource o.fmt o.ftz a)

/-- VCSWP (R150): the original bits move; both destinations land together. -/
def execVcswp (h : Hdr) (o : VRRRR) (s : State) : Res :=
  let w := o.fmt.width
  clusterRun h s fun c s0 =>
    let out := fun (larger : Bool) => vregOf w ((List.range (elemCount w)).map fun e =>
      let a := s.vel c o.x w e
      let b := s.vel c o.y w e
      if swapGreater o a b == larger then a else b)
    let m := selMask (s.arch.vguard c h) w
    (s0.putV c (o.fmt.lat 2 4) o.d (out false) m).putV c (o.fmt.lat 2 4) o.z (out true) m

/-- VSEL (R151). -/
def execVsel (h : Hdr) (o : VRRRR) (s : State) : Res :=
  vecGen h o.d o.fmt.width s 2 fun c e =>
    s.vel c (if elemSel (s.arch.preg c o.z.toNat) o.fmt.width e then o.x else o.y) o.fmt.width e

/-! ### Broadcast, index, shuffle, cross-cluster copy (R152–R155) -/

/-- VBCS (R152). -/
def execVbcs (h : Hdr) (o : VRRRR) (s : State) : Res :=
  vecGen h o.d o.fmt.width s 2 fun _ _ => (s.s o.x).toNat % 2 ^ o.fmt.width

/-- VIDX (R153). -/
def execVidx (h : Hdr) (o : VRRI) (s : State) : Res :=
  let w := o.fmt.width
  vecGen h o.d w s 2 fun c e =>
    let g := if bit 5 o.sub.toNat then c * elemCount w + e else e
    wrapTo w (o.value h + g * (o.sub.toNat % 32))

/-- The source element of a shuffle: from x or from y (Table 6-3). -/
def shuffleElem (k n : Nat) (x y : Nat → Nat) (e : Nat) : Nat :=
  let half := n / 2
  match k with
  | 0 => x (y e % n)
  | 1 => if e % 2 = 0 then x (e / 2) else y (e / 2)
  | 2 => if e % 2 = 0 then x (half + e / 2) else y (half + e / 2)
  | 3 => if e < half then x (2 * e) else y (2 * (e - half))
  | 4 => if e < half then x (2 * e + 1) else y (2 * (e - half) + 1)
  | 5 => x (n - 1 - e)
  | _ => x (if e % 2 = 0 then e + 1 else e - 1)

/-- VSHUF (R154). -/
def execVshuf (h : Hdr) (o : VRRRR) (s : State) : Res :=
  let w := o.fmt.width
  vecGen h o.d w s 3 fun c e => shuffleElem o.sub.toNat (elemCount w) (s.vel c o.x w) (s.vel c o.y w) e

/-- VXCP (R155). -/
def execVxcp (h : Hdr) (o : VRRI) (s : State) : Res :=
  let w := o.fmt.width
  let imm := (o.value h).toNat
  vecGen h o.d w s 3 fun c e => s.vel (if bit 3 imm then (c + imm % 8) % 8 else imm % 8) o.x w e

/-! ### Conversion (R156, R157) -/

/-- The source format of VCVT, and of RDRN in field z. -/
def cvtFrom (c : BitVec 6) : Fmt := (Fmt.ofCode (c.setWidth 5)).getD .f64

/-- One element converted (R100, R102). -/
def convertElem (src dst : Fmt) (rnd : Rnd) (ovf : Ovf) (ftz : Bool) (a u : Nat) : Rounded :=
  roundElem dst (elemValue src ftz a) rnd ovf ftz u

/-- Destination and source element of step i of a conversion of part P (R156). -/
def cvtPlace (ws wd p n i : Nat) : Nat × Nat := if wd ≤ ws then (i + p * n, i) else (i, i + p * n)

/-- VCVT (R156): one part; the other destination elements keep their values. -/
def execVcvt (h : Hdr) (o : VRRRR) (s : State) : Res :=
  let src := cvtFrom o.sub
  let ws := src.width
  let wd := o.fmt.width
  let n := elemCount (Nat.max ws wd)
  let p := o.y.toNat
  let base := if wd ≤ ws then p * n else 0
  clusterRun h s fun c s0 =>
    let g := s.arch.vguard c h
    let es := (List.range n).map (base + ·)
    let r := mapElems o.rnd (src.isFloat || o.fmt.isFloat) (fun e => elemSel g wd e)
      (fun e u => convertElem src o.fmt o.rnd o.ovf o.ftz
        (s.vel c o.x ws (if wd ≤ ws then e - base else e + p * n)) u) s0 es
    match r.trap with
    | some e => r.st.raise (clusterClass c) Cause.overflow e (some c)
    | none =>
      let val := BitVec.ofNat 1024 (packElems wd r.out * 2 ^ (wd * base))
      (r.st.putV c 4 o.d val (coverMask wd (es.filter fun e => elemSel g wd e))).putFlags (clusterClass c) 4 r.flags

/-- VRNDI (R157). -/
def execVrndi (h : Hdr) (o : VRRRR) (s : State) : Res :=
  vec1 h o s 4 true (rndIntegral o.fmt o.ftz o.rnd)

/-! ### Predicate operations (R163–R166) -/

/-- Predicate logic on the 128 bits; the guard selects per bit (R163). -/
def predLogic (h : Hdr) (o : VRRRR) (s : State) (f : PReg → PReg → PReg) : Res :=
  clusterRun h s fun c s0 =>
    s0.putP c 1 o.d (f (s.arch.preg c o.x.toNat) (s.arch.preg c o.y.toNat)) (s.arch.vguard c h)

/-- PAND. -/
def execPand (h : Hdr) (o : VRRRR) (s : State) : Res := predLogic h o s (· &&& ·)

/-- POR. -/
def execPor (h : Hdr) (o : VRRRR) (s : State) : Res := predLogic h o s (· ||| ·)

/-- PXOR. -/
def execPxor (h : Hdr) (o : VRRRR) (s : State) : Res := predLogic h o s (· ^^^ ·)

/-- PNOT. -/
def execPnot (h : Hdr) (o : VRRRR) (s : State) : Res := predLogic h o s fun a _ => ~~~a

/-- PMOV (R164). -/
def execPmov (h : Hdr) (o : VRRRR) (s : State) : Res :=
  let w := o.fmt.width
  match o.sub.toNat % 4 with
  | 0 => predGen h o.d w s 1 fun c e => elemSel (s.arch.preg c o.x.toNat) w e
  | 1 => vecGen h o.d w s 1 fun c e => if elemSel (s.arch.preg c o.x.toNat) w e then 2 ^ w - 1 else 0
  | _ => predGen h o.d w s 1 fun c e => s.vel c o.x w e != 0

/-- PFIRST (R165). -/
def execPfirst (h : Hdr) (o : VRRRR) (s : State) : Res :=
  let w := o.fmt.width
  predGen h o.d w s 1 fun c e =>
    let p := s.arch.preg c o.x.toNat
    (List.range (elemCount w)).find? (fun i => elemSel p w i) == some e

/-- PCNT (R165): the count in every 64-bit lane. -/
def execPcnt (h : Hdr) (o : VRRRR) (s : State) : Res :=
  let w := o.fmt.width
  vecGen h o.d 64 s 2 fun c _ =>
    let p := s.arch.preg c o.x.toNat
    ((List.range (elemCount w)).filter fun i => elemSel p w i).length

/-- PSET (R166). -/
def execPset (h : Hdr) (o : VRRI) (s : State) : Res :=
  let w := o.fmt.width
  let imm := (o.value h).toNat
  predGen h o.d w s 1 fun _ e =>
    match o.sub.toNat with
    | 0 => e < imm
    | 1 => imm ≤ e
    | _ => e % (imm % 256) == imm / 256 % 256

end Sys2Proof.Machine
end

