-- ==== Sys2Proof/Machine/Special.lean ====
section
/-!
DEFINITION. The special functions of VSF (06 R158, Table 6-4): exact where the value is a number of the format's kind, else a
value that lies between the same two grid points, and on the same side of every rounding boundary, as the mathematical one
(log 6).
-/

namespace Sys2Proof

/-! ### Fixed point: numbers scaled by 2^vsfBits -/

/-- The scale. -/
def fxOne : Nat := 2 ^ Config.vsfBits

/-- A product of two fixed-point numbers. -/
def fxMul (a b : Nat) : Nat := a * b / fxOne

/-- Σ r^(2k+1)/(2k+1) with the sign alternating if `alt`: atanh or atan of r (below 1). -/
def fxAtanSeries (alt : Bool) (rr : Nat) : Nat → Nat → Nat → Int
  | 0, _, _ => 0
  | n + 1, k, p =>
    (if alt && k % 2 == 1 then -((p / (2 * k + 1) : Nat) : Int) else ((p / (2 * k + 1) : Nat) : Int)) +
      fxAtanSeries alt rr n (k + 1) (fxMul p rr)

/-- atanh of a fixed-point number of at most 1/3. -/
def fxAtanh (r : Nat) : Nat := (fxAtanSeries false (fxMul r r) 240 0 r).toNat

/-- ln 2 = 2 atanh(1/3). -/
def fxLn2 : Nat := 2 * fxAtanh (fxOne / 3)

/-- π = 16 atan(1/5) − 4 atan(1/239). -/
def fxPi : Nat :=
  let at_ := fun q => (fxAtanSeries true (fxMul (fxOne / q) (fxOne / q)) 160 0 (fxOne / q)).toNat
  16 * at_ 5 - 4 * at_ 239

/-- Σ z^n/n! from a term on. -/
def fxExpSeries (z : Nat) : Nat → Nat → Nat → Nat
  | 0, _, _ => 0
  | n + 1, k, p => p + fxExpSeries z n (k + 1) (fxMul p z / (k + 1))

/-- e^z for a fixed-point z below 1. -/
def fxExp (z : Nat) : Nat := fxExpSeries z 160 0 fxOne

/-- Σ ±z^(2k)/(2k)! or the odd terms: cosine or sine from its first term. -/
def fxTrigSeries (zz : Nat) : Nat → Nat → Bool → Nat → Int
  | 0, _, _, _ => 0
  | n + 1, k, neg, p =>
    (if neg then -(p : Int) else (p : Int)) + fxTrigSeries zz n (k + 2) (!neg) (fxMul p zz / ((k + 1) * (k + 2)))

/-- sin z and cos z for a fixed-point z below 2. -/
def fxSin (z : Nat) : Nat := (fxTrigSeries (fxMul z z) 100 1 false z).toNat
def fxCos (z : Nat) : Nat := (fxTrigSeries (fxMul z z) 100 0 false fxOne).toNat

/-- A nonnegative num/den × 2^e in fixed point, rounded down. -/
def fxOf (num den : Nat) (e : Int) : Nat :=
  let k := e + Config.vsfBits
  if 0 ≤ k then num * pow2 k / den else num / (den * pow2 (-k))

/-- A fixed-point number as a value that is not on a rounding boundary: half a unit above. -/
def fxVal (neg : Bool) (a : Nat) (e : Int) : XV := .fin neg (2 * a + 1) 1 (e - Config.vsfBits - 1)

/-! ### The functions -/

/-- 1/√x of a positive value. -/
def rsqrtPos (num den : Nat) (e : Int) : XV :=
  -- x = n / d with n, d integers
  let n := num * pow2 e
  let d := den * pow2 (-e)
  let r := Nat.sqrt (d * 2 ^ (2 * Config.vsfBits) / n)
  if r * r * n = d * 2 ^ (2 * Config.vsfBits) then .fin false r 1 (-(Config.vsfBits : Int)) else fxVal false r 0

/-- The whole and fixed-point fractional part of a finite value: floor, and fraction. -/
def floorFrac (neg : Bool) (num den : Nat) (e : Int) : Int × Nat × Bool :=
  let n := num * pow2 e
  let d := den * pow2 (-e)
  let q := n / d
  let r := n % d
  if neg then (if r = 0 then (-(q : Int), 0, true) else (-(q : Int) - 1, fxOne - fxOne * r / d, false))
  else (q, fxOne * r / d, r == 0)

/-- 2^x of a finite value; an exponent far outside every format is held at 5,000. -/
def exp2Fin (neg : Bool) (num den : Nat) (e : Int) : XV :=
  if 13 < leadExp num den e then .fin false 1 1 (if neg then -5000 else 5000)
  else
    let p := floorFrac neg num den e
    let i := p.1
    if p.2.2 then .fin false 1 1 i else fxVal false (fxExp (fxMul p.2.1 fxLn2)) i

/-- A finite value is a power of two. -/
def isPow2 (num den : Nat) : Bool := num == 2 ^ Nat.log2 num && den == 1

/-- log₂ of a positive finite value. -/
def log2Pos (num den : Nat) (e : Int) : XV :=
  let l := leadExp num den e
  if isPow2 num den then .ofInt l
  else
    -- m = x / 2^l lies in [1, 2)
    let m := fxOf num den (e - l)
    let ln := 2 * fxAtanh ((m - fxOne) * fxOne / (m + fxOne))
    let frac := ln * fxOne / fxLn2
    let v : Int := l * fxOne + frac
    fxVal (v < 0) (if v < 0 then v.natAbs - 1 else v.natAbs) 0

/-- tanh of a finite nonzero value: (e^2z − 1)/(e^2z + 1), with e^2z by repeated squaring; from 64 on it is held just below
1. -/
def tanhFin (neg : Bool) (num den : Nat) (e : Int) : XV :=
  if 6 ≤ leadExp num den e then .fin neg (2 ^ 180 - 1) 1 (-180)
  else
    -- z / 2^7 is below 1; 2z = 256 × (z / 128)
    let ex := (List.range 8).foldl (fun x _ => fxMul x x) (fxExp (fxOf num den (e - 7)))
    fxVal neg ((ex - fxOne) * fxOne / (ex + fxOne)) 0

/-- sin(πy) of 0 < y ≤ 1/2, y = num/den × 2^e. -/
def sinPiHalf (neg : Bool) (num den : Nat) (e : Int) : XV :=
  let half := XV.fin false 1 1 (-1)
  let y := XV.fin false num den e
  if y.eqv half then .fin neg 1 1 0
  else if y.lt (.fin false 1 1 (-2)) then
    -- sin(πy) / y keeps the scale of a small y
    fxVal neg (fxSin (fxMul fxPi (fxOf num den e))) 0
  else match finAdd .ne false 1 1 (-1) true num den e with
    | .fin _ n d k => fxVal neg (fxCos (fxMul fxPi (fxOf n d k))) 0
    | x => x

/-- sin(πx) of a finite nonzero |x| ≤ 1. -/
def sinPi (neg : Bool) (num den : Nat) (e : Int) : XV :=
  let y := XV.fin false num den e
  if y.lt (.fin false 1 1 (-1)) || y.eqv (.fin false 1 1 (-1)) then sinPiHalf neg num den e
  else match finAdd .ne false 1 1 0 true num den e with
    | .fin _ n d k => if n = 0 then .fin neg 0 1 0 else sinPiHalf neg n d k
    | x => x

/-- cos(πx) = sin(π(1/2 − |x|)) of a finite |x| ≤ 1. -/
def cosPi (num den : Nat) (e : Int) : XV :=
  match finAdd .ne false 1 1 (-1) true num den e with
  | .fin s n d k => if n = 0 then .fin false 0 1 0 else sinPiHalf s n d k
  | x => x

/-- A magnitude exceeds 1. -/
def aboveOne (num den : Nat) (e : Int) : Bool := magLt 1 1 0 num den e

/-- f(x) of Table 6-4 with its special results. -/
def specialFn (k : Nat) (x : XV) : XRes :=
  let one := XV.fin false 1 1 0
  match k, x with
  | _, .nan => ⟨.nan, 0⟩
  | 0, x => XV.div one x
  | 1, .inf s => if s then ⟨.nan, flagIV⟩ else ⟨.fin false 0 1 0, 0⟩
  | 1, .fin s n d e =>
    if n = 0 then ⟨.inf s, flagDZ⟩ else if s then ⟨.nan, flagIV⟩ else ⟨rsqrtPos n d e, 0⟩
  | 2, .inf s => ⟨if s then .fin false 0 1 0 else .inf false, 0⟩
  | 2, .fin s n d e => ⟨if n = 0 then one else exp2Fin s n d e, 0⟩
  | 3, .inf s => if s then ⟨.nan, flagIV⟩ else ⟨.inf false, 0⟩
  | 3, .fin s n d e =>
    if n = 0 then ⟨.inf true, flagDZ⟩ else if s then ⟨.nan, flagIV⟩ else ⟨log2Pos n d e, 0⟩
  | 4, .inf s => ⟨.fin s 1 1 0, 0⟩
  | 4, .fin s n d e => ⟨if n = 0 then x else tanhFin s n d e, 0⟩
  | 5, .inf _ => ⟨.nan, flagIV⟩
  | 5, .fin s n d e =>
    if n = 0 then ⟨x, 0⟩ else if aboveOne n d e then ⟨.nan, flagIV⟩ else ⟨sinPi s n d e, 0⟩
  | _, .inf _ => ⟨.nan, flagIV⟩
  | _, .fin _ n d e => if aboveOne n d e then ⟨.nan, flagIV⟩ else ⟨cosPi n d e, 0⟩

end Sys2Proof

namespace Sys2Proof.Machine

/-- VSF (R158). -/
def execVsf (h : Hdr) (o : VRRRR) (s : State) : Res :=
  vec1 h o s 12 true fun a u =>
    (specialFn o.sub.toNat (fpSource o.fmt o.ftz a)).round o.fmt o.rnd o.ovf o.ftz u

end Sys2Proof.Machine
end

