-- ==== Sys2Proof/Machine/Quant.lean ====
section
/-!
DEFINITION. Block formats (04 R91–R98), the quantiser (R109–R111), and the block records of VQBLK and VDQ (06 R159–R162).
-/

namespace Sys2Proof

/-! ### Block formats (Table 4-2) -/

/-- The element format of a block format. -/
def Fmt.elem : Fmt → Fmt
  | .hb8a => .f8a | .hb8b => .f8b | .hb4 => .f4 | .hbi8 => .i8 | .hbi4 => .i4 | f => f

/-- The escape code of a block format's elements: the sign bit alone. -/
def Fmt.escape (f : Fmt) : Nat := 2 ^ (f.width - 1)

/-- The largest magnitude that the quantiser uses. -/
def Fmt.maxq : Fmt → Nat
  | .hb8a => 448 | .hb8b => 57344 | .hb4 => 6 | .hbi8 => 127 | _ => 7

/-- The largest finite code with a sign (R111). -/
def Fmt.clipCode (f : Fmt) (neg : Bool) : Nat :=
  match f with
  | .hbi8 | .hbi4 => wrapTo f.width (if neg then -(f.maxq : Int) else f.maxq)
  | _ => (if neg then f.escape else 0) + f.elem.maxFiniteBits

/-- A scale: NaN, or the nonnegative value num × 2^e (Table 4-4). -/
def scaleValue (fs8 : Bool) (c : Nat) : XV :=
  if c = 0xFF then .nan
  else if !fs8 then .fin false 1 1 ((c : Int) - 127)
  else if c < 8 then .fin false c 1 (-17)
  else .fin false (8 + c % 8) 1 ((c / 8 : Nat) - 18)

/-- The value of an element without its scale. -/
def blockElem (f : Fmt) (n : Nat) : XV := elemValue f.elem false n

/-- decode of R94. -/
def blockDecode (v s : XV) : XV :=
  match s with
  | .nan => .nan
  | .inf _ => .nan
  | .fin _ sn _ se =>
    match v with
    | .nan => .nan
    | .inf b => if sn = 0 then .nan else .inf b
    | .fin b n d e => .fin b (n * sn) d (e + se)

/-- Header fields (Table 4-3). -/
def hdrEsc (h : Nat) : Bool := bit 1 h
def hdrCount (h : Nat) : Nat := bits 7 2 h

/-- A block's header fits its 32 elements (R92). -/
def headerOk (f : Fmt) (h : Nat) (elems : List Nat) : Bool :=
  hdrCount h ≤ 32 &&
  (if hdrEsc h then hdrCount h == (elems.filter fun e => e == f.escape).length else hdrCount h == 0)

/-- The element is an escape under the header (R95). -/
def isEscape (f : Fmt) (h e : Nat) : Bool := hdrEsc h && e == f.escape

/-- Fields of a stipple-list entry (Table 4-5). -/
def entryZero (n : Nat) : Bool := bit 31 n
def entryPos (n : Nat) : Nat := bits 30 16 n
def entryValue (n : Nat) : XV := fpValue .bf16 (n % 2 ^ 16)

/-- Element i of packed bytes at width w, w 4 or 8 (R91). -/
def blockAt (w : Nat) (bytes : List Byte) (i : Nat) : Nat :=
  if w = 8 then (bytes.getD i 0).toNat else ((bytes.getD (i / 2) 0).toNat >>> (4 * (i % 2))) % 16

/-- An outlier as BF16 by nearest-even, overflow to infinity (R111). -/
def outlierBits (x : XV) : Nat := (roundTo .bf16 x .ne .inf false 0).bits

/-! ### The quantiser (R109, R110) -/

/-- The fields that govern a quantisation. -/
structure QParams where
  fmt : Fmt
  fs8 : Bool
  e : Nat
  delta : Nat
  rnd : Rnd
  ovf : Ovf
  ftz : Bool
  deriving DecidableEq, Repr

/-- A magnitude ranks above another: NaN above infinity above finite. -/
def rankAbove (a b : XV) : Bool :=
  match a, b with
  | .nan, .nan => false
  | .nan, _ => true
  | _, .nan => false
  | .inf _, .inf _ => false
  | .inf _, _ => true
  | _, .inf _ => false
  | a, b => b.abs.lt a.abs

/-- Insertion by rank, equal magnitudes lower index first. -/
def insertRank (x : Nat × XV) : List (Nat × XV) → List (Nat × XV)
  | [] => [x]
  | y :: ys => if rankAbove y.2 x.2 then y :: insertRank x ys else x :: y :: ys

/-- The elements in rank order. -/
def ranked (xs : List (Nat × XV)) : List (Nat × XV) := xs.foldr insertRank []

/-- The outliers elected (R109 step 1), ascending. -/
def elect (q : QParams) (x : List XV) : List Nat :=
  if q.e = 0 then []
  else
    let r := ranked (x.mapIdx fun i v => (i, v))
    let m := (r.getD q.e (0, .nan)).2
    let bound := match m.abs with
      | .fin _ n d k => XV.fin false n d (k + q.delta)
      | v => v
    let won := (r.take q.e).filter fun p => !p.2.isZero && !rankAbove bound p.2
    (List.range 32).filter fun i => won.any fun p => p.1 == i

/-- The quotient that the quantiser rounds. Over the zero FS8 scale, the candidate of a block of zeros, R109 defines no
quotient: DESIGN CHOICE of log 74 (unsafe for the codes; the values under the zero scale are 0), a zero of the element's
sign. -/
def quotient (x s : XV) : XV := if s.isZero then XV.fin x.neg? 0 1 0 else (x.div s).val

/-- quantise of one finite element over a scale: its code, its flags, a trap; and whether it met overflow. With escapes
enabled an integer result of exactly −2^(w−1) counts as an overflow: DESIGN CHOICE of log 27. -/
def quantiseElem (q : QParams) (x s : XV) (u : Nat) : Rounded × Bool :=
  let y := quotient x s
  let esc := q.e != 0
  let f := q.fmt.elem
  if f.isInt then
    let r := match y with
      | .fin b n d k => gridInt b n d k q.rnd u
      | _ => (0, true)
    let n := r.1
    let lo : Int := if esc then f.minInt + 1 else f.minInt
    if lo ≤ n ∧ n ≤ f.maxInt then ({ bits := wrapTo f.width n, flags := flagIf (!r.2) flagNX }, false)
    else match q.ovf with
      | .trap => ({ bits := 0, trap := true }, true)
      | .sat => ({ bits := wrapTo f.width (if n < 0 then lo else f.maxInt), flags := flagISAT }, true)
      | _ =>
        let w := wrapTo f.width n
        ({ bits := if esc && w == q.fmt.escape then wrapTo f.width lo else w }, true)
  else
    let r := roundTo f y q.rnd q.ovf q.ftz u
    ({ r with bits := if esc && r.bits == q.fmt.escape then 0 else r.bits },
     r.trap || r.flags &&& (flagOF ||| flagSAT) != 0)

/-- A candidate scale with what it gives: the elements' codes, flags, the elements that trap, and the error (none for ∞). -/
structure Candidate where
  code : Nat
  elems : List (Nat × Nat)
  flags : Flags
  traps : List Nat
  err : Option (Nat × Int)
  deriving Repr

/-- Sum of two nonnegative dyadic numbers n × 2^e. -/
def dyadAdd (a b : Nat × Int) : Nat × Int :=
  let e := min a.2 b.2
  (a.1 * pow2 (a.2 - e) + b.1 * pow2 (b.2 - e), e)

/-- Order of two nonnegative dyadic numbers. -/
def dyadLe (a b : Nat × Int) : Bool :=
  let e := min a.2 b.2
  a.1 * pow2 (a.2 - e) ≤ b.1 * pow2 (b.2 - e)

/-- The square of the error of one element. -/
def errSq (f : Fmt) (x s : XV) (code : Nat) : Nat × Int :=
  match XV.add .ne x (blockDecode (blockElem f code) s).negate with
  | ⟨.fin _ n _ e, _⟩ => (n * n, 2 * e)
  | _ => (0, 0)

/-- One candidate (R109 step 3) over the finite elements that are not elected, each with its draw. -/
def tryScale (q : QParams) (xs : List (Nat × XV × Nat)) (c : Nat) : Candidate :=
  let s := scaleValue q.fs8 c
  let rs := xs.map fun x => (x.1, x.2.1, quantiseElem q x.2.1 s x.2.2)
  let overBy := rs.any fun r => r.2.2.2
  { code := c, elems := rs.map fun r => (r.1, r.2.2.1.bits),
    flags := rs.foldl (fun f r => f ||| r.2.2.1.flags) 0, traps := (rs.filter fun r => r.2.2.1.trap).map (·.1),
    err := if overBy && q.ovf != .sat then none
           else some (rs.foldl (fun a r => dyadAdd a (errSq q.fmt r.2.1 s r.2.2.1.bits)) (0, 0)) }

/-- The candidate of least error, the higher code on a tie; the highest where every error is ∞ (R109 step 4). -/
def bestCandidate : List Candidate → Option Candidate
  | [] => none
  | c :: cs =>
    match bestCandidate cs with
    | none => some c
    | some d =>
      match c.err, d.err with
      | none, _ => some d
      | some _, none => some c
      | some a, some b => if dyadLe b a then some d else some c

/-- The codes that a scale kind offers. -/
def scaleCodes (fs8 : Bool) : List Nat := if fs8 then (List.range 254).map (· + 1) else List.range 255

/-- The base scale and its neighbours (R109 step 2) for the largest magnitude m; none where m is 0. -/
def candidateCodes (q : QParams) (m : XV) : List Nat :=
  if m.isZero then [if q.fs8 then 0 else 0x7F]
  else
    let codes := scaleCodes q.fs8
    let base := (codes.find? fun c => !((XV.mul (.ofInt q.fmt.maxq) (scaleValue q.fs8 c)).val.lt m)).getD 0xFE
    ((if base = 0 then [] else [base - 1]) ++ [base, base + 1]).filter fun c => codes.contains c

/-- What quantise_block gives: element codes, scale code, outliers, flags, and the first element that traps. -/
structure Quantised where
  elems : List Nat
  code : Nat
  outliers : List Nat
  flags : Flags
  trap : Option Nat
  deriving Repr

/-- One draw for each non-outlier element, ascending (R104). -/
def quantDraws (rnd : Rnd) (out : List Nat) : List Nat → Word → Word × List (Nat × Nat)
  | [], s => (s, [])
  | i :: is, s =>
    if out.contains i then quantDraws rnd out is s
    else
      let p := drawIf rnd s
      let r := quantDraws rnd out is p.1
      (r.1, (i, p.2) :: r.2)

/-- An infinity that is not elected, in integer elements: overflow() of R101, whose largest finite value is the format's
and which knows neither an infinity nor a NaN of it. -/
def intOverflow (f : Fmt) (neg : Bool) (ovf : Ovf) : Rounded :=
  match ovf with
  | .trap => { bits := 0, trap := true }
  | .sat => { bits := f.clipCode neg, flags := flagSAT ||| flagNX }
  | _ => { bits := f.clipCode neg, flags := flagOF ||| flagNX }

/-- A non-finite element that is not elected (R110): its code, flags, trap. -/
def quantSpecial (q : QParams) (x : XV) : Rounded :=
  match x with
  | .nan => if q.fmt.elem.hasNaN then { bits := q.fmt.elem.defaultNaN } else { bits := 0, flags := flagIV }
  | .inf b => if q.fmt.intElems then intOverflow q.fmt b q.ovf else roundTo q.fmt.elem x q.rnd q.ovf q.ftz 0
  | _ => { bits := 0 }

/-- quantise_block (R109, R110): 32 values from a generator state. -/
def quantiseBlock (q : QParams) (x : List XV) (seed : Word) : Word × Quantised :=
  let out := elect q x
  let d := quantDraws q.rnd out (List.range 32) seed
  let at_ := fun i => x.getD i .nan
  let isFin := fun v => match v with | XV.fin .. => true | _ => false
  let fins := (d.2.filter fun p => isFin (at_ p.1)).map fun p => (p.1, at_ p.1, p.2)
  let m := fins.foldl (fun (m : XV) p => if m.lt p.2.1.abs then p.2.1.abs else m) (.fin false 0 1 0)
  let best := (bestCandidate ((candidateCodes q m).map (tryScale q fins))).getD
    { code := 0, elems := [], flags := 0, traps := [], err := none }
  let specials := (d.2.filter fun p => !isFin (at_ p.1)).map fun p => (p.1, at_ p.1, quantSpecial q (at_ p.1))
  let spoiled := !q.fmt.elem.hasNaN && specials.any fun p => p.2.1.isNaN
  (d.1,
   { elems := (List.range 32).map fun i =>
       match specials.find? fun p => p.1 == i with
       | some p => p.2.2.bits
       | none => ((best.elems.find? fun p => p.1 == i).map (·.2)).getD 0,
     code := if spoiled then 0xFF else best.code,
     outliers := out,
     flags := specials.foldl (fun f p => f ||| p.2.2.flags) best.flags,
     trap := (best.traps ++ (specials.filter fun p => p.2.2.trap).map (·.1)).min? })

/-- Outliers that are appended, in ascending position, to a list with room for some more: for each whether it fits (R111). -/
def appended (room : Nat) (out : List Nat) : List Nat := out.take room

/-- A block's elements with its outliers put in: an escape where appended, else the largest finite code (R111). -/
def putOutliers (f : Fmt) (neg : Nat → Bool) (app out elems : List Nat) : List Nat :=
  elems.mapIdx fun i e =>
    if app.contains i then f.escape else if out.contains i then f.clipCode (neg i) else e

/-- The scale entry of a block: header and code (R91, R111). -/
def scaleEntry (fs8 : Bool) (e n code : Nat) : Nat :=
  (b2n fs8 + 2 * b2n (e != 0) + 4 * n) * 256 + code

/-- Packed bytes of block elements of width 4 or 8. -/
def packBlock (w : Nat) (elems : List Nat) : Nat := elems.foldr (fun e n => e % 2 ^ w + 2 ^ w * n) 0

/-- Outliers of EL (Table 6-6). -/
def outlierCount (el : Nat) : Nat := match el with | 0 => 0 | 1 => 1 | 2 => 2 | _ => 4

end Sys2Proof

namespace Sys2Proof.Machine

/-! ### VQBLK (R159–R161) -/

/-- The block record under construction. -/
structure Record where
  seed : Word
  dense : Nat
  scales : Nat
  entries : List Nat
  flags : Flags
  traps : List (Nat × Nat)

/-- One block put into a record: `x` its values with the signs of their patterns. -/
def recordBlock (q : QParams) (cp : Bool) (cap base j : Nat) (x : List (Bool × XV)) (r : Record) : Record :=
  let p := quantiseBlock q (x.map (·.2)) r.seed
  let b := p.2
  let neg := fun i => (x.getD i (false, .nan)).1
  let app := appended (cap - r.entries.length) b.outliers
  let excess := app.length < b.outliers.length
  let w := q.fmt.width
  { seed := p.1,
    dense := r.dense + packBlock w (putOutliers q.fmt neg app b.outliers b.elems) * 2 ^ (32 * w * j),
    scales := r.scales + scaleEntry q.fs8 q.e app.length b.code * 2 ^ (16 * j),
    entries := r.entries ++ app.map fun i =>
      (base + 32 * j + i) % 2 ^ 15 * 2 ^ 16 + outlierBits (x.getD i (false, .nan)).2,
    flags := r.flags ||| b.flags ||| flagIf (excess && !cp) flagSCLIP,
    traps := r.traps ++ (if excess && cp then [(Cause.stippleOverflow, cap)] else []) ++
      (b.trap.map fun i => (Cause.overflow, 32 * j + i)).toList }

/-- The 128 bytes of a record (Table 6-5). -/
def Record.value (r : Record) : VReg :=
  BitVec.ofNat 1024 (r.dense + r.scales * 2 ^ 512 + r.entries.length * 2 ^ 544 + packElems 32 r.entries * 2 ^ 576)

/-- VQBLK (R161): the guard is tested once, at byte 0. -/
def execVqblk (h : Hdr) (o : VRRI) (s : State) : Res :=
  let imm := (o.value h).toNat
  let n := o.sub.toNat
  let q : QParams := { fmt := o.fmt, fs8 := bit 0 imm, e := outlierCount (n / 16), delta := n % 16, rnd := o.rnd,
                       ovf := o.ovf, ftz := o.ftz }
  let src := if bit 2 imm then Fmt.f32 else Fmt.bf16
  let w := src.width
  clusterRun h s fun c s0 =>
    if !(s.arch.vguard c h).getLsbD 0 then s0
    else
      let base := bits 14 7 imm * 32 + (if bit 15 imm then 128 * c else 0)
      let x := fun j => (List.range 32).map fun i =>
        let a := s.vel c o.x w (32 * j + i)
        (bit (w - 1) a, fpSource src o.ftz a)
      let start : Record := { seed := s0.issue.seed, dense := 0, scales := 0, entries := [], flags := 0, traps := [] }
      let r := (List.range (if bit 2 imm then 1 else 2)).foldl (fun r j =>
        recordBlock q (bit 1 imm) (bits 6 3 imm) base j (x j) r) start
      let s1 := { s0 with issue := { s0.issue with seed := r.seed } }
      match r.traps with
      | t :: ts => (t :: ts).foldl (fun s t => s.raise (clusterClass c) t.1 t.2 (some c)) s1
      | [] => (s1.putV c 10 o.d r.value (BitVec.allOnes 128)).putFlags (clusterClass c) 10 r.flags

/-! ### VDQ (R162) -/

/-- Element i of block b of a record. -/
def recElem (f : Fmt) (v : VReg) (b i : Nat) : Nat := elemOf v f.width (32 * b + i)

/-- The scale entry of block b of a record. -/
def recScale (v : VReg) (b : Nat) : Nat := elemOf v 16 (32 + b)

/-- Entry j of a record. -/
def recEntry (v : VReg) (j : Nat) : Nat := elemOf v 32 (18 + j)

/-- The escapes of a record in ascending block and index. -/
def recEscapes (f : Fmt) (v : VReg) : List (Nat × Nat) :=
  [0, 1].flatMap fun b => ((List.range 32).filter fun i => isEscape f (recScale v b / 256) (recElem f v b i)).map fun i => (b, i)

/-- The checks of R162. -/
def recordOk (f : Fmt) (v : VReg) : Bool :=
  let nent := elemOf v 8 68
  let esc := recEscapes f v
  ([0, 1].all fun b => headerOk f (recScale v b / 256) ((List.range 32).map (recElem f v b))) &&
  nent ≤ 8 && hdrCount (recScale v 0 / 256) + hdrCount (recScale v 1 / 256) ≤ nent &&
  (esc.mapIdx fun j p => !entryZero (recEntry v j) && entryPos (recEntry v j) % 32 == p.2).all id

/-- The value of an element of a record (R94, R162). -/
def recValue (f : Fmt) (v : VReg) (b i : Nat) : XV :=
  let e := recScale v b
  let s := scaleValue (bit 8 e) (e % 256)
  match (recEscapes f v).idxOf? (b, i) with
  | some j => if s.isNaN then .nan else entryValue (recEntry v j)
  | none => blockDecode (blockElem f (recElem f v b i)) s

/-- VDQ (R162): the record is checked whole where any element is selected. -/
def execVdq (h : Hdr) (o : VRRRR) (s : State) : Res :=
  let t := if bit 0 o.sub.toNat then Fmt.f32 else Fmt.bf16
  let w := t.width
  clusterRun h s fun c s0 =>
    let g := s.arch.vguard c h
    let v := s.arch.vreg c o.x
    if selMask g w = 0 then s0
    else if !recordOk o.fmt v then s0.raise (clusterClass c) Cause.stippleMalformed 0 (some c)
    else s0.vmap h c 6 w o.d o.rnd true fun e u =>
      roundTo t (recValue o.fmt v (if bit 0 o.sub.toNat then o.y.toNat else e / 32) (e % 32)) o.rnd o.ovf o.ftz u

end Sys2Proof.Machine
end

