-- ==== Sys2Proof/Machine/Tiles.lean ====
section
/-!
DEFINITION. Array groups as tile instructions see them (08 R200–R208, R210, R219, R220): tiles, latches, annexes, ownership,
power, touches, select plates; and the exact dot product (04 R106–R108).
-/

namespace Sys2Proof

/-- The group that a tile slot commands. -/
def Hdr.tileGroup (h : Hdr) : Nat := h.cls.toNat - 2

end Sys2Proof

namespace Sys2Proof.Machine

/-! ### Places (R31, R200) -/

/-- The place of a tile word: array, tile, row, column. -/
def tileKey (a t r c : Nat) : Nat := ((a * 8 + t) * 64 + r) * 256 + c

/-- The place of a latch byte: array, latch, byte. -/
def latchKey (a w b : Nat) : Nat := (a * 4 + w) * 32768 + b

/-- The places of an annex's scale and list entries. -/
def scaleKey (a w i : Nat) : Nat := (a * 4 + w) * 2048 + i
def listKey (a w i : Nat) : Nat := (a * 4 + w) * 512 + i

/-- An array group of the executing die. -/
def State.group (s : State) (g : Nat) : TileGroup := tget s.myDie.groups g default

/-- The state bits of a tile. -/
def TileGroup.tileBits (x : TileGroup) (t : Nat) : TileBits := tget x.bits t default

/-- The annex of a latch. -/
def TileGroup.annexOf (x : TileGroup) (w : Nat) : Annex := tget x.annex w default

/-- The other member of a tile's pair. -/
def partner (t : Nat) : Nat := if t % 2 = 0 then t + 1 else t - 1

/-! ### Ownership, power, touches (R30, R40, R220, R298) -/

/-- The context owns a group (R30). -/
def State.owns (s : State) (g : Nat) : Bool := s.me.groups.getLsbD g

/-- The faults of a Tg or SC slot before its work: the group is not owned, or not yet powered. -/
def State.groupFaults (s : State) (g : Nat) : List (Nat × Nat) :=
  if !s.owns g then [(Cause.ownership, s.issue.die)]
  else if !(s.group g).powered then [(Cause.timing, 4 + 16 * g)] else []

/-- An operation of latency `lat` may be chained on what keeps a tile busy: an MMA or MMAZ of the same form that lands no
later (Table 8-6). -/
def TileBits.chains (b : TileBits) (pair : Bool) (lat : Nat) : Bool := b.mma && b.pair == pair && b.cnt ≤ lat

/-- One of the tiles is touched: busy, and not chained on. -/
def State.touched (s : State) (g : Nat) (ts : List Nat) (chain : Option (Bool × Nat)) : Bool :=
  ts.any fun t =>
    let b := (s.group g).tileBits t
    b.busy && match chain with
      | some c => !b.chains c.1 c.2
      | none => true

/-- A tile slot: in guarded mode a touch of a tile of an owned, powered group waits (R40); else the slot does its work with its own
checks, and a group that is not owned or not powered, or an exposed touch, adds its trap to what they raise (R46). -/
def tileRun (h : Hdr) (g : Nat) (ts : State → List Nat) (chain : Option (Bool × Nat)) (f : State → State) (s : State) : Res :=
  slotRun h s fun s =>
    let own := s.groupFaults g
    let touch := s.touched g (ts s) chain
    if own.isEmpty && touch && s.arch.guarded then s.waitTile
    else (f s).raiseAll h.cls.toNat (own ++ if touch then [(Cause.timing, 1)] else [])

/-! ### Latches and select plates (R200, R207, R208) -/

/-- Slots of a latch for each column (Table 8-1). -/
def latchSlots (f : Fmt) : Nat := if f.width = 64 then 16 else if f.width = 16 then 64 else 128

/-- Bytes of a latch image (R205). -/
def latchBytes (f : Fmt) : Nat := 256 * latchSlots f * f.width / 8

/-- The element of column n, slot j, from the bytes of a latch image. -/
def latchElem (f : Fmt) (bytes : Nat → Byte) (n j : Nat) : Nat :=
  let i := latchSlots f * n + j
  match f.width with
  | 4 => ((bytes (i / 2)).toNat >>> (4 * (i % 2))) % 16
  | 8 => (bytes i).toNat
  | w => natOfBytes ((List.range (w / 8)).map fun b => bytes (w / 8 * i + b))

/-- NK of a select plate. -/
def selectNK (p : Plate4) : Nat := plateByte1 p

/-- The positions that column n keeps, ascending (Table 8-4). -/
def keptPositions (p : Plate4) (n keff : Nat) : List Nat :=
  let pat := plateField p 16 4 n
  (List.range keff).filter fun k => plateField p (256 + 128 * pat) 1 k == 1

/-- Positions of an A row (R208). -/
def keffOf (fb : Fmt) (sel : Option Plate4) : Nat :=
  match sel with
  | some p => latchSlots fb * 64 / selectNK p
  | none => if fb = .f64 then 1 else latchSlots fb

/-- The kept positions of a column: with no select plate, the slots themselves. -/
def keptOf (fb : Fmt) (sel : Option Plate4) (keff n : Nat) : List Nat :=
  match sel with
  | some p => keptPositions p n keff
  | none => List.range (latchSlots fb)

/-- The select plate that a slot names. -/
def State.selectOf (s : State) (h : Hdr) (o : Tile) : Option Plate4 :=
  if o.sp then some ((s.me.plate? (o.selectPlate h)).getD 0) else none

/-! ### Operands of the dot product (R94, R95, R106, R216) -/

/-- An operand of a product: whether it is an escape, its element's own value, and its full value. -/
structure Opnd where
  esc : Bool
  raw : XV
  full : XV
  deriving Repr, Inhabited

/-- An element under its scale entry; an escape takes its list entry's value, or NaN under a NaN scale. -/
def mkOpnd (f : Fmt) (entry e : Nat) (value : Option Nat) : Opnd :=
  let s := scaleValue (bit 8 entry) (entry % 256)
  let v := blockElem f e
  match value with
  | some x => { esc := true, raw := v, full := if s.isNaN then .nan else entryValue x }
  | none => { esc := false, raw := v, full := blockDecode v s }

/-- NaN or an infinity among products, or none (R106). -/
def denseSpecial (ps : List XV) : Option XV :=
  if ps.any XV.isNaN then some .nan
  else
    let pos := ps.any fun p => p.isInf && !p.neg?
    let neg := ps.any fun p => p.isInf && p.neg?
    if pos && neg then some .nan else if pos then some (.inf false) else if neg then some (.inf true) else none

/-- The exact sum of finite values; an exact zero is +0. -/
def exactSum (ps : List XV) : XV :=
  let t := ps.foldl (fun a p => (a.add .ne p).val) (XV.fin false 0 1 0)
  if t.isZero then .fin false 0 1 0 else t

/-- round_acc (R108). -/
def roundAcc (f : Fmt) (x : XV) : XV := fpValue f (roundTo f x .ne .inf false 0).bits

/-- One block of R106: the dense sum with one rounding, then the sparse path. -/
def dotBlock (acc sa sb : XV) (ps : List (Opnd × Opnd)) : XV :=
  let dense := ps.filter fun p => !p.1.esc && !p.2.esc
  let c := match denseSpecial (dense.map fun p => (p.1.full.mul p.2.full).val) with
    | some v => v
    | none =>
      let t := exactSum (dense.map fun p => (p.1.raw.mul p.2.raw).val)
      if t.isZero then t else
        let x := (t.mul (sa.mul sb).val).val
        if x.isZero then .fin false 0 1 0 else x
  let acc := roundAcc .f32 (acc.add .ne c).val
  (ps.filter fun p => p.1.esc || p.2.esc).foldl
    (fun acc p => roundAcc .f32 (acc.add .ne (p.1.full.mul p.2.full).val).val) acc

/-- One group of 8 of R107: special values as in R106, else the exact sum with one rounding. -/
def dotGroup (acc : XV) (ps : List (XV × XV)) : XV :=
  let qs := ps.map fun p => (p.1.mul p.2).val
  roundAcc .f32 (acc.add .ne ((denseSpecial qs).getD (exactSum qs))).val

/-- The cell of a block pair: blocks in ascending order (R216). `row k` is A's operand, `col` the present B operands by k. -/
def dotBlocks (nb : Nat) (row : Nat → Opnd) (sa sb : Nat → XV) (col : List (Nat × Opnd)) (acc : XV) : XV :=
  (List.range nb).foldl (fun acc b =>
    dotBlock acc (sa b) (sb b) ((col.filter fun p => p.1 / 32 == b).map fun p => (row p.1, p.2))) acc

/-- The cell of a BF16 or FP16 pair: groups of 8 positions. -/
def dotGroups (keff : Nat) (row : Nat → XV) (col : List (Nat × XV)) (acc : XV) : XV :=
  (List.range (keff / 8)).foldl (fun acc g =>
    dotGroup acc ((col.filter fun p => p.1 / 8 == g).map fun p => (row p.1, p.2))) acc

/-- The list entry that each of a list of escape positions takes, in order (R96, R97). -/
def entryOf (positions entries : List Nat) (p : Nat) : Option Nat :=
  match positions.idxOf? p with
  | some i => some (entries.getD i 0)
  | none => none

/-- The list checks of R98: enough entries, each with ZERO = 0 and its escape's position. -/
def listOk (positions entries : List Nat) : Bool :=
  positions.length ≤ entries.length &&
  (positions.zip entries).all fun p => !entryZero p.2 && entryPos p.2 == p.1

end Sys2Proof.Machine
end

