-- ==== Sys2Proof/Machine/Matrix.lean ====
section
/-!
DEFINITION. Tile, scale and weight-buffer instructions as they issue (08 R203–R227): MWB, MLDW, MSEL, MSCLD, MMA, MMAZ, their
FP64 form, MST, MQST, MCLR, MCOPY, MFREE, MSTAT.
-/

namespace Sys2Proof.Machine

/-! ### MWB (R203, R204) -/

/-- MWB: a 4 KiB frame of the bank, through a plate, into the weight buffer after 12. -/
def execMwb (h : Hdr) (o : Net) (s : State) : Res :=
  slotRun h s fun s =>
    let w := (s.s o.d).toNat
    let r := s.route o.pl.toNat
    let base := s.netBase o.b (o.value h)
    let faults :=
      (if w % 4096 ≠ 0 ∨ 0x1000000 ≤ w then [(Cause.wbufBounds, w)] else []) ++
      (if s.owns (bits 23 22 w) then [] else [(Cause.ownership, s.issue.die)]) ++ s.netCheck r base
    s.checked h faults fun s =>
      s.afterRead.put h 12 (.wbuf ((s.netRead r base).map fun p => (w + p.1, p.2)))

/-! ### MLDW, MSEL, MSCLD (R205–R211) -/

/-- The faults of an MLDW's descriptor and select store (R206). -/
def State.mldwFaults (s : State) (g : Nat) (o : Tile) (sel : Option Nat) (wadr len tstr size : Nat) (top : Nat) :
    List (Nat × Nat) :=
  let isB := o.fb.inHB
  (if top ≠ 0 ∨ wadr % 64 ≠ 0 ∨ 512 < len ∨ (len ≠ 0 ∧ !isB) then [(Cause.tileDescriptor, g)] else []) ++
  (match sel with
   | some n => if !(s.group g).selv || (s.group g).selp.toNat != n then [(Cause.operandMismatch, o.tx.toNat)] else []
   | none => []) ++
  (if (List.range 8).any fun a =>
      let x := wadr + 64 * a * tstr
      x < g * 0x400000 || (g + 1) * 0x400000 < x + size
    then [(Cause.wbufBounds, o.tx.toNat)] else [])

/-- The block of a B slot and its index: kept position over 32. -/
def blockSlots (kept : List Nat) (blk : Nat) : List Nat :=
  ((kept.mapIdx fun j k => (j, k)).filter fun p => p.2 / 32 == blk).map (·.1)

/-- The escapes of a B image in ascending position, and whether every block header is well formed (R92, R216). -/
def bScan (fb : Fmt) (nb : Nat) (kept : Nat → List Nat) (elem : Nat → Nat → Nat) (scale : Nat → Nat) : Bool × List Nat :=
  let cols := (List.range 256).map fun n =>
    let ks := kept n
    let blocks := (List.range nb).map fun b =>
      let js := blockSlots ks b
      let hd := scale (n * nb + b) / 256
      (headerOk fb hd (js.map (elem n)), (js.filter fun j => isEscape fb hd (elem n j)).map fun j => 128 * n + j)
    (blocks.all (·.1), blocks.flatMap (·.2))
  (cols.all (·.1), cols.flatMap (·.2))

/-- MLDW (R205, R206): the images are read, and their headers and lists checked, at issue; the latches land after 32. -/
def execMldw (h : Hdr) (o : Tile) (s : State) : Res :=
  let g := h.tileGroup
  tileRun h g (fun _ => []) none (fun s =>
    let desc := (s.s o.b).toNat
    let wadr := bits 23 0 desc
    let len := bits 33 24 desc
    let tstr := bits 49 34 desc
    let plate := s.selectOf h o
    let isB := o.fb.inHB
    let nb := if o.sp then 8 else 4
    let eb := latchBytes o.fb
    let size := eb + (if isB then 512 * nb else 0) + 4 * len
    let faults := s.mldwFaults g o (if o.sp then some (o.selectPlate h) else none) wadr len tstr size (bits 63 50 desc)
    if !faults.isEmpty then s.raiseAll h.cls.toNat faults
    else
      let images := (List.range 8).map fun a => Mem.bytes s.myDie.wbuf (wadr + 64 * a * tstr) size
      let scales := fun (img : List Byte) => if isB then (List.range (256 * nb)).map fun i => natAt2 img (eb + 2 * i) else []
      let lists := fun (img : List Byte) => (List.range len).map fun i => natOfBytes ((img.drop (eb + 512 * nb + 4 * i)).take 4)
      let keff := keffOf o.fb plate
      let bad := isB && images.any fun img =>
        let bytes := img.toArray
        let sc := (scales img).toArray
        let b := bScan o.fb nb (keptOf o.fb plate keff) (latchElem o.fb fun i => bytes.getD i 0) fun i => sc.getD i 0
        !b.1 || !listOk b.2 (lists img)
      if bad then s.raise h.cls.toNat Cause.stippleMalformed 0
      else s.put h 32 (.latch g o.tx.toNat o.fb o.sp (if o.sp then o.selectPlate h else 0) len
        (images.map fun img => placeBytes 0 (img.take eb))
        (images.map fun img => (scales img).map (BitVec.ofNat 16)) (images.map fun img => (lists img).map (BitVec.ofNat 32)))) s
where
  /-- A 16-bit field of bytes. -/
  natAt2 (img : List Byte) (i : Nat) : Nat := natOfBytes ((img.drop i).take 2)

/-- MSEL (R209): the select store takes the plate after 8. -/
def execMsel (h : Hdr) (o : Tile) (s : State) : Res :=
  tileRun h h.tileGroup (fun _ => []) none (fun s => s.put h 8 (.select h.tileGroup (o.selectPlate h))) s

/-- MSCLD (R211): entries read in the linear view at issue, landed after 6. -/
def execMscld (h : Hdr) (o : Scale) (s : State) : Res :=
  slotRun h s fun s =>
    let g := o.tg.toNat
    let n := o.n.toNat + 1
    let a := (s.s o.b + wordOfInt (o.value h)).toNat
    let faults := s.groupFaults g ++
      (if a % 2 ≠ 0 then [(Cause.misaligned, a)] else if s.arch.inWindow a (2 * n) then [] else [(Cause.bankBounds, a)])
    if !faults.isEmpty then s.raiseAll h.cls.toNat faults
    else
      let bytes := s.readBank false a (2 * n)
      s.afterRead.put h 6 (.scale g o.kj o.kn.toNat ((List.range n).map fun i =>
        BitVec.ofNat 16 (natOfBytes ((bytes.drop (2 * i)).take 2))))

/-! ### MMA and MMAZ (R212–R218) -/

/-- Fields of an A-stream descriptor (Table 8-5). -/
structure AStream where
  pl : Nat
  row : Nat
  rstep : Nat
  ladr : Nat
  top : Nat

/-- The descriptor of a word. -/
def aStream (n : Nat) : AStream :=
  { pl := bits 10 0 n, row := bits 24 11 n, rstep := bits 38 25 n, ladr := bits 58 39 n, top := bits 63 59 n }

/-- A plate of the image that is a network plate whose QMASK includes a group (R215). -/
def State.networkPlate (s : State) (n : Nat) : Option Route :=
  match s.me.plate? n with
  | some p => if plateType p = 2 then some (plateRoute .m p) else none
  | none => none

/-- Faults of a plate that a tile instruction reads or writes through: its QMASK not owned, or without the group. -/
def State.tilePlateFaults (s : State) (g : Nat) (r : Option Route) : List (Nat × Nat) :=
  match r with
  | none => [(Cause.tileDescriptor, g)]
  | some r =>
    s.plateOwned r ++
    (if bit g r.qmask then [] else [(Cause.tileDescriptor, g)])

/-- The first enabled column of any step that breaks R183, as its linear address. -/
def State.stepsFault (s : State) (r : Route) (base : Int) (rstep n : Nat) : List (Nat × Nat) :=
  match (List.range n).findSome? fun i =>
    let b := base + (i * rstep : Nat)
    (r.badColumn s.arch b).map fun c => (wordOfInt (4 * (r.rowOf b c * r.ncol + c))).toNat with
  | some a => [(Cause.bankBounds, a)]
  | none => []

/-- The bytes of one stream step: the words of the ports of quarter g, an absent port zero (R213). -/
def State.streamBytes (s : State) (g : Nat) (r : Route) (base : Int) : List Byte :=
  (List.range 256).flatMap fun p => bytesOfNat 4 ((s.netPort r base (256 * g + p)).getD 0).toNat

/-- What the checks and the arithmetic of an MMA need beside the state. -/
structure MmaArgs where
  g : Nat
  o : Tile
  zero : Bool
  f64 : Bool
  rows : Nat
  keff : Nat
  dual : Bool
  steps : Nat
  lat : Nat

/-- The arguments of an MMA or MMAZ under a select plate. -/
def mmaArgs (h : Hdr) (o : Tile) (zero f64 : Bool) (sel : Option Plate4) : MmaArgs :=
  let n := o.n.toNat + 1
  let dual := o.fa.width == 4 && o.fb.width == 4
  { g := h.tileGroup, o := o, zero := zero, f64 := f64, rows := n, keff := keffOf o.fb sel, dual := dual,
    steps := if dual then ceilDiv n 2 else n, lat := 20 + n + o.cap.toNat }

/-- The tiles that it writes. -/
def MmaArgs.tiles (m : MmaArgs) : List Nat := if m.f64 then [m.o.td.toNat, m.o.td.toNat + 1] else [m.o.td.toNat]

/-- The faults of checks 1 to 4 of R215; ownership of the group and its power are tested before. -/
def State.mmaFaults (s : State) (h : Hdr) (m : MmaArgs) (d : AStream) (base : Int) : List (Nat × Nat) :=
  let g := m.g
  let r := s.networkPlate d.pl
  let x := (s.group g).annexOf m.o.tx.toNat
  let n := if m.o.sp then m.o.selectPlate h else 0
  (if d.top ≠ 0 then [(Cause.tileDescriptor, g)] else []) ++ s.tilePlateFaults g r ++
  (match r with | some r => s.stepsFault r base d.rstep m.steps | none => []) ++
  (if m.o.cap.toNat ≠ 0 ∧ !s.arch.inWindow (64 * d.ladr) (4 * m.o.cap.toNat) then [(Cause.bankBounds, 64 * d.ladr)] else []) ++
  (if !x.lvalid || x.fmtl != m.o.fb.code || x.lsp != m.o.sp || x.lplate.toNat != n ||
      (m.o.sp && (!(s.group g).selv || (s.group g).selp.toNat != n))
   then [(Cause.operandMismatch, m.o.tx.toNat)] else [])

/-- The A rows as element patterns: each row's bytes are the next of its stream step (R213). -/
def State.aRows (s : State) (m : MmaArgs) (r : Route) (base : Int) (rstep : Nat) : List (List Nat) :=
  let w := m.o.fa.width
  let rb := if m.f64 then 8 else m.keff * w / 8
  let steps := (List.range m.steps).map fun i => s.streamBytes m.g r (base + (i * rstep : Nat))
  (List.range m.rows).map fun i =>
    let bytes := if m.dual then ((steps.getD (i / 2) []).drop (i % 2 * rb)).take rb else (steps.getD i []).take rb
    let v := natOfBytes bytes
    (List.range m.keff).map fun k => v / 2 ^ (w * k) % 2 ^ w

/-- The k-register entry of A block (row, blk) (R210). -/
def State.aScale (s : State) (m : MmaArgs) (row blk : Nat) : Nat :=
  let i := row * (m.keff / 32) + blk
  (tget (tget (tget s.arch.kreg m.g default) (m.o.ks.toNat + i / 64) default) (i % 64) 0).toNat

/-- The escapes of the A rows in ascending position, and whether every header is well formed (R215). -/
def State.aScan (s : State) (m : MmaArgs) (rows : List (List Nat)) : Bool × List Nat :=
  let cells := (rows.mapIdx fun r es => (r, es)).flatMap fun p =>
    (List.range (m.keff / 32)).map fun b =>
      let es := (p.2.drop (32 * b)).take 32
      let hd := s.aScale m p.1 b / 256
      (headerOk m.o.fa hd es, ((es.mapIdx fun i e => (i, e)).filter fun q => isEscape m.o.fa hd q.2).map fun q =>
        p.1 * m.keff + 32 * b + q.1)
  (cells.all (·.1), cells.flatMap (·.2))

/-- The value that a tile word holds once every operation in flight on its tile has landed (R214, R220). -/
def State.cellLater (s : State) (g a t r c : Nat) : BitVec 32 :=
  let key := tileKey a t r c
  s.arch.landing.foldl (fun v l => match l.act with
    | .tile g' t' cells => if g' = g ∧ t' = t then match cells.find? fun p => p.1 == key with | some p => p.2 | none => v else v
    | _ => v) (SMap.get (s.group g).tiles key)

/-- The accumulator's value before an MMA. -/
def State.accValue (s : State) (m : MmaArgs) (a r c : Nat) : XV :=
  if m.zero then .fin false 0 1 0
  else
    let t := m.o.td.toNat
    if m.f64 then
      fpValue .f64 ((s.cellLater m.g a t r c).toNat + (s.cellLater m.g a (t + 1) r c).toNat * 2 ^ 32)
    else fpValue .f32 (s.cellLater m.g a t r c).toNat

/-- The words of a cell of a tile or of a pair. -/
def MmaArgs.words (m : MmaArgs) (a r c : Nat) (v : XV) : List (Nat × Nat × BitVec 32) :=
  let t := m.o.td.toNat
  if m.f64 then
    let n := (roundTo .f64 v .ne .inf false 0).bits
    [(t, tileKey a t r c, BitVec.ofNat 32 n), (t + 1, tileKey a (t + 1) r c, BitVec.ofNat 32 (n / 2 ^ 32))]
  else [(t, tileKey a t r c, BitVec.ofNat 32 (roundTo .f32 v .ne .inf false 0).bits)]

/-- The B operands of column c of array a: kept position and its slot (R208, R216). -/
def State.bColumn (s : State) (m : MmaArgs) (sel : Option Plate4) (a c : Nat) : List (Nat × Nat × Nat) :=
  let x := s.group m.g
  let w := m.o.tx.toNat
  (keptOf m.o.fb sel m.keff c).mapIdx fun j k => (k, j, latchElem m.o.fb (fun b => SMap.get x.latches (latchKey a w b)) c j)

/-- The annex scale entry of B block (c, b) of an array (R216). -/
def State.bScale (s : State) (m : MmaArgs) (a c b : Nat) : Nat :=
  (SMap.get (s.group m.g).scales (scaleKey a m.o.tx.toNat (c * (if m.o.sp then 8 else 4) + b))).toNat

/-- The list entries of a latch's annex (R206). -/
def State.bEntries (s : State) (m : MmaArgs) (a : Nat) : List Nat :=
  (List.range ((s.group m.g).annexOf m.o.tx.toNat).llen.toNat).map fun i =>
    (SMap.get (s.group m.g).lists (listKey a m.o.tx.toNat i)).toNat

/-- The escapes of an array's B operands in ascending position (R216). -/
def State.bEscapes (s : State) (m : MmaArgs) (sel : Option Plate4) (a : Nat) : List Nat :=
  if m.o.fb.inHB then
    (List.range 256).flatMap fun c => (s.bColumn m sel a c).filterMap fun p =>
      if isEscape m.o.fb (s.bScale m a c (p.1 / 32) / 256) p.2.2 then some (128 * c + p.2.1) else none
  else []

/-- The words that an MMA lands, for one array. -/
def State.mmaArray (s : State) (m : MmaArgs) (sel : Option Plate4) (rows : List (List Nat)) (aEsc aList : List Nat)
    (a : Nat) : List (Nat × Nat × BitVec 32) :=
  let o := m.o
  let nb := m.keff / 32
  let bList := s.bEntries m a
  let bEsc := s.bEscapes m sel a
  (List.range 256).flatMap fun c =>
    let col := s.bColumn m sel a c
    (rows.mapIdx fun r es => (r, es)).flatMap fun p =>
      let r := p.1
      let acc := s.accValue m a r c
      let v :=
        if m.f64 then
          let k := o.ks.toNat % 2 * 8 + o.js.toNat
          let b := ((col.find? fun q => q.2.1 == k).map (·.2.2)).getD 0
          roundAcc .f64 (acc.add .ne ((fpValue .f64 (p.2.headD 0)).mul (fpValue .f64 b)).val).val
        else if o.fa.inHB then
          let row := p.2.toArray
          let opA := fun k => mkOpnd o.fa (s.aScale m r (k / 32)) (row.getD k 0) (entryOf aEsc aList (r * m.keff + k))
          let opsB := col.map fun q => (q.1, mkOpnd o.fb (s.bScale m a c (q.1 / 32)) q.2.2 (entryOf bEsc bList (128 * c + q.2.1)))
          let sc := fun e => scaleValue (bit 8 e) (e % 256)
          dotBlocks nb opA (fun b => sc (s.aScale m r b)) (fun b => sc (s.bScale m a c b)) opsB acc
        else
          let row := p.2.toArray
          dotGroups m.keff (fun k => fpValue o.fa (row.getD k 0)) (col.map fun q => (q.1, fpValue o.fb q.2.2)) acc
      m.words a r c v

/-- MMA and MMAZ (R214). -/
def mmaWork (h : Hdr) (o : Tile) (zero f64 : Bool) (s : State) : State :=
  let sel := s.selectOf h o
  let m := mmaArgs h o zero f64 sel
  let d := aStream (s.s o.b).toNat
  let base : Int := d.row + (if o.sp then 0 else h.wide)
  let faults := s.mmaFaults h m d base
  if !faults.isEmpty then s.raiseAll h.cls.toNat faults
  else
    let r := (s.networkPlate d.pl).getD (plateRoute .m 0)
    let rows := s.aRows m r base d.rstep
    let bytes := s.readBank false (64 * d.ladr) (4 * o.cap.toNat)
    let aList := (List.range o.cap.toNat).map fun i => natOfBytes ((bytes.drop (4 * i)).take 4)
    let scan := if o.fa.inHB then s.aScan m rows else (true, [])
    if !scan.1 || !listOk scan.2 aList then s.raise h.cls.toNat Cause.stippleMalformed 0
    else
      let words := (List.range 8).flatMap fun a => s.mmaArray m sel rows scan.2 aList a
      m.tiles.foldl (fun s t =>
        (s.put h 0 (.busy m.g t m.lat f64 true (some f64))).put h m.lat
          (.tile m.g t ((words.filter fun x => x.1 == t).map (·.2)))) s.afterRead

/-- A tile slot that streams: the touch rule allows chaining (R220). -/
def mmaRun (h : Hdr) (o : Tile) (zero f64 : Bool) (s : State) : Res :=
  let t := o.td.toNat
  tileRun h h.tileGroup (fun _ => if f64 then [t, t + 1] else [t]) (some (f64, 21 + o.n.toNat + o.cap.toNat))
    (mmaWork h o zero f64) s

/-- MMA. -/
def execMma (h : Hdr) (o : Tile) (s : State) : Res := mmaRun h o false false s

/-- MMAZ; FA = f64 selects its FP64 form. -/
def execMmaz (h : Hdr) (o : Tile) (s : State) : Res := mmaRun h o true (o.fa == .f64) s

/-- MMA in FP64 form (R218). -/
def execMmaF64 (h : Hdr) (o : Tile) (s : State) : Res := mmaRun h o false true s

/-! ### MST and MQST (R222–R224) -/

/-- The NWR companion of the group in progress: its plate, its base register and its row offset (R222). -/
def State.companion (s : State) : Option (Nat × Int) :=
  match decodeGroup ((s.code s.issue.die s.issue.ctx).drop (s.issue.pc.toNat / 8)) with
  | none => none
  | some g => g.slots.findSome? fun w =>
    if w.cls.toNat = 14 then
      match decodeSlot .m (s.issue.ctx == 2) w.cls w.word w.ext with
      | .ok (.nwrTile h o) => some (o.pl.toNat, s.netBase o.b (o.value h))
      | _ => none
    else none

/-- Fields of a store descriptor (Table 8-7). -/
structure StoreDesc where
  cs : Nat
  rstep : Nat
  sadr : Nat
  ladr : Nat
  lcap : Nat
  kind : Bool
  cp : Bool
  top : Nat

/-- The descriptor of a word. -/
def storeDesc (n : Nat) : StoreDesc :=
  { cs := bits 2 0 n, rstep := bits 16 3 n, sadr := bits 32 17 n, ladr := bits 48 33 n, lcap := bits 55 49 n,
    kind := bit 56 n, cp := bit 57 n, top := bits 63 58 n }

/-- A cell of a tile as it stands, in the form that FORM gives: its pattern and its format. -/
def State.tileCell (s : State) (g t a r c : Nat) : Nat × Fmt :=
  let x := s.group g
  let w := fun t => (SMap.get x.tiles (tileKey a t r c)).toNat
  if (x.tileBits t).form then (w t + w (t + 1) * 2 ^ 32, .f64) else (w t, .f32)

/-- Columns that each array writes at a width (R222). -/
def storeColumns (w : Nat) : Nat := Nat.min 256 (2048 / w)

/-- The rows of row-groups RG to RG + NRG. -/
def storeRows (o : TileSt) : List Nat := (List.range (8 * (o.nrg.toNat + 1))).map (8 * o.rg.toNat + ·)

/-- The image element codes of a row-group m, from the code of each cell (array, row, column offset) (R222). -/
def rowGroupImage (c : Nat) (code : Nat → Nat → Nat → Nat) (m : Nat) : List Nat :=
  (List.range (64 * c)).map fun i => code (i / c / 8) (8 * m + i / c % 8) (i % c)

/-- The bank bytes of the write steps of a store through its companion (R222). All of them land together; of two steps that name
one byte (as RSTEP = 0 makes them) the later one prevails, a choice: no rule names a winner within one instruction (log 75). -/
def storeBytes (g w : Nat) (r : Route) (base : Int) (rstep : Nat) (images : List (List Nat)) : List (Nat × Byte) :=
  let bs := if w = 4 then 512 else 1024
  (images.mapIdx fun i img => (i, (bytesOfNat (16 * bs) (packElems w img)).toArray)).flatMap fun p =>
    (List.range 16).flatMap fun st =>
      netWrite r (base + ((16 * p.1 + st) * rstep : Nat)) fun q j =>
        if 256 * g ≤ q && q < 256 * g + bs / 4 then some (p.2.getD (bs * st + 4 * (q - 256 * g) + j) 0) else none

/-- The faults that MST and MQST share: forms, descriptor, companion's plate, rows (R222). -/
def State.storeFaults (s : State) (g : Nat) (o : TileSt) (q : Bool) (d : StoreDesc) (comp : Option (Nat × Int)) :
    List (Nat × Nat) :=
  let form := ((s.group g).tileBits o.td.toNat).form
  let el := o.el != 0
  let r := comp.bind fun c => s.networkPlate c.1
  (if form && (3 < o.rg.toNat + o.nrg.toNat || o.td.toNat % 2 == 1 || (q && el))
   then [(Cause.operandMismatch, g)] else []) ++
  (if d.top ≠ 0 ∨ 256 / storeColumns o.fd.width ≤ d.cs ∨ 64 < d.lcap ∨
      (!q ∧ (d.sadr ≠ 0 ∨ d.ladr ≠ 0 ∨ d.lcap ≠ 0 ∨ d.kind ∨ d.cp)) ∨ (q ∧ !el ∧ (d.ladr ≠ 0 ∨ d.lcap ≠ 0))
   then [(Cause.tileDescriptor, g)] else []) ++
  s.tilePlateFaults g r ++
  (match r, comp with
   | some r, some c => s.stepsFault r c.2 d.rstep (16 * (o.nrg.toNat + 1))
   | _, _ => [])

/-- The tiles that a store reads. -/
def storeTiles (g : Nat) (o : TileSt) (s : State) : List Nat :=
  if ((s.group g).tileBits o.td.toNat).form then [o.td.toNat, partner o.td.toNat] else [o.td.toNat]

/-- MST (R223): conversions by row, then array, then column; the writes land after 8 + 16(NRG + 1). -/
def execMst (h : Hdr) (o : TileSt) (s : State) : Res :=
  let g := h.tileGroup
  tileRun h g (storeTiles g o) none (fun s =>
    let d := storeDesc (s.s o.b).toNat
    let comp := s.companion
    let faults := s.storeFaults g o false d comp
    if !faults.isEmpty then s.raiseAll h.cls.toNat faults
    else
      let w := o.fd.width
      let c := storeColumns w
      let rows := storeRows o
      let lat := 8 + 16 * (o.nrg.toNat + 1)
      let cells := rows.flatMap fun r => (List.range 8).flatMap fun a => (List.range c).map fun i => (r, a, i)
      let arr := cells.toArray
      let out := mapElems o.rnd true (fun _ => true) (fun e u =>
        let p := arr.getD e (0, 0, 0)
        let v := s.tileCell g o.td.toNat p.2.1 p.1 (d.cs * c + p.2.2)
        roundElem o.fd (fpSource v.2 o.ftz v.1) o.rnd o.ovf o.ftz u) s (List.range cells.length)
      match out.trap with
      | some e => out.st.raise h.cls.toNat Cause.overflow e
      | none =>
        let codes := out.out.toArray
        let code := fun a r i => codes.getD (((r - 8 * o.rg.toNat) * 8 + a) * c + i) 0
        let images := (List.range (o.nrg.toNat + 1)).map fun k => rowGroupImage c code (o.rg.toNat + k)
        let x := comp.getD (0, 0)
        let r := (s.networkPlate x.1).getD (plateRoute .m 0)
        (out.st.put h lat (.bank true (storeBytes g w r x.2 d.rstep images))).putFlags h.cls.toNat lat out.flags) s

/-- What an MQST has produced so far: the generator, the entries of each sub-list, the scale entries by address offset, the
element codes, flags, and the traps of its blocks. -/
structure QStore where
  seed : Word
  lists : List (Nat × Nat)
  scales : List (Nat × Nat)
  codes : List ((Nat × Nat × Nat) × List Nat)
  flags : Flags
  traps : List (Nat × Nat)

/-- One block of an MQST: array, half, block of a row (R224). -/
def State.qstoreBlock (s : State) (g : Nat) (o : TileSt) (d : StoreDesc) (q : QParams) (x : QStore)
    (p : Nat × Nat × Nat × Nat) : QStore :=
  let r := p.1
  let a := p.2.1
  let hb := p.2.2.1
  let blk := p.2.2.2
  let u := 2 * a + hb
  let col := 128 * hb + 32 * blk
  let cell := fun i => s.tileCell g o.td.toNat a r (col + i)
  let vals := (List.range 32).map fun i => fpValue (cell i).2 (cell i).1
  let neg := fun i => bit ((cell i).2.width - 1) (cell i).1
  let b := quantiseBlock q vals x.seed
  let used := (x.lists.filter fun l => l.1 == u).length
  let app := appended (d.lcap - used) b.2.outliers
  let excess := app.length < b.2.outliers.length
  { seed := b.1,
    lists := x.lists ++ app.map fun i => (u, (128 * r + 32 * blk + i) * 2 ^ 16 + outlierBits (vals.getD i .nan)),
    scales := x.scales ++ [(512 * u + 2 * (4 * r + blk), scaleEntry q.fs8 q.e app.length b.2.code)],
    codes := x.codes ++ [((a, r, col), putOutliers q.fmt neg app b.2.outliers b.2.elems)],
    flags := x.flags ||| b.2.flags ||| flagIf (excess && !d.cp) flagSCLIP,
    traps := x.traps ++ (if excess && d.cp then [(Cause.stippleOverflow, d.lcap)] else []) ++
      (b.2.trap.map fun i => (Cause.overflow, ((r - 8 * o.rg.toNat) * 8 + a) * 256 + col + i)).toList }

/-- The bytes that an MQST writes in the linear view: scale entries, and the entries of each sub-list (R224). -/
def qstoreLinear (d : StoreDesc) (x : QStore) : List (Nat × Byte) :=
  (x.scales.flatMap fun p => placeBytes (1024 * d.sadr + p.1) (bytesOfNat 2 p.2)) ++
  (List.range 16).flatMap fun u =>
    ((x.lists.filter fun l => l.1 == u).mapIdx fun j l => (j, l.2)).flatMap fun p =>
      placeBytes (1024 * d.ladr + 4 * d.lcap * u + 4 * p.1) (bytesOfNat 4 p.2)

/-- MQST (R224). A byte that the row-groups' writes and the linear writes of scales or lists both name takes the linear write, and
of scales and lists the list, a choice: the rule gives them no order (log 75). -/
def execMqst (h : Hdr) (o : TileSt) (s : State) : Res :=
  let g := h.tileGroup
  tileRun h g (storeTiles g o) none (fun s =>
    let d := storeDesc (s.s o.b).toNat
    let comp := s.companion
    let q : QParams := { fmt := o.fd, fs8 := d.kind, e := outlierCount o.el.toNat, delta := o.dl.toNat, rnd := o.rnd,
                         ovf := o.ovf, ftz := false }
    let rows := storeRows o
    let blocks := rows.flatMap fun r => (List.range 8).flatMap fun a => (List.range 2).flatMap fun hb =>
      (List.range 4).map fun blk => (r, a, hb, blk)
    let x := blocks.foldl (s.qstoreBlock g o d q)
      { seed := s.issue.seed, lists := [], scales := [], codes := [], flags := 0, traps := [] }
    let lin := qstoreLinear d x
    let faults := s.storeFaults g o true d comp ++
      (match lin.find? fun p => !s.arch.inWindow p.1 1 with | some p => [(Cause.bankBounds, p.1)] | none => []) ++ x.traps
    if !faults.isEmpty then s.raiseAll h.cls.toNat faults
    else
      let lat := 10 + 16 * (o.nrg.toNat + 1)
      let codes := (x.codes.flatMap (·.2)).toArray
      -- blocks stand in the order row, array, half, block: 32 codes each
      let code := fun a r i => codes.getD (((r - 8 * o.rg.toNat) * 8 + a) * 256 + i) 0
      let images := (List.range (o.nrg.toNat + 1)).map fun k => rowGroupImage 256 code (o.rg.toNat + k)
      let c := comp.getD (0, 0)
      let r := (s.networkPlate c.1).getD (plateRoute .m 0)
      let s := { s with issue := { s.issue with seed := x.seed } }
      ((s.put h lat (.bank true (storeBytes g o.fd.width r c.2 d.rstep images))).put h lat (.bank false lin)).putFlags
        h.cls.toNat lat x.flags) s

/-! ### MCLR, MCOPY, MFREE, MSTAT (R225, R226) -/

/-- MCLR: +0 in every cell after 4. -/
def execMclr (h : Hdr) (o : Tile) (s : State) : Res :=
  let g := h.tileGroup
  let t := o.td.toNat
  tileRun h g (fun _ => [t]) none (fun s =>
    (s.put h 0 (.busy g t 4 false false none)).put h 4 (.tileSet g t [])) s

/-- The words of a tile that are not zero, at the places of another tile. -/
def copyCells (x : TileGroup) (t d : Nat) : List (Nat × BitVec 32) :=
  (x.tiles.filter fun p => p.1 / 16384 % 8 == t).map fun p => (p.1 - t * 16384 + d * 16384, p.2)

/-- MCOPY: TX as it stands at issue, after 16. -/
def execMcopy (h : Hdr) (o : Tile) (s : State) : Res :=
  let g := h.tileGroup
  let t := o.td.toNat
  tileRun h g (fun _ => [t, o.tx.toNat]) none (fun s =>
    if ((s.group g).tileBits o.tx.toNat).form then s.raise h.cls.toNat Cause.operandMismatch g
    else (s.put h 0 (.busy g t 16 false false none)).put h 16 (.tileSet g t (copyCells (s.group g) o.tx.toNat t))) s

/-- MFREE of a tile, and of its partner where they hold a pair. -/
def execMfree (h : Hdr) (o : Tile) (s : State) : Res :=
  let g := h.tileGroup
  let t := o.td.toNat
  let ts := fun (s : State) => if ((s.group g).tileBits t).form then [t, partner t] else [t]
  tileRun h g ts none (fun s =>
    (ts s).foldl (fun s t => (s.put h 0 (.busy g t 1 false false none)).put h 1 (.tileFree g t)) s) s

/-- MFREE of a latch. -/
def execMfreeLatch (h : Hdr) (o : Tile) (s : State) : Res :=
  tileRun h h.tileGroup (fun _ => []) none (fun s => s.put h 1 (.latchFree h.tileGroup o.tx.toNat)) s

/-- A set of bits. -/
def bitSet (n : Nat) (f : Nat → Bool) : Nat := (List.range n).foldl (fun x i => x + b2n (f i) * 2 ^ i) 0

/-- The status word of a tile and a latch, or of the group (Table 8-9). -/
def mstatWord (x : TileGroup) (t w : Nat) (grp : Bool) : Nat :=
  if grp then
    bitSet 8 (fun i => (x.tileBits i).busy) + bitSet 8 (fun i => (x.tileBits i).inuse) * 2 ^ 8 +
    bitSet 4 (fun i => (x.annexOf i).linuse) * 2 ^ 16 + b2n x.selv * 2 ^ 20 + x.selp.toNat * 2 ^ 32
  else
    let b := x.tileBits t
    let a := x.annexOf w
    b.cnt % 2 ^ 15 + b2n b.pair * 2 ^ 15 + b2n b.busy * 2 ^ 16 + b2n b.form * 2 ^ 17 + b2n b.inuse * 2 ^ 18 +
    a.fmtl.toNat * 2 ^ 24 + b2n a.lvalid * 2 ^ 29 + b2n a.lsp * 2 ^ 30 + b2n a.linuse * 2 ^ 31 +
    a.lplate.toNat * 2 ^ 32 + a.llen.toNat * 2 ^ 43

/-- MSTAT: never a touch; an unpowered group reads as zero. -/
def execMstat (h : Hdr) (o : Tile) (s : State) : Res :=
  slotRun h s fun s =>
    let g := h.tileGroup
    if !s.owns g then s.raise h.cls.toNat Cause.ownership s.issue.die
    else
      let w := if (s.group g).powered then mstatWord (s.group g) o.td.toNat o.tx.toNat (bit 0 o.n.toNat) else 0
      s.put h 1 (.s o.b.toNat (BitVec.ofNat 64 w))

end Sys2Proof.Machine
end

