-- ==== Sys2Proof/Machine/Indexed.lean ====
section
/-!
DEFINITION. Indexed access, the tag table and scatter-accumulate as they issue (07 R189–R199). What AQ, DQ and the scatter
engine do afterwards is in Elements.lean and Scatter.lean.
-/

namespace Sys2Proof.Machine

/-! ### AQ and DQ (R26, R27, R189–R193) -/

/-- The set of a key in a context's tag window (R194). -/
def tagSet (tbase tlog : Nat) (k : Word) : Nat :=
  let n := k.toNat
  let x := Nat.xor (bits 9 0 n) (Nat.xor (bits 19 10 n) (Nat.xor (bits 29 20 n) (Nat.xor (bits 39 30 n)
    (Nat.xor (bits 49 40 n) (Nat.xor (bits 59 50 n) (bits 63 60 n))))))
  tbase + x % 2 ^ tlog

/-- Fields of a tag-table entry (Table 7-10). -/
def tagKey (e : BitVec 128) : Word := e.extractLsb' 0 64
def tagAddr (e : BitVec 128) : Nat := (e.extractLsb' 64 28).toNat
def tagValid (e : BitVec 128) : Bool := e.getLsbD 95

/-- The slot that a key hits: the lowest matching way of its set (R194). -/
def State.tagHit (s : State) (k : Word) : Option Nat :=
  let st := tagSet s.me.tbase s.me.tlog k
  ((List.range 4).map fun w => 4 * st + w).find? fun n =>
    let e := SMap.get s.myDie.tags n
    tagValid e && tagKey e == k

/-- A slot lies in the context's tag window (R194). -/
def State.tagSlotOk (s : State) (slot : Nat) : Bool :=
  s.me.tbase ≤ slot / 4 && slot / 4 < s.me.tbase + 2 ^ s.me.tlog

/-- The index of element g of a push: signed or unsigned as its format says; `none` where it is not valid (R189). -/
def State.pushIndex (s : State) (o : Idx) (g : Nat) : Option Int :=
  let w := o.fmt.width
  let i := (if bit 2 o.sub.toNat then 128 else 0) + g
  if s.arch.fullSel o.d.toNat w i then some (intValue o.fmt (s.arch.fullElem o.x w i)) else none

/-- IXPUSH (R189): the DQ entry is reserved at the end of the issue step, the entry enters AQ one step later; indices,
predicate, base and tag table are read at the issue step. -/
def execIxpush (h : Hdr) (o : Idx) (s : State) : Res :=
  slotRun h s fun s =>
    let a := s.arch
    let tk := o.tk.toNat
    if tk = 2 ∧ !s.me.ten then s.raise h.cls.toNat Cause.ownership s.issue.die
    else if 32 ≤ a.aqOccupancy then s.holdOrTrap h.cls.toNat Cause.queueOverflow 0
    else if 32 ≤ a.dq.length then s.holdOrTrap h.cls.toNat Cause.queueOverflow 1
    else
      let size := 2 ^ (o.sub.toNat % 4)
      let idx := (List.range 128).map (s.pushIndex o)
      let hits := idx.map fun i => match tk, i with
        | 2, some v => (s.tagHit (wordOfInt v)).map fun n => tagAddr (SMap.get s.myDie.tags n)
        | _, _ => none
      let ids := s.fresh
      let q : AqEntry := { id := ids.1, tk := tk, size := size, base := (s.s o.y).toNat, stride := o.value h, idx := idx,
                           hits := hits }
      let waiting := (List.range 128).filter fun g => (idx.getD g none).isSome
      let e : DqEntry := { (default : DqEntry) with
        id := ids.1, status := .wait, size := size, waiting := waiting,
        hits := BitVec.ofNat 128 ((List.range 128).foldl
          (fun n g => if (hits.getD g none).isSome then n + 2 ^ g else n) 0), tk := tk, src := q }
      (ids.2.put h 0 (.dqPush e q)).put h 1 (.aqPush q)

/-- Element g of a DQ entry as a vector element of a format: sign-extended, zero-extended or truncated (R192). -/
def dqElem (e : DqEntry) (f : Fmt) (g : Nat) : Nat :=
  let v := (e.data.toNat >>> (8 * e.size * g)) % 2 ^ (8 * e.size)
  if f.isSigned then wrapTo f.width (sval (8 * e.size) v) else v % 2 ^ f.width

/-- The part of a popped entry that a cluster receives: its elements of the full vector, zero beyond the 128 (R192). -/
def dqPart (e : DqEntry) (f : Fmt) (c : Nat) : VReg :=
  let n := elemCount f.width
  vregOf f.width ((List.range n).map fun k => if c * n + k < 128 then dqElem e f (c * n + k) else 0)

/-- TRAPINFO of a poisoned entry: its lowest faulting element with that element's address, or above the peer and the hop of a
PATH-LOST; R191 names both and gives no places (log 13). -/
def ixInfo (g : Nat) (t : Trap) : Nat :=
  if t.code = Cause.remotePath then t.info % 2 ^ 16 + 2 ^ 16 * Config.pairInfo g t.info else Config.pairInfo g t.info

/-- IXPOP (R192, Table 1-3). -/
def execIxpop (h : Hdr) (o : Idx) (s : State) : Res :=
  slotRun h s fun s =>
    match s.arch.dq with
    | [] => s.raise h.cls.toNat Cause.queueUnderflow 1
    | e :: _ =>
      match e.status with
      | .wait => s.holdOrTrap h.cls.toNat Cause.timing 2
      | .poisoned g t => s.raise h.cls.toNat t.code (ixInfo g t)
      | .landed =>
        (List.range 8).foldl (fun s c =>
          s.put h 2 (.v c (physV s.arch.vrb o.d.toNat) (dqPart e o.fmt c) (BitVec.allOnes 128))) (s.put h 0 (.dqPop e.id))

/-- The state code of the DQ head (Table 7-9). -/
def headState : List DqEntry → Nat
  | [] => 0
  | e :: _ => match e.status with | .wait => 1 | .landed => 2 | .poisoned _ _ => 3

/-- The hit mask of a LANDED TK 2 head entry (Table 7-9). -/
def headHits : List DqEntry → Nat
  | [] => 0
  | e :: _ => if e.status = .landed ∧ e.tk = 2 then e.hits.toNat else 0

/-- IXCNT (R193, Table 7-9). -/
def execIxcnt (h : Hdr) (o : Idx) (s : State) : Res :=
  slotRun h s fun s =>
    let a := s.arch
    let v := match o.sub.toNat with
      | 0 => a.aqOccupancy
      | 1 => a.dq.length
      | 2 => a.dqReady
      | 3 => headState a.dq
      | 4 => headHits a.dq % 2 ^ 64
      | _ => headHits a.dq / 2 ^ 64
    s.put h 1 (.s o.d.toNat (BitVec.ofNat 64 v))

/-- IXCLR: the entries are FREE at the end of the issue step, as R193 says. DEDUCED (unsafe for a push or an IXCNT of the next
step): Table 3-6 gives IXCLR a latency of 1, and R193's own words are followed (log 73). -/
def execIxclr (h : Hdr) (_o : Idx) (s : State) : Res := slotRun h s fun s => s.put h 0 .ixclr

/-! ### Tag table (R194, R195) -/

/-- A tag instruction needs a tag window (R194). -/
def tagRun (h : Hdr) (s : State) (f : State → State) : Res :=
  slotRun h s fun s => if s.me.ten then f s else s.raise h.cls.toNat Cause.ownership s.issue.die

/-- A tag instruction on a slot of the context's window (R194). -/
def tagSlotRun (h : Hdr) (s : State) (slot : Nat) (f : State → State) : Res :=
  tagRun h s fun s => if s.tagSlotOk slot then f s else s.raise h.cls.toNat Cause.ownership s.issue.die

/-- The word that TLOOK returns for a key (R195). -/
def State.tlookWord (s : State) (k : Word) : Nat :=
  match s.tagHit k with
  | some n => n + tagAddr (SMap.get s.myDie.tags n) * 2 ^ 32
  | none =>
    let st := tagSet s.me.tbase s.me.tlog k
    match (List.range 4).find? fun w => !tagValid (SMap.get s.myDie.tags (4 * st + w)) with
    | some w => 2 ^ 63 + 2 ^ 62 + (4 * st + w)
    | none => 2 ^ 63 + 4 * st

/-- TLOOK: the key s[x] in the table as it stands at the issue step; the answer lands after 4 (R195). -/
def execTlook (h : Hdr) (o : Idx) (s : State) : Res :=
  tagRun h s fun s => s.put h 4 (.s o.d.toNat (BitVec.ofNat 64 (s.tlookWord (s.s o.x))))

/-- TLOOK word, TLOOK key: half of slot s[x][11:0] (R195). -/
def execTlookRead (h : Hdr) (o : Idx) (s : State) : Res :=
  let slot := (s.s o.x).toNat % 2 ^ 12
  tagSlotRun h s slot fun s =>
    let e := SMap.get s.myDie.tags slot
    s.put h 4 (.s o.d.toNat (if bit 0 o.sub.toNat then e.extractLsb' 64 64 else tagKey e))

/-- The entry that TSET writes: KEY, ADDR, VALID, USER (Table 7-10, R195). -/
def tagEntry (k w : Word) : BitVec 128 :=
  BitVec.ofNat 128 (k.toNat + w.toNat % 2 ^ 28 * 2 ^ 64 + 2 ^ 95 + w.toNat / 2 ^ 32 * 2 ^ 96)

/-- TSET: way IMM[1:0] of the key's set takes key s[d] and word s[x] (R195). -/
def execTset (h : Hdr) (o : Idx) (s : State) : Res :=
  tagRun h s fun s =>
    s.put h 4 (.tag (4 * tagSet s.me.tbase s.me.tlog (s.s o.d) + o.value h % 4) (tagEntry (s.s o.d) (s.s o.x)))

/-- TCLR: VALID of slot s[d][11:0] is cleared (R195). -/
def execTclr (h : Hdr) (o : Idx) (s : State) : Res :=
  let slot := (s.s o.d).toNat % 2 ^ 12
  tagSlotRun h s slot fun s => s.put h 4 (.clearTags slot 1)

/-- TCLR all: VALID of every entry of the window is cleared (R195). -/
def execTclrAll (h : Hdr) (_o : Idx) (s : State) : Res :=
  tagRun h s fun s => s.put h 4 (.clearTags (4 * s.me.tbase) (4 * 2 ^ s.me.tlog))

/-! ### Scatter-accumulate (R196, R197) -/

/-- Bytes of a cell (Table 7-11). -/
def ScatRegion.cell (r : ScatRegion) : Nat := if r.wide then 16 else 4

/-- The region that a base and a descriptor configure (Table 7-11). -/
def scatConfig (base desc : Word) : ScatRegion :=
  let n := desc.toNat
  { conf := true, base := base, wide := bit 0 n, translated := bit 1 n, f := bits 9 2 n, len := bits 47 16 n,
    sat := false, nanv := false, ovf := false }

/-- The descriptor and base break R196. -/
def scatBad (a : Arch) (base desc : Word) : Bool :=
  let r := scatConfig base desc
  bits 15 10 desc.toNat != 0 || bits 63 48 desc.toNat != 0 || 127 < r.f || r.len == 0 || base.toNat % r.cell != 0 ||
  (!r.translated && !a.inWindow base.toNat (r.len * r.cell))

/-- SACFG set (R196). -/
def execSacfgSet (h : Hdr) (o : Idx) (s : State) : Res :=
  slotRun h s fun s =>
    let r := o.value h % 8
    if scatBad s.arch (s.s o.d) (s.s o.x) then s.raise h.cls.toNat Cause.scatterConfig (Config.pairInfo r 0)
    else s.put h 1 (.scatSet r (scatConfig (s.s o.d) (s.s o.x)))

/-- Pushes of a stream accepted and not yet performed (Table 7-12). -/
def ScatStream.pending (t : ScatStream) : List Nat := ((t.open_ ++ t.closed.flatten).map (·.push)).eraseDups

/-- The status word of a region (Table 7-12). -/
def scatStatus (r : ScatRegion) (pend : Nat) : Word :=
  BitVec.ofNat 64 (b2n r.sat + b2n r.nanv * 2 + b2n r.ovf * 4 + b2n r.conf * 8 + b2n r.wide * 16 +
    pend % 2 ^ 16 * 2 ^ 16)

/-- SACFG stat (R196); a SACFG to the region closes its window (R198). -/
def execSacfgStat (h : Hdr) (o : Idx) (s : State) : Res :=
  slotRun h s fun s =>
    let r := o.value h % 8
    let w := scatStatus (tget s.arch.regions r default) (tget s.arch.scat r default).pending.length
    (s.put h 1 (.s o.d.toNat w)).put h 1 (.scatClose r)

/-- SACFG clr (R196). -/
def execSacfgClr (h : Hdr) (o : Idx) (s : State) : Res := slotRun h s fun s => s.put h 1 (.scatClr (o.value h % 8))

/-- Pushes that the engine holds, with those that enter at the end of the next step (R197). -/
def Arch.scatOccupancy (a : Arch) : Nat :=
  ((List.range 8).map fun r => (tget a.scat r default).pending.length).sum +
  (a.landing.filter fun l => match l.act with | .scatPush _ _ => true | _ => false).length

/-- The elements of a push in ascending j: index, value, format (R197). -/
def State.scatElems (s : State) (o : Idx) (push r : Nat) (cfg : ScatRegion) : List ScatElem :=
  let hi := if bit 0 o.sub.toNat then 128 else 0
  (List.range 128).filterMap fun j =>
    if s.arch.fullSel o.y.toNat 32 (hi + j) then
      some { push := push, region := r, cell := s.arch.fullElem o.d 32 (hi + j),
             value := if o.fmt = .f64 then s.arch.fullElem o.x 64 j else s.arch.fullElem o.x 32 (hi + j),
             f64 := o.fmt == .f64, cfg := cfg }
    else none

/-- SCAT (R197). -/
def execScat (h : Hdr) (o : Idx) (s : State) : Res :=
  slotRun h s fun s =>
    let r := o.value h % 8
    let cfg := tget s.arch.regions r default
    let ids := s.fresh
    let es := s.scatElems o ids.1 r cfg
    if !cfg.conf || (o.fmt == .f64 && !cfg.wide) then
      s.raise h.cls.toNat Cause.scatterConfig (Config.pairInfo r 0)
    else match es.find? fun e => cfg.len ≤ e.cell with
      | some e => s.raise h.cls.toNat Cause.scatterBounds (Config.pairInfo r e.cell)
      | none =>
        if 64 ≤ s.arch.scatOccupancy then s.holdOrTrap h.cls.toNat Cause.queueOverflow 3
        else ids.2.put h 1 (.scatPush r es)

end Sys2Proof.Machine
end

