-- ==== Sys2Proof/Machine/Scatter.lean ====
section
/-!
DEFINITION. The scatter engine: windows close, perform at bank cells, or enter the deferred set; the update of one cell
(07 R197, R198).
-/

namespace Sys2Proof.Machine

/-! ### The update of a cell (R198) -/

/-- What an update of a cell gives: its new value, and the region's flags that it sets. -/
structure CellOut where
  value : Nat
  sat : Bool
  nanv : Bool
  ovf : Bool

/-- The value of a scatter element. -/
def ScatElem.xv (e : ScatElem) : XV := fpValue (if e.f64 then .f64 else .f32) e.value

/-- Largest magnitude that a wide cell takes from one element. -/
def wideMax : Nat := 2 ^ 127 - 1

/-- The integer that an element adds to a wide cell, with SAT and NANV. -/
def ScatElem.wideAdd (e : ScatElem) : Int × Bool × Bool :=
  match e.xv with
  | .nan => (0, false, true)
  | .inf neg => (if neg then -(wideMax : Int) else wideMax, true, false)
  | .fin neg n d k =>
    let m := (roundMag n d (k + (e.cfg.f : Int)) 0 .ne neg 0).1
    let v := Nat.min m wideMax
    (if neg then -(v : Int) else v, wideMax < m, false)

/-- An FP32 sum of float mode. -/
def scatSum (a b : XV) : Rounded := (a.add .ne b).round .f32 .ne .inf false 0

/-- The elements of one cell summed in stream order: the part, and whether a sum overflowed. -/
def scatPart : List ScatElem → XV × Bool
  | [] => (.fin false 0 1 0, false)
  | e :: es => es.foldl (fun p e =>
      let r := scatSum p.1 e.xv
      (fpValue .f32 r.bits, p.2 || r.flags &&& flagOF != 0)) (e.xv, false)

/-- The update of a cell by the elements of a window that name it, from the cell's old value. -/
def cellUpdate (es : List ScatElem) (old : Nat) : CellOut :=
  match es with
  | [] => { value := old, sat := false, nanv := false, ovf := false }
  | e :: _ =>
    if e.cfg.wide then
      let xs := es.map ScatElem.wideAdd
      { value := wrapTo 128 ((old : Int) + (xs.map (·.1)).sum), sat := xs.any (·.2.1), nanv := xs.any (·.2.2), ovf := false }
    else
      let p := scatPart es
      let r := scatSum (fpValue .f32 old) p.1
      { value := r.bits, sat := false, nanv := (fpValue .f32 r.bits).isNaN, ovf := p.2 || r.flags &&& flagOF != 0 }

/-- The flags of an update reach the status of its region (Table 7-12). -/
def State.scatFlags (s : State) (d c r : Nat) (o : CellOut) : State :=
  s.modArch d c fun a => { a with regions := tmod a.regions r fun g =>
    { g with sat := g.sat || o.sat, nanv := g.nanv || o.nanv, ovf := g.ovf || o.ovf } }

/-- The cells of a window in order of first occurrence, each with its elements. -/
def cellsOf (w : List ScatElem) : List (List ScatElem) :=
  (w.map (·.cell)).eraseDups.map fun c => w.filter fun e => e.cell == c

/-- The address of an element's cell. -/
def ScatElem.addr (e : ScatElem) : Nat := (e.cfg.base.toNat + e.cfg.cell * e.cell) % 2 ^ 64

/-! ### Windows (R198) -/

/-- A region's open window closes; when the engine reaches it is free. -/
def State.closeWindow (s : State) (d c r : Nat) : State :=
  let t := tget (s.ctx d c).arch.scat r default
  if t.open_.isEmpty then s
  else
    let s := s.modArch d c fun a => { a with scat := tset a.scat r { open_ := [], closed := t.closed ++ [t.open_] } }
    let (k, s) := (Config.freeNat s.free, { s with free := s.free + 1 })
    s.schedule (s.now + k) phEnd (.ev (.scatterWindowPerform d c r))

/-- All open windows of a context close: FENCE, DRAIN of class sca or all, release. -/
def State.closeWindows (s : State) (d c : Nat) : State := (List.range 8).foldl (fun s r => s.closeWindow d c r) s

/-- One element enters its region's stream; the window closes when it holds 64, and after the last push before a SACFG. -/
def State.feed (s : State) (d c r : Nat) (e : ScatElem) : State :=
  let s := s.modArch d c fun a => { a with scat := tmod a.scat r fun t => { t with open_ := t.open_ ++ [e] } }
  if 64 ≤ (tget (s.ctx d c).arch.scat r default).open_.length || e.cut then s.closeWindow d c r else s

/-- A push of an EXIT group enters the engine after the release that closed its region's windows: its window closes with it (log 81). -/
def State.feedEnd (s : State) (d c r : Nat) : State := if (s.ctx d c).run = .exited then s.closeWindow d c r else s

/-- The last element of a list is marked as the end of its window. -/
def cutLast : List ScatElem → List ScatElem
  | [] => []
  | [e] => [{ e with cut := true }]
  | e :: es => e :: cutLast es

/-- A push on its way into a region ends the window that takes it. -/
def Landing.cutPush (r : Nat) (l : Landing) : Landing :=
  match l.act with
  | .scatPush k es => if k = r then { l with act := .scatPush k (cutLast es) } else l
  | _ => l

/-- A SACFG cuts its region's stream (R198): after the pushes issued before it lands, those still on their way included, so that
no window holds elements of two configurations (R196). -/
def State.cutStream (s : State) (d c r : Nat) : State :=
  if (s.ctx d c).arch.landing.any fun l => match l.act with | .scatPush k es => k == r && !es.isEmpty | _ => false then
    s.modArch d c fun a => { a with landing := a.landing.map (Landing.cutPush r) }
  else s.closeWindow d c r

/-- Every push of a context has performed, or is in the deferred set (R309). -/
def Arch.scatIdle (a : Arch) : Bool :=
  ((List.range 8).all fun r => let t := tget a.scat r default; t.open_.isEmpty && t.closed.isEmpty) &&
  !(a.landing.any fun l => match l.act with | .scatPush _ es => !es.isEmpty | _ => false)

/-- A cell of a bank region is updated, with its before-image (R197). -/
def State.bankCell (s : State) (d c : Nat) (es : List ScatElem) : State :=
  match es with
  | [] => s
  | e :: _ =>
    let n := e.cfg.cell
    let o := cellUpdate es (natOfBytes (s.bankBytes d c false false e.addr n))
    (s.ownBankWrite d c 11 e.gstep false (placeBytes e.addr (bytesOfNat n o.value))).scatFlags d c e.region o

/-- SCATTER_WINDOW_PERFORM (R198): the first closed window of a region performs at its bank cells; one of a translated
region enters the deferred set (R197). -/
def execScatterWindowPerform (d c r : Nat) (s : State) : Res :=
  let t := tget (s.ctx d c).arch.scat r default
  match t.closed with
  | [] => .next s
  | w :: rest =>
    let s := s.modArch d c fun a => { a with scat := tset a.scat r { t with closed := rest } }
    if w.any fun e => e.cfg.translated then
      .next (s.addWindow d c w)
    else .next ({ (cellsOf w).foldl (fun s es => s.bankCell d c es) s with free := s.free + 1 })

end Sys2Proof.Machine
end

