-- ==== Sys2Proof/Machine/Elements.lean ====
section
/-!
DEFINITION. What AQ, DQ, the tag hits and the row server do after an IXPUSH (07 R189–R193), and the staging of elements
(12 R313).
-/

namespace Sys2Proof.Machine

/-! ### DQ entries -/

/-- A DQ entry of a context. -/
def Arch.dqEntry? (a : Arch) (id : Nat) : Option DqEntry := a.dq.find? fun e => e.id == id

/-- Change of a DQ entry. -/
def State.modDq (s : State) (d c id : Nat) (f : DqEntry → DqEntry) : State :=
  s.modArch d c fun a => { a with dq := a.dq.map fun e => if e.id = id then f e else e }

/-- An element has returned; the entry is LANDED with its last one (R191). -/
def DqEntry.take (e : DqEntry) (g v : Nat) : DqEntry :=
  if e.waiting.contains g then
    let rest := e.waiting.filter fun x => x != g
    { e with data := e.data ||| BitVec.ofNat 8192 (v % 2 ^ (8 * e.size) * 2 ^ (8 * e.size * g)), waiting := rest,
             status := match e.status with
               | .wait => if rest.isEmpty then .landed else .wait
               | x => x }
  else e

/-- An element has faulted; the entry records its lowest one (R191, Table 1-3). -/
def DqEntry.fail (e : DqEntry) (g : Nat) (t : Trap) : DqEntry :=
  { e with waiting := e.waiting.filter fun x => x != g,
           status := match e.status with
             | .poisoned h u => if g < h then .poisoned g t else .poisoned h u
             | _ => .poisoned g t }

/-- A fault of an IX element. -/
def ixTrap (code info : Nat) : Trap := { code := code, info := info, cls := 11, clus := none }

/-- The address of an index: (base + idx × stride) mod 2^64 (Table 7-8). -/
def AqEntry.addrOf (q : AqEntry) (g : Nat) : Nat :=
  (((q.base : Int) + (q.idx.getD g none).getD 0 * (q.stride : Int)) % 2 ^ 64).toNat

/-- What the staging compares for an element: its address, or for a row the table and the index. -/
def AqEntry.stageAddr (q : AqEntry) (g : Nat) : Nat :=
  if q.tk = 1 then q.base * 2 ^ 64 + wrapTo 64 ((q.idx.getD g none).getD 0) else q.addrOf g

/-- The bank address of a tag hit. -/
def AqEntry.hit? (q : AqEntry) (g : Nat) : Option Nat := q.hits.getD g none

/-! ### Elements that return -/

/-- A returned element enters the staging: of the region that pushed its entry, or of a later one (R313). -/
def State.stageElem (s : State) (d c id g v : Nat) : State :=
  let x := s.ctx d c
  match x.arch.dqEntry? id with
  | none => s
  | some e =>
    if c = 2 ∨ (e.src.hit? g).isSome then s
    else match e.stages.find? fun p => p.1 == g with
      | some (_, key) => s.fillStage d c key v (x.stepsBefore e.step)
      | none =>
        let (key, s) := s.fresh
        let n : Staged := { key := key, family := .arrived id g, addr := e.src.stageAddr g, size := e.size, value := some v,
                            steps := x.regionSteps + b2n x.stepped, used := true }
        let s := s.modCtx d c fun x => { x with staging := x.staging ++ [n] }
        let k := (s.ctx d c).staging.length
        if stagingLimit c < k then s.storeFull d c 11 3 (some e.gstep) else s

/-- A context takes and sends no more elements: it has stopped, other than for a pre-emption, which waits for its entries (R315,
R326). -/
def State.elementsStop (s : State) (d c : Nat) : Bool :=
  (s.ctx d c).run == .stopped && !((s.gangOf d c).any fun g => g.state == .preempting)

/-- An element returns its value or its fault to its entry; one of an entry that IXCLR freed is dropped (R193). -/
def State.elemBack (s : State) (d c id g : Nat) (r : Except Trap Nat) : State :=
  let x := s.ctx d c
  match x.arch.dqEntry? id with
  | none => s
  | some e =>
    if s.elementsStop d c || !e.waiting.contains g then s
    else match r with
      | .error t => s.modDq d c id fun e => e.fail g t
      | .ok v => (s.stageElem d c id g v).modDq d c id fun e => e.take g v

/-- An element has been read, or its fault is known: it returns at a free later count. -/
def State.elemGot (s : State) (d c id g : Nat) (r : Except Trap Nat) : State :=
  let got : Nat × Option Trap × Nat := match r with
    | .ok v => (g, none, v)
    | .error t => (g, some t, 0)
  let s := s.modDq d c id fun e => { e with got := e.got ++ [got] }
  let (k, s) := (Config.freeNat s.free, { s with free := s.free + 1 })
  s.schedule (s.now + k) phEdge (.ev (.ixElementReturn d c id g))

/-- IX_ELEMENT_RETURN (R191). -/
def execIxElementReturn (d c id g : Nat) (s : State) : Res :=
  match (s.ctx d c).arch.dqEntry? id with
  | none => .next s
  | some e =>
    match e.got.find? fun p => p.1 == g with
    | none => .next s
    | some p =>
      let s := s.modDq d c id fun e => { e with got := e.got.filter fun p => p.1 != g }
      .next (s.elemBack d c id g (match p.2.1 with | some t => .error t | none => .ok p.2.2))

/-- A tag hit reads its bytes of the context's own bank: aligned, inside BWIN (R190, R191). -/
def State.readHit (s : State) (d c a size : Nat) : Except Trap Nat :=
  if a % size ≠ 0 then .error (ixTrap Cause.misaligned a)
  else if !(s.ctx d c).arch.inWindow a size then .error (ixTrap Cause.bankBounds a)
  else .ok (natOfBytes (s.bankBytes d c false false a size))

/-- An element is read at its home. -/
def State.readElem (s : State) (d c id g : Nat) : State :=
  match (s.ctx d c).arch.dqEntry? id with
  | none => s
  | some e =>
    if s.elementsStop d c then s
    else match e.src.hit? g with
      | some a => ({ s with free := s.free + 1 }).elemGot d c id g (s.readHit d c a e.size)
      | none =>
        let a := e.src.addrOf g
        match s.reach d (some c) (s.ctx d c).asid a true false with
        | (s, .error code) => s.elemGot d c id g (.error (ixTrap code a))
        | (s, .ok h) => s.elastically [h] (.elem d c id g) fun s => s.elemGot d c id g (match s.readHome h e.size with
          | .ok v => .ok v
          | .error code => .error (ixTrap code a))

/-! ### AQ (R190) -/

/-- A translated element goes to its home: in the package its read takes place at a free later count. Alignment is judged before
translation, a choice (log 38). -/
def State.sendElem (s : State) (d c : Nat) (q : AqEntry) (g : Nat) : State :=
  let a := q.addrOf g
  if a % q.size ≠ 0 then s.elemGot d c q.id g (.error (ixTrap Cause.misaligned a))
  else match s.reach d (some c) (s.ctx d c).asid a true false with
    | (s, .error code) => s.elemGot d c q.id g (.error (ixTrap code a))
    | (s, .ok h) => match h with
      | .remote pkg x => s.request d (.elem d c q.id [g]) pkg FrameKind.read x q.size []
      | .host x => s.hostRead (.elem d c q.id [g]) x q.size
      | _ =>
        let (k, s) := (Config.freeNat s.free, { s with free := s.free + 1 })
        s.schedule (s.now + 1 + k) phEdge (.elem d c q.id g)

/-- Fields of a row-table operand (Table 7-8). -/
def rowModule (y : Nat) : Nat := bits 9 0 y
def rowDie (y : Nat) : Nat := bits 11 10 y
def rowTable (y : Nat) : Nat := bits 17 12 y

/-- The rows of an entry travel as one elastic request: the indices as 8-byte words in ascending element (log 9). A row operand
whose bits 63..18 are not zero names no row: every element takes the address-range fault, a choice, since R190 says only that
the bits must be zero (log 52). -/
def State.sendRows (s : State) (d c : Nat) (q : AqEntry) (gs : List Nat) : State :=
  if gs.isEmpty then s
  else if bits 63 18 q.base ≠ 0 then
    gs.foldl (fun s g => s.elemGot d c q.id g (.error (ixTrap Cause.addressRange q.base))) s
  else
    let data := gs.flatMap fun g => bytesOfNat 8 (wrapTo 64 ((q.idx.getD g none).getD 0))
    let pkg := rowModule q.base
    if pkg ≠ s.pkg.toNat then
      -- the destination die of the frame is the row server's
      let (id, s) := s.fresh
      let s := { s with elastic := s.elastic ++ [({ id := id, who := .elem d c q.id gs, pkg := pkg, host := false, sent := s.bel, via := none } : Elastic)] }
      let s := s.schedule (s.now + Config.pathLostCounts) phEnd (.ev (.pathLostTimeout id))
      s.sendOut { kind := FrameKind.rowRequest, hop := 0, srcPkg := s.pkg.toNat, srcDie := d, dstPkg := pkg, dstDie := rowDie q.base,
                  chan := id, seq := 0, addr := rowTable q.base, gang := 0, op := q.size, data := data, asid := (s.ctx d c).asid }
    else
      let (id, s) := s.fresh
      let s := { s with elastic := s.elastic ++ [({ id := id, who := .elem d c q.id gs, pkg := pkg, host := false, sent := s.bel, via := none } : Elastic)] }
      let (k, s) := (Config.freeNat s.free, { s with free := s.free + 1 })
      s.schedule (s.now + 1 + k) phEdge (.ev (.rowRequest
        { kind := FrameKind.rowRequest, hop := 0, srcPkg := pkg, srcDie := d, dstPkg := pkg, dstDie := rowDie q.base,
          chan := id, seq := 0, addr := rowTable q.base, gang := 0, op := q.size, data := data, asid := (s.ctx d c).asid }))

/-- The elements of an entry that AQ still has to send. -/
def State.toSend (s : State) (d c : Nat) (q : AqEntry) : List Nat :=
  match (s.ctx d c).arch.dqEntry? q.id with
  | none => []
  | some e => e.waiting.filter fun g => !e.skip.contains g

/-- Elements of an entry go to memory. -/
def State.sendEntry (s : State) (d c : Nat) (q : AqEntry) (gs : List Nat) : State :=
  if q.tk = 1 then s.sendRows d c q gs else gs.foldl (fun s g => s.sendElem d c q g) s

/-- The next issue of AQ: at the earliest in the next count, at a free one. -/
def State.planAq (s : State) (d c : Nat) : State :=
  if (s.ctx d c).arch.aq.isEmpty then s
  else
    let (k, s) := (Config.freeNat s.free, { s with free := s.free + 1 })
    s.schedule (s.now + 1 + k) phEdge (.ev (.aqEntryIssue d c))

/-- An entry whose AQ entry has left and that awaits no element has every valid index returned (R191). -/
def DqEntry.settle (e : DqEntry) : DqEntry :=
  if e.status = .wait ∧ e.waiting.isEmpty then { e with status := .landed } else e

/-- AQ_ENTRY_ISSUE (R190): the first entry is translated and sent, and leaves AQ; one with no valid index is LANDED. -/
def execAqEntryIssue (d c : Nat) (s : State) : Res :=
  match (s.ctx d c).arch.aq with
  | [] => .next s
  | q :: rest =>
    if s.elementsStop d c then .next s
    else
      let s := s.modArch d c fun a => { a with aq := rest }
      .next (((s.sendEntry d c q (s.toSend d c q)).planAq d c).modDq d c q.id DqEntry.settle)

/-- A push enters AQ (R189), for which the check at its issue has kept a place of the 32 (R26, R27). -/
def State.pushAq (s : State) (d c : Nat) (q : AqEntry) : State :=
  let idle := (s.ctx d c).arch.aq.isEmpty
  if ((s.ctx d c).arch.dqEntry? q.id).isNone ∨ 32 ≤ (s.ctx d c).arch.aq.length then s
  else
    let s := s.modArch d c fun a => { a with aq := a.aq ++ [q] }
    if idle then s.planAq d c else s

/-- A tag hit is read at a free count from this one on (R190). -/
def State.planHit (s : State) (d c id g : Nat) : State :=
  let (k, s) := (Config.freeNat s.free, { s with free := s.free + 1 })
  s.schedule (s.now + k) phEnd (.elem d c id g)

/-- A push reserves its DQ entry (R189), for which the check at its issue has kept a place of the 32 (R27): its translated elements
open their staging, and those that it serves land after their recorded steps (R313); tag hits are read. -/
def State.pushDq (s : State) (d c : Nat) (e : DqEntry) : State :=
  if 32 ≤ (s.ctx d c).arch.dq.length then s
  else
  let e := { e with step := (s.ctx d c).steps }
  let hits := e.waiting.filter fun g => (e.src.hit? g).isSome
  let (s, stages, served) := (e.waiting.filter fun g => (e.src.hit? g).isNone).foldl
    (fun (acc : State × List (Nat × Nat) × List (Nat × Nat × Nat)) g =>
      let (s, key, hit) := acc.1.openStage d c .ix (e.src.stageAddr g) e.size 11
      (s, acc.2.1 ++ [(g, key)], match hit with | some h => acc.2.2 ++ [(g, h.1, h.2)] | none => acc.2.2)) (s, [], [])
  let s := s.modArch d c fun a => { a with dq := a.dq ++ [{ e with stages := stages, skip := hits ++ served.map (·.1) }] }
  let s := hits.foldl (fun s g => s.planHit d c e.id g) s
  served.foldl (fun s p =>
    if p.2.2 = 0 then s.modDq d c e.id fun e => e.take p.1 p.2.1
    else s.modArch d c fun a => { a with landing := a.landing ++ [replayLanding (.replayElem e.id p.1 p.2.1) p.2.2 0] }) s

/-- IXCLR (R193). -/
def Arch.clearQueues (a : Arch) : Arch :=
  { a with aq := [], dq := [], landing := a.landing.filter fun l => match l.act with | .aqPush _ => false | _ => true }

/-- After a rollback or a restored pre-emption: the entries captured in WAIT take what the staging holds at the recorded
steps; the elements that never returned go to memory again (R313). -/
def State.resumeQueues (s : State) (d c : Nat) : State :=
  let x := s.ctx d c
  let s := x.arch.dq.foldl (fun s e =>
    let staged := x.staging.filterMap fun y => match y.family, y.value with
      | .arrived id g, some v => if id = e.id then some (g, v, y.steps) else none
      | _, _ => none
    let s := staged.foldl (fun s p => s.modArch d c fun a =>
      { a with landing := a.landing ++ [replayLanding (.replayElem e.id p.1 p.2.1) p.2.2 0] }) s
    let served := staged.map (·.1)
    let s := s.modDq d c e.id fun e => { e with got := [], skip := (e.skip ++ served).eraseDups }
    let left := e.waiting.filter fun g => !served.contains g
    let hits := left.filter fun g => (e.src.hit? g).isSome
    let s := hits.foldl (fun s g => s.planHit d c e.id g) s
    if x.arch.aq.any fun q => q.id == e.id then s
    else s.sendEntry d c e.src (left.filter fun g => (e.src.hit? g).isNone)) s
  s.planAq d c

/-! ### Row server (R190) -/

/-- The address of a row: (BASE + idx × STRIDE) mod 2^64. -/
def RowEntry.addrOf (e : RowEntry) (idx : Nat) : Nat := (e.base + idx * e.stride) % 2 ^ 64

/-- A row as the server on a V-die reads it: z bytes of its own module's translated memory, under the requester's address space
(log 52), or the cause that poisons the element (R190, R191); none where its burst cannot take place in this count. -/
def State.readRow (s : State) (d asid : Nat) (e : RowEntry) (size idx : Nat) : State × Option (Except Nat Nat) :=
  let a := e.addrOf idx
  if !e.valid || e.size != size || e.limit ≤ idx then (s, some (.error Cause.addressRange))
  else if a % size ≠ 0 then (s, some (.error Cause.misaligned))
  else match s.reach d none asid a true false with
    | (s, .error c) => (s, some (.error c))
    | (s, .ok h) => match s.elasticTurn [h] with
      | some s => (s, some (s.readHome h size))
      | none => (s, none)

/-- The rows of a request, one after another, as far as bursts can take place: the state, and each row's address with its value
or cause. -/
def State.readRows (s : State) (d asid : Nat) (e : RowEntry) (size : Nat) : List Nat → State × List (Nat × Option Nat × Nat)
  | [] => (s, [])
  | i :: is =>
    match s.readRow d asid e size i with
    | (s, none) => (s, [])
    | (s, some r) =>
      let rest := s.readRows d asid e size is
      (rest.1, (e.addrOf i, match r with | .ok v => (none, v) | .error c => (some c, 0)) :: rest.2)

/-- The table entry that a row request names (Table 14-6). -/
def State.rowEntry (s : State) (f : Frame) : RowEntry :=
  (((s.die f.dstDie).rows.find? fun r => r.1 == f.addr).map (·.2)).getD default

/-- The indices of a row request. -/
def Frame.rowIndices (f : Frame) : List Nat :=
  (List.range (f.data.length / 8)).map fun i => natOfBytes ((f.data.drop (8 * i)).take 8)

/-- The reply to a row request: the elements packed, and those that faulted with cause and address (log 9). -/
def State.rowAnswer (s : State) (f : Frame) (rows : List (Nat × Option Nat × Nat)) : Frame :=
  { kind := FrameKind.rowReply, hop := 0, srcPkg := s.pkg.toNat, srcDie := f.dstDie, dstPkg := f.srcPkg, dstDie := f.srcDie,
    chan := f.chan, seq := 0, addr := 0, gang := 0, op := f.op,
    data := rows.flatMap fun v => match v.2.1 with
      | none => bytesOfNat f.op v.2.2
      | some _ => List.replicate f.op 0,
    faults := (rows.mapIdx fun i v => (i, v)).filterMap fun p => p.2.2.1.map fun c => (p.1, c, p.2.1) }

/-- A frame of this package to a requester: to itself at a free count, else over the links. -/
def State.answer (s : State) (f : Frame) (ev : Frame → Instr) : State :=
  if f.dstPkg = s.pkg.toNat then
    let (k, s) := (Config.freeNat s.free, { s with free := s.free + 1 })
    s.schedule (s.now + k) phEdge (.ev (ev f))
  else s.sendOut f

/-- Rows of a request are read, after those that have been; the reply follows the last one. -/
def State.serveRows (s : State) (f : Frame) (got : List (Nat × Option Nat × Nat)) : State :=
  let is := Frame.rowIndices f
  let r := s.readRows f.dstDie f.asid (s.rowEntry f) f.op (is.drop got.length)
  let got := got ++ r.2
  if is.length ≤ got.length then r.1.answer (s.rowAnswer f got) Instr.rowReply else r.1.laterOn (.rows f got)

/-- ROW_REQUEST (R190): the whole request is served from the table entry, in one reply. -/
def execRowRequest (f : Frame) (s : State) : Res := s.inDomain fun s => .next (s.serveRows f [])

/-- The request that a reply answers, taken from the list of those that wait. -/
def State.takeElastic (s : State) (id : Nat) : Option (Elastic × State) :=
  match s.elastic.find? fun e => e.id == id with
  | some e => some (e, { s with elastic := s.elastic.filter fun x => x.id != id })
  | none => none

/-- ROW_REPLY (R190): the packed elements return to their entry. -/
def execRowReply (f : Frame) (s : State) : Res :=
  s.fromDomain f fun s => match s.takeElastic f.chan with
  | some (e, s) =>
    match e.who with
    | .elem d c id gs =>
      let size := f.data.length / gs.length
      .next ((gs.mapIdx fun i g => (i, g)).foldl (fun s p =>
        let r : Except Trap Nat :=
          match f.faults.find? fun x => x.1 == p.1 with
          | some x => .error (ixTrap x.2.1 x.2.2)
          | none => .ok (natOfBytes ((f.data.drop (size * p.1)).take size))
        s.elemBack d c id p.2 r) s)
    | _ => .next s
  | none => .next s

end Sys2Proof.Machine
end

