-- ==== Sys2Proof/Machine/Frames.lean ====
section
/-!
DEFINITION. Timed frames: network frames that arrive and are not taken (07 R185), SEND over the edges and to the port dies,
receive staging, RECV landings (09 R238–R242, 13 R345–R347).
-/

namespace Sys2Proof.Machine

/-! ### Edges (R233, R239, R332) -/

/-- Bytes of an edge in each count (Table 13-1). -/
def edgeRate : Nat := 4096

/-- Bytes of the network frames that use a directed edge in this count; they are never delayed (R239). -/
def State.netBytes (s : State) (e : Nat) : Nat :=
  ((List.range 8).map fun d => (((s.die d).nframes.filter fun f =>
    f.arrive == s.bel + 20 && (dirPath f.fromDie d).contains e).map fun f =>
      match kindOf f.fromDie with | .v => 1024 | .m => 4096).sum).sum

/-- An edge carries SEND bytes in this count: it is in service and resends nothing (R334). -/
def State.edgeRuns (s : State) (e : Nat) : Bool :=
  s.edges.getLsbD (e % 14) && !s.edgeLate.any fun l => l.1 == e && s.bel < l.2

/-- Bytes that a frame has sent into edge j of its way, in all counts or up to one. -/
def SendState.sent (x : SendState) (j : Nat) : Nat := ((x.flow.getD j []).map (·.2)).sum
def SendState.sentBy (x : SendState) (j b : Nat) : Nat :=
  (((x.flow.getD j []).filter fun p => p.1 ≤ b).map (·.2)).sum

/-- Bytes of a frame that wait for edge j in a count (R239): granules are read at the port's rate, and each edge takes 20
counts. -/
def SendState.waiting (x : SendState) (j b : Nat) : Nat :=
  let have_ := if j = 0 then Nat.min x.n (portRate x.fromDie * (b - x.issued + 1)) else x.sentBy (j - 1) (b - 20)
  have_ - x.sent j

/-- Precedence on an edge: a frame that has begun, then the earlier issued, then the lower die code (R239). -/
def SendState.before (a b : SendState × Nat) : Bool :=
  let ka := (b2n (a.1.sent a.2 == 0), a.1.issued, a.1.fromDie)
  let kb := (b2n (b.1.sent b.2 == 0), b.1.issued, b.1.fromDie)
  ka.1 < kb.1 || (ka.1 == kb.1 && (ka.2.1 < kb.2.1 || (ka.2.1 == kb.2.1 && ka.2.2 < kb.2.2)))

/-- Insertion by precedence. -/
def insertSend (x : SendState × Nat) : List (SendState × Nat) → List (SendState × Nat)
  | [] => [x]
  | y :: ys => if SendState.before x y then x :: y :: ys else y :: insertSend x ys

/-- The share of each frame in the capacity of an edge. -/
def grantEdge (b : Nat) : Nat → List (SendState × Nat) → List (Nat × Nat × Nat)
  | _, [] => []
  | cap, (x, j) :: r =>
    let g := Nat.min cap (x.waiting j b)
    (x.id, j, g) :: grantEdge b (cap - g) r

/-- Bytes that a frame sends into an edge in a count. -/
def SendState.flowOn (x : SendState) (j b g : Nat) : SendState :=
  if g = 0 then x else { x with flow := x.flow.modify j fun l => l ++ [(b, g)] }

/-- One directed edge carries SEND frames in this count. -/
def State.runEdge (s : State) (e : Nat) : State :=
  let users := s.sends.filterMap fun x => match x.path.idxOf? e with
    | some j => if 0 < x.waiting j s.bel then some (x, j) else none
    | none => none
  if users.isEmpty || !s.edgeRuns e then s
  else
    let gs := grantEdge s.bel (edgeRate - s.netBytes e) (users.foldr insertSend [])
    { s with sends := s.sends.map fun x => match gs.find? fun g => g.1 == x.id with
        | some g => x.flowOn g.2.1 s.bel g.2.2
        | none => x }

/-- The frame as the links carry it; `op` holds the arrival count (log 9). -/
def SendState.frame (x : SendState) (s : State) (at_ : Nat) : Frame :=
  { kind := FrameKind.send, hop := 0, srcPkg := s.pkg.toNat, srcDie := x.fromDie, dstPkg := x.dstPkg, dstDie := x.dstDie,
    chan := x.chan, seq := x.seq, addr := 0, gang := x.gang, op := at_, data := x.data.take x.n }

/-- SEND frames move by one count; a frame within the package whose last byte has left its last edge is complete 21 counts later
(R239). -/
def State.runEdges (s : State) : State :=
  if s.sends.isEmpty then s
  else
    let s := (List.range 28).foldl (fun s e => s.runEdge e) s
    let done := s.sends.filter fun x => x.dstPkg == s.pkg.toNat && x.sent (x.path.length - 1) == x.n
    let s := { s with sends := s.sends.filter fun x => !done.any fun y => y.id == x.id }
    done.foldl (fun s x => s.scheduleBel (s.bel + 21) phStart (.ev (.timedFrameArrival (x.frame s (s.bel + 21))))) s

/-! ### SEND (R239, R240, R346) -/

/-- A frame enters the engine; its further granules are read in the following counts. -/
def State.startSend (s : State) (x : SendState) : State :=
  let (id, s) := s.fresh
  let x := { x with id := id, issued := s.bel }
  let per := portRate x.fromDie
  let s := { s with sends := s.sends ++ [x] }
  (List.range (ceilDiv x.n per - 1)).foldl (fun s j => s.scheduleBel (s.bel + 1 + j) phStart (.frame id (j + 1))) s

/-- The flits of a SEND to another package; a data flit leaves once its bytes are at the port die (R332, R346). -/
def SendState.flits (x : SendState) : List TxFlit :=
  (txFlits { job := x.id, timed := true, peer := x.dstPkg, run := some (x.gang, x.entry), any := false, from_ := x.leave, left := 64,
             seq := none, coll := none, tail := none } (1 + ceilDiv x.n 64) (.send x.id)).mapIdx fun i (y : TxFlit) =>
    { y with need := some (x.id, Nat.min x.n (64 * i)) }

/-- SEND within the package, at the end of its issue step. -/
def State.sendLocal (s : State) (d c dst chan seq bank n : Nat) (first : List Byte) : State :=
  let path := dirPath d dst
  s.startSend { (default : SendState) with
    fromDie := d, fromCtx := c, gang := (s.ctx d c).gang, dstPkg := s.pkg.toNat, dstDie := dst, chan := chan, seq := seq,
    bank := bank, n := n, data := first, path := path, flow := path.map fun _ => [] }

/-- SEND to another package: the frame joins the queue of the entry that carries it, behind that entry's earlier frames, while its
bytes cross the edges to the port die (R332, R346). -/
def State.sendAway (s : State) (d c pkg die chan seq bank n : Nat) (first : List Byte) : State :=
  match s.gangOf d c with
  | none => s
  | some g =>
    let gs := (s.belfry - BitVec.ofNat 64 g.gbase).toNat
    match carry (s.timetable g) g.carried g.phase (s.ctx d c).member pkg 0 gs (1 + n / 64) with
    | none => s
    | some (e, sl, _, a) =>
      let s := s.modGang g.id fun x => { x with carried := addCarried x.carried e.ix sl }
      let path := toPort (portOf e.lan) d
      let x : SendState := { (default : SendState) with
        id := s.nextId, fromDie := d, fromCtx := c, gang := g.id, dstPkg := pkg, dstDie := die, chan := chan, seq := seq, bank := bank,
        n := n, data := first, path := path, flow := path.map fun _ => [], leave := g.gbase + 64 * (gs / 64 + 2), ident := e.lan,
        entry := e.ix, arrive := g.gbase + a }
      (s.startSend x).queueFlits e.lan x.flits

/-- The next granules of a frame are read from the sender's bank; a sender that has stopped sends no more of it (R315). -/
def State.readFrame (s : State) (id k : Nat) : State :=
  match s.sends.find? fun x => x.id == id with
  | none => s
  | some x =>
    if (s.ctx x.fromDie x.fromCtx).run = .stopped then { s with sends := s.sends.filter fun y => y.id != id }
    else
      let per := portRate x.fromDie
      let bs := s.bankBytes x.fromDie x.fromCtx false false (x.bank + per * k) (Nat.min per (x.n - per * k))
      { s with free := s.free + 1,
               sends := s.sends.map fun (y : SendState) => if y.id = id then { y with data := y.data ++ bs } else y }

/-! ### Receive staging (R241, R242, R347) -/

/-- TRAPINFO of an undelivered frame: kind 5 with the receiving die and edge (Table 12-3, R185, R242; log 4). -/
def untakenInfo (d edge : Nat) : Nat := 5 + 16 * Config.pairInfo d edge

/-- Bytes that a gang's frames hold in a die's staging, those that its collectives have received among them (R242, R396, log 72). -/
def State.stagedBytes (s : State) (d g : Nat) : Nat :=
  (((s.die d).staging.filter fun f => f.gang == g).map fun f => f.data.length).sum +
  ((s.colls.filter fun y => y.gang == g && y.die == d).map fun y =>
    ((y.recv.filter fun p => p.1 != y.rank).map fun p => p.2.2.2.length).sum).sum

/-- A frame is a duplicate: its SEQ is at or below the committed mark of its source and channel, or a held frame has it. -/
def Die.duplicate (x : Die) (k : Nat × Nat × Nat × Nat) : Bool :=
  (x.marks.any fun m => m.1 == k.1 && m.2.1 == k.2.1 && m.2.2.1 == k.2.2.1 && k.2.2.2 ≤ m.2.2.2) ||
  x.staging.any fun f => f.key == k

/-- A frame came to a die that runs no member of its gang, and is discarded: the sender, if its gang still runs here, takes the timing
trap; a sender on another package is told (R242, log 80). -/
def State.untaken (s : State) (f : Frame) : State :=
  let c := s.ctx f.srcDie 0
  if f.srcPkg ≠ s.pkg.toNat then { s with control := s.control ++ [.untaken f.srcPkg { f with data := [] }] }
  else if c.run ≠ .absent ∧ c.gang = f.gang then
    s.takeTrap f.srcDie 0 [{ code := Cause.timing, info := untakenInfo f.dstDie 4, cls := 0, clus := none }]
  else s

/-- TIMED_FRAME_ARRIVAL (R347): a frame is complete in its receiver's staging at the start of this count and can be taken from its
arrival count on, or, if it is late, from now on. A frame of this package whose receiver is on another one is the notice that it was
discarded there (log 80). -/
def execTimedFrameArrival (f : Frame) (s : State) : Res :=
  let d := f.dstDie
  let x := s.die d
  let c := s.ctx d 0
  let key := (f.srcPkg, f.srcDie, f.chan, f.seq)
  if (f.dstPkg ≠ s.pkg.toNat ∧ f.srcPkg = s.pkg.toNat) ∨ c.run = .absent ∨ c.gang ≠ f.gang then .next (s.untaken f)
  else if x.duplicate key then .next s
  else match s.gang? f.gang with
    | none => .next s
    | some g =>
      if shareOf (s.timetable g) c.prog < s.stagedBytes d f.gang + f.data.length then
        .next (s.takeOne d 0 Cause.stagingOverflow (Config.pairInfo f.srcDie f.chan) 0)
      else
        .next (s.modDie d fun x => { x with staging := x.staging ++
          [({ key := key, gang := f.gang, ready := max f.op s.bel, data := f.data } : StagedFrame)] })

/-- RECV takes its frame: its granules land from the sixth count on at the port's rate (R241). -/
def State.takeFrame (s : State) (d c : Nat) (key : Nat × Nat × Nat × Nat) (bank : Nat) : State :=
  match (s.die d).staged key with
  | none => s
  | some f =>
    let (id, s) := s.fresh
    let s := s.modCtx d c fun x => { x with taken := x.taken ++ [key], takes := x.takes ++ [(id, bank, f.data)] }
    (List.range (ceilDiv f.data.length (portRate d))).foldl (fun s k =>
      s.scheduleBel (s.bel + 6 + k) phEdge (.ev (.recvGranuleLand d c id k))) s

/-- RECV_GRANULE_LAND (R241): the granules of one count land whole, with their before-images. -/
def execRecvGranuleLand (d c id k : Nat) (s : State) : Res :=
  let x := s.ctx d c
  match x.takes.find? fun t => t.1 == id with
  | none => .next s
  | some t =>
    if x.run = .stopped then .next s
    else
      let per := portRate d
      let gs := (s.belfry - x.arch.gbase).toNat - (6 + k)
      let s := s.transferWrite d c 15 gs (t.2.1 + per * k) ((t.2.2.drop (per * k)).take per)
      if t.2.2.length ≤ per * (k + 1) then
        .next (s.modCtx d c fun x => { x with takes := x.takes.filter fun t => t.1 != id })
      else .next s

/-- The frames that RECVs of the region took are freed, and the committed marks take their SEQ (R241, R309 step 2). -/
def State.freeFrames (s : State) (d c : Nat) : State :=
  let keys := (s.ctx d c).taken
  let s := s.modDie d fun x =>
    { x with staging := x.staging.filter fun f => !keys.contains f.key,
             marks := keys.foldl (fun ms k =>
               let old := (ms.find? fun m => m.1 == k.1 && m.2.1 == k.2.1 && m.2.2.1 == k.2.2.1).map (·.2.2.2)
               (k.1, k.2.1, k.2.2.1, max k.2.2.2 (old.getD 0)) ::
                 ms.filter fun m => !(m.1 == k.1 && m.2.1 == k.2.1 && m.2.2.1 == k.2.2.1)) x.marks }
  s.modCtx d c fun x => { x with taken := [] }

/-! ### Network frames (R185) -/

/-- A network frame leaves on an edge; it arrives `hop` counts later, or with the bytes that a resent flit holds up
(R334). -/
def State.sendNet (s : State) (d c edge hop : Nat) (bytes : List (Nat × Byte)) : State :=
  match neighbour d edge with
  | none => s
  | some toEnd =>
    let (id, s) := s.fresh
    let late := s.edgeLate.any fun l => (dirPath d toEnd).contains l.1 && s.bel + hop < l.2 + 20
    let at_ := s.bel + hop + (if late then 8 else 0)
    if (dirPath d toEnd).all fun e => s.edges.getLsbD (e % 14) then
      let f : NFrame := { id := id, edge := farEdge edge, arrive := at_, gang := (s.ctx d c).gang, fromDie := d, bytes := bytes }
      (s.modDie toEnd fun x => { x with nframes := x.nframes ++ [f] }).scheduleBel at_ phStart (.ev (.nsendFrameArrival toEnd id))
    else s

/-- NSEND_FRAME_ARRIVAL (R185): the frame stands at its edge in this count; what no receiver takes is discarded at its
end. -/
def execNsendFrameArrival (d id : Nat) (s : State) : Res :=
  if (s.die d).nframes.any fun f => f.id == id then .next (s.schedule s.now phEnd (.ev (.frameNotTaken d id))) else .next s

/-- FRAME_NOT_TAKEN (R185): the frame is discarded, and the sending gang takes the timing trap. -/
def execFrameNotTaken (d id : Nat) (s : State) : Res :=
  match (s.die d).nframes.find? fun f => f.id == id with
  | none => .next s
  | some f =>
    let s := s.modDie d fun x => { x with nframes := x.nframes.filter fun f => f.id != id }
    .next (s.takeOne f.fromDie 0 Cause.timing (untakenInfo d f.edge) 0)

/-- The frame that arrives on an edge in this count is taken. -/
def State.takeNet (s : State) (d edge : Nat) : State :=
  s.modDie d fun x => { x with nframes := x.nframes.filter fun f => !(f.edge == edge && f.arrive == s.bel) }

end Sys2Proof.Machine
end

