-- ==== Sys2Proof/Machine/Reduce.lean ====
section
/-!
DEFINITION. The reduction slot (06 R168–R174): RACC, RSUM, RMAX, RMIN, RARGMAX, RSCAN, RSEG, RDRN, RCLR, RCMB.
-/

namespace Sys2Proof.Machine

/-- What the roundings of a reduction leave: the generator, the flags, the first element that overflowed under policy 11. -/
structure Work where
  seed : Word
  flags : Flags
  trap : Option Nat

/-- The outcome of a rounding for element g, and the generator after it. -/
def Work.note (k : Work) (g : Nat) (seed : Word) (r : Rounded) : Work :=
  { seed := seed, flags := k.flags ||| r.flags, trap := match k.trap with
      | some t => some t
      | none => if r.trap then some g else none }

/-- comb of R169 for element g: one absent operand gives the other; float sums round, integer sums stay exact. -/
def comb (o : VRRRR) (g : Nat) (k : Work) (a b : Option XV) : Work × Option XV :=
  match a, b with
  | none, b => (k, b)
  | a, none => (k, a)
  | some a, some b =>
    let x := a.add o.rnd b
    if o.fmt.isInt then (k, some x.val)
    else
      let p := drawIf o.rnd k.seed
      let r := x.round o.fmt o.rnd o.ovf o.ftz p.2
      (k.note g p.1 r, some (fpValue o.fmt r.bits))

/-- One level of a tree: pairs combined in ascending order. -/
def treeLevel (o : VRRRR) (g : Nat) : Work → List (Option XV) → Work × List (Option XV)
  | k, a :: b :: r =>
    let p := comb o g k a b
    let q := treeLevel o g p.1 r
    (q.1, p.2 :: q.2)
  | k, l => (k, l)

/-- tree of R169, with as many levels as the number given allows: a vector of 8-bit elements has 2^10 entries. -/
def treeSum (o : VRRRR) (g : Nat) : Nat → Work → List (Option XV) → Work × Option XV
  | 0, k, l => (k, l.headD none)
  | n + 1, k, l => match l with
    | [] => (k, none)
    | [a] => (k, a)
    | l => let p := treeLevel o g k l; treeSum o g n p.1 p.2

/-- A final value as element g of the format: R76 once for integers; a float value is of the format already (R169). -/
def encodeElem (o : VRRRR) (g : Nat) (k : Work) (v : XV) : Work × Nat :=
  if o.fmt.isInt then
    let r := floatToInt o.fmt v .tz o.ovf 0
    (k.note g k.seed r, r.bits)
  else (k, (roundTo o.fmt v .ne .inf false 0).bits)

/-- A value of a source element. -/
def rdValue (o : VRRRR) (n : Nat) : XV := elemValue o.fmt o.ftz n

/-- The elements of the full vector as a reduction takes them, absent where py does not select (R168). -/
def State.rdVector (s : State) (o : VRRRR) : List (Option XV) :=
  let w := o.fmt.width
  (List.range (8 * elemCount w)).map fun g =>
    if s.arch.fullSel o.y.toNat w g then some (rdValue o (s.arch.fullElem o.x w g)) else none

/-- The elements of a latch. -/
def State.rdLatch (s : State) (o : VRRRR) (r : BitVec 6) : List XV :=
  (List.range (elemCount o.fmt.width)).map fun e => rdValue o (elemOf (s.arch.areg r.toNat) o.fmt.width e)

/-- The source of RSUM, RMAX, RMIN and RARGMAX: the vector, or the latch where SRC = 1 (Table 6-8). -/
def State.rdSource (s : State) (o : VRRRR) : List (Option XV) :=
  if bit 0 o.sub.toNat then (s.rdLatch o o.x).map some else s.rdVector o

/-- The work as a reduction starts it. -/
def State.work (s : State) : Work := { seed := s.issue.seed, flags := 0, trap := none }

/-- A reduction ends: its overflow traps, or its results and flags land (R38, R44, R143). -/
def State.rdEnd (s : State) (h : Hdr) (lat : Nat) (k : Work) (f : State → State) : State :=
  let s := { s with issue := { s.issue with seed := k.seed } }
  match k.trap with
  | some g => s.raise h.cls.toNat Cause.overflow g
  | none => (f s).putFlags h.cls.toNat lat k.flags

/-- Elements of values encoded in ascending order. -/
def encodeAll (o : VRRRR) : Nat → Work → List XV → Work × List Nat
  | _, k, [] => (k, [])
  | g, k, v :: vs =>
    let p := encodeElem o g k v
    let q := encodeAll o (g + 1) p.1 vs
    (q.1, p.2 :: q.2)

/-! ### RACC and RSUM (R170) -/

/-- Element e of RACC: the latch element with the tree over the clusters; none where the tree is absent. -/
def raccElem (o : VRRRR) (old : XV) (e : Nat) (parts : List (Option XV)) (k : Work) : Work × Option Nat :=
  let t := treeSum o e 3 k parts
  match t.2 with
  | none => (t.1, none)
  | some _ =>
    let c := comb o e t.1 (some old) t.2
    let v := encodeElem o e c.1 (c.2.getD old)
    (v.1, some v.2)

/-- RACC. -/
def execRacc (h : Hdr) (o : VRRRR) (s : State) : Res :=
  slotRun h s fun s =>
    let w := o.fmt.width
    let n := elemCount w
    let v := s.rdVector o
    let a := s.rdLatch o o.d
    let r := (List.range n).foldl (fun (p : Work × List (Nat × Nat)) e =>
      let q := raccElem o (a.getD e .nan) e ((List.range 8).map fun c => v.getD (c * n + e) none) p.1
      (q.1, match q.2 with | some b => p.2 ++ [(e, b)] | none => p.2)) (s.work, [])
    let val := vregOf w ((List.range n).map fun e => ((r.2.find? fun p => p.1 == e).map (·.2)).getD 0)
    s.rdEnd h 6 r.1 fun s => s.put h 6 (.a o.d.toNat val (coverMask w (r.2.map (·.1))))

/-- RSUM. -/
def execRsum (h : Hdr) (o : VRRRR) (s : State) : Res :=
  slotRun h s fun s =>
    let t := treeSum o 0 10 s.work (s.rdSource o)
    let r := match t.2 with
      | some v => encodeElem o 0 t.1 v
      | none => (t.1, 0)
    s.rdEnd h 9 r.1 fun s => s.put h 9 (.a o.d.toNat (BitVec.ofNat 1024 r.2) (BitVec.allOnes 128))

/-! ### RMAX, RMIN, RARGMAX (R171) -/

/-- The exact maximum or minimum of values: a NaN gives NaN, −0 < +0. -/
def pickBest (max : Bool) : List XV → Option XV
  | [] => none
  | v :: vs => match pickBest max vs with
    | none => some v
    | some u =>
      if v.isNaN || u.isNaN then some .nan
      else if (if max then v.totalLt u else u.totalLt v) then some u else some v

/-- The result of no element selected. -/
def pickNone (f : Fmt) (max : Bool) : XV := if f.isInt then .ofInt (if max then f.minInt else f.maxInt) else .inf max

/-- RMAX and RMIN. -/
def rdPick (h : Hdr) (o : VRRRR) (max : Bool) (s : State) : State :=
  let v := (pickBest max ((s.rdSource o).filterMap id)).getD (pickNone o.fmt max)
  let r := encodeElem o 0 s.work v
  s.put h 9 (.a o.d.toNat (BitVec.ofNat 1024 r.2) (BitVec.allOnes 128))

/-- RMAX. -/
def execRmax (h : Hdr) (o : VRRRR) (s : State) : Res := slotRun h s (rdPick h o true)

/-- RMIN. -/
def execRmin (h : Hdr) (o : VRRRR) (s : State) : Res := slotRun h s (rdPick h o false)

/-- The first of the greatest elements in the total order (R149); in integer order for integers. -/
def argMax (o : VRRRR) : List (Nat × XV) → Option (Nat × XV)
  | [] => none
  | p :: ps => match argMax o ps with
    | none => some p
    | some q => if totalLess (bit 1 o.sub.toNat) p.2 q.2 then some q else some p

/-- RARGMAX: index in bytes 0–3, the original bits in bytes 8–15. -/
def execRargmax (h : Hdr) (o : VRRRR) (s : State) : Res :=
  slotRun h s fun s =>
    let w := o.fmt.width
    let cells := ((s.rdSource o).mapIdx fun g v => (g, v)).filterMap fun p => p.2.map fun v => (p.1, v)
    let word := match argMax o cells with
      | none => 0xFFFFFFFF
      | some p =>
        let old := if bit 0 o.sub.toNat then elemOf (s.arch.areg o.x.toNat) w p.1 else s.arch.fullElem o.x w p.1
        p.1 + old * 2 ^ 64
    s.put h 9 (.a o.d.toNat (BitVec.ofNat 1024 word) (BitVec.allOnes 128))

/-! ### RSCAN and RSEG (R172) -/

/-- One element of a scan: its value, and whether a head stands at or before it within its reach. -/
abbrev ScanCell := Option XV × Bool

/-- One level of a scan at a distance: elements in descending order, each with the level's inputs. -/
def scanLevel (o : VRRRR) (seg : Bool) (dist : Nat) (l : List ScanCell) : List Nat → Work → Work × List (Nat × ScanCell)
  | [], k => (k, [])
  | g :: gs, k =>
    if g < dist then (k, [])
    else
      let here := l.getD g (none, false)
      let back := l.getD (g - dist) (none, false)
      let p := if seg && here.2 then (k, here.1) else comb o g k back.1 here.1
      let r := scanLevel o seg dist l gs p.1
      (r.1, (g, (p.2, if seg then here.2 || back.2 else here.2)) :: r.2)

/-- All levels of a scan. -/
def scanLevels (o : VRRRR) (seg : Bool) : Nat → Nat → Work → List ScanCell → Work × List ScanCell
  | 0, _, k, l => (k, l)
  | n + 1, dist, k, l =>
    if l.length ≤ dist then (k, l)
    else
      let r := scanLevel o seg dist l (List.range l.length).reverse k
      scanLevels o seg n (2 * dist) r.1 (r.2.foldl (fun l p => l.set p.1 p.2) l)

/-- The inclusive values: the carry-in enters in ascending order. -/
def scanCarry (o : VRRRR) (seg : Bool) (cin : XV) : Nat → Work → List ScanCell → Work × List XV
  | _, k, [] => (k, [])
  | g, k, c :: cs =>
    let p := if seg && c.2 then (k, c.1) else comb o g k (some cin) c.1
    let r := scanCarry o seg cin (g + 1) p.1 cs
    (r.1, p.2.getD cin :: r.2)

/-- RSCAN and RSEG. -/
def rdScan (h : Hdr) (o : VRRRR) (seg : Bool) (s : State) : State :=
  let w := o.fmt.width
  let n := elemCount w
  let all := List.range (8 * n)
  let head := fun g => s.arch.fullSel o.y.toNat w g
  let cells : List ScanCell := if seg then all.map fun g => (some (rdValue o (s.arch.fullElem o.x w g)), head g)
    else (s.rdVector o).map fun v => (v, false)
  let cin := rdValue o (elemOf (s.arch.areg o.z.toNat) w 0)
  let lv := scanLevels o seg 10 1 s.work cells
  let inc := scanCarry o seg cin 0 lv.1 lv.2
  let before := cin :: inc.2
  let out := if bit 0 o.sub.toNat then
      (before.take (8 * n)).mapIdx fun g v => if seg && head g then XV.fin false 0 1 0 else v
    else inc.2
  let vals := encodeAll o 0 inc.1 out
  let last := encodeElem o (8 * n - 1) vals.1 (inc.2.getLastD cin)
  s.rdEnd h 11 last.1 fun s =>
    let s := (List.range 8).foldl (fun s c =>
      s.put h 11 (.v c (physV s.arch.vrb o.d.toNat) (vregOf w ((vals.2.drop (c * n)).take n)) (BitVec.allOnes 128))) s
    s.put h 11 (.a o.z.toNat (BitVec.ofNat 1024 last.2) (coverMask w [0]))

/-- RSCAN. -/
def execRscan (h : Hdr) (o : VRRRR) (s : State) : Res := slotRun h s (rdScan h o false)

/-- RSEG. -/
def execRseg (h : Hdr) (o : VRRRR) (s : State) : Res := slotRun h s (rdScan h o true)

/-! ### RDRN, RCLR, RCMB (R173, R174) -/

/-- RDRN: conversions of the latch's elements, each with a draw under RND 100 where either format is a float one (R104);
equal formats copy the bits, and an element of them still takes its draw; the rest of the register is zero. -/
def execRdrn (h : Hdr) (o : VRRRR) (s : State) : Res :=
  slotRun h s fun s =>
    let src := cvtFrom o.z
    let n := elemCount (Nat.max src.width o.fmt.width)
    let a := s.arch.areg o.x.toNat
    let one := fun (p : Work × List Nat) i =>
      let b := elemOf a src.width i
      let d := if src.isFloat || o.fmt.isFloat then drawIf o.rnd p.1.seed else (p.1.seed, 0)
      let r : Rounded := if src = o.fmt then { bits := b } else convertElem src o.fmt o.rnd o.ovf o.ftz b d.2
      (p.1.note i d.1 r, p.2 ++ [r.bits])
    let r := (List.range n).foldl one (s.work, [])
    let cs := if bit 3 o.sub.toNat then List.range 8 else [o.sub.toNat % 8]
    s.rdEnd h 4 r.1 fun s => cs.foldl (fun s c =>
      s.put h 4 (.v c (physV s.arch.vrb o.d.toNat) (vregOf o.fmt.width r.2) (BitVec.allOnes 128))) s

/-- RCLR. -/
def execRclr (h : Hdr) (o : VRRRR) (s : State) : Res :=
  slotRun h s fun s => s.put h 1 (.a o.d.toNat 0 (BitVec.allOnes 128))

/-- RCMB: add, max or min of two latches, element by element. -/
def execRcmb (h : Hdr) (o : VRRRR) (s : State) : Res :=
  slotRun h s fun s =>
    let op := o.sub.toNat % 4
    let one := fun (p : Work × List Nat) (c : Nat × XV × XV) =>
      let v := if op = 0 then comb o c.1 p.1 (some c.2.1) (some c.2.2)
               else (p.1, pickBest (op == 1) [c.2.1, c.2.2])
      let e := encodeElem o c.1 v.1 (v.2.getD .nan)
      (e.1, p.2 ++ [e.2])
    let pairs := (s.rdLatch o o.x).zip (s.rdLatch o o.y)
    let r := (pairs.mapIdx fun i c => (i, c)).foldl one (s.work, [])
    s.rdEnd h 6 r.1 fun s => s.put h 6 (.a o.d.toNat (vregOf o.fmt.width r.2) (BitVec.allOnes 128))

end Sys2Proof.Machine
end

