-- ==== Sys2Proof/Machine/Exchange.lean ====
section
/-!
DEFINITION. XPOSE and XRED after their issue (09 R243–R245, 13 R355–R358): frames, arrivals, target granules, completion.
-/

namespace Sys2Proof.Machine

/-! ### Elements -/

/-- A collective's map; a map of no axes for XRED. -/
def Coll.stencil (x : Coll) : Stencil := readStencil (x.map.getD [])

/-- Element size. -/
def Coll.esz (x : Coll) : Nat := if x.map.isSome then x.stencil.esz else (xredFmt x.ty).width / 8

/-- Insertion by ascending target offset. -/
def insertMove (x : Nat × Nat) : List (Nat × Nat) → List (Nat × Nat)
  | [] => [x]
  | y :: ys => if x.2 < y.2 then x :: y :: ys else y :: insertMove x ys

/-- The elements that source rank r sends to target rank q, as source and target offsets, ascending in target offset
(R358). Every participant of an XRED sends all its elements to every other one (log 30). -/
def Coll.elements (x : Coll) (r q : Nat) : List (Nat × Nat) :=
  if x.map.isSome then
    ((x.stencil.moves.filter fun v => v.1.1 == r && v.2.1 == q).map fun v => (v.1.2, v.2.2)).foldr insertMove []
  else (List.range (x.len / x.esz)).map fun i => (x.esz * i, x.esz * i)

/-- The elements of frame f. -/
def frameSlice (esz f : Nat) (l : List (Nat × Nat)) : List (Nat × Nat) :=
  (l.drop (f * frameElems esz)).take (frameElems esz)

/-- The aligned 64-byte granules of the target that elements address. -/
def Coll.targets (x : Coll) (npart : Nat) : List Nat :=
  let ranks := if x.map.isSome then List.range npart else [0]
  ((ranks.flatMap fun r => (x.elements r x.rank).flatMap fun v =>
    [(x.dst + v.2) / 64 * 64, (x.dst + v.2 + x.esz - 1) / 64 * 64]).eraseDups).mergeSort (· ≤ ·)

/-! ### Start (R243, R358) -/

/-- The exchange record of a collective. -/
def State.collRecord (s : State) (x : Coll) : Option Xch :=
  match s.gang? x.gang with
  | none => none
  | some g => (xchRecords (s.timetable g)).find? fun e => e.xch == x.xch

/-- The die of a participant of an exchange (R295, R345). -/
def State.rankDie (s : State) (x : Coll) (q : Nat) : Nat :=
  if q = x.rank then x.die
  else ((s.collRecord x).bind fun e => (s.gang? x.gang).bind fun g => g.places.find? fun p => p.1 == e.parts.getD q 0).elim x.die (·.2)

/-- A data frame of an exchange from a participant to another one, or to itself. -/
def State.exchangeFrame (s : State) (x : Coll) (q pkg num at_ : Nat) (data : List Byte) : Frame :=
  { kind := FrameKind.exchange, hop := 0, srcPkg := s.pkg.toNat, srcDie := x.die, dstPkg := pkg, dstDie := s.rankDie x q, chan := 0,
    seq := x.xch + num * 2 ^ 16, addr := 0, gang := x.gang, op := at_, data := data }

/-- The aligned 64-byte granules of the source that elements occupy. -/
def Coll.sources (x : Coll) (l : List (Nat × Nat)) : List Nat :=
  (l.flatMap fun v => [(x.src + v.1) / 64 * 64, (x.src + v.1 + x.esz - 1) / 64 * 64]).eraseDups

/-- A source granule is read whole as it stands, once, unless it has been read before: one value, of the issue step or written
since (R243, R280). -/
def State.readSource (s : State) (id a : Nat) : State :=
  match s.colls.find? fun x => x.req == id with
  | none => s
  | some x =>
    if (s.ctx x.die x.ctx).run = .stopped ∨ x.source.any fun p => p.1 == a then s
    else
      let bs := Mem.bytes (s.die x.die).bank a 64
      { s with colls := s.colls.map fun (y : Coll) => if y.req = id then { y with source := y.source ++ [(a, bs)] } else y }

/-- A byte of the source as its granule was read. -/
def Coll.sourceByte (x : Coll) (a : Nat) : Byte :=
  match x.source.find? fun p => p.1 == a / 64 * 64 with
  | some p => p.2.getD (a % 64) 0
  | none => 0

/-- The bytes of elements as their granules were read. -/
def Coll.gather (x : Coll) (l : List (Nat × Nat)) : List Byte :=
  l.flatMap fun v => (List.range x.esz).map fun i => x.sourceByte (x.src + v.1 + i)

/-- A frame is complete: granules that have not been read are read now. A participant that has stopped sends no more
(R315). -/
def State.shareFrame (s : State) (id q num pkg at_ : Nat) : Option Frame × State :=
  match s.colls.find? fun x => x.req == id with
  | none => (none, s)
  | some x =>
    if (s.ctx x.die x.ctx).run = .stopped then (none, s)
    else
      let l := frameSlice x.esz num (x.elements x.rank q)
      let s := (x.sources l).foldl (fun s a => s.readSource id a) s
      (some (s.exchangeFrame x q pkg num at_ (((s.colls.find? fun y => y.req == id).getD x).gather l)), s)

/-- A frame of a participant's own elements arrives through the die's own bank ports. -/
def State.shareOwn (s : State) (id q num at_ : Nat) : State :=
  match s.shareFrame id q num s.pkg.toNat at_ with
  | (some f, s) => s.soon (.ev (.exchangeFrameArrival f))
  | (none, s) => s

/-- The frames toward one target rank wait on the identities of their entries for the slots that carry them, the first of
which is two after that of the issue step (R346, R358). -/
def State.sendExchange (s : State) (x : Coll) (g : Gang) (parts : List Nat) (q slot : Nat) (es : List (LanEntry × Nat × Nat)) : State :=
  (es.mapIdx fun i e => (i, e)).foldl (fun s p =>
    let (job, s) := s.fresh
    let pkg := s.memberPkg g (parts.getD q 0)
    let n := 1 + ceilDiv (x.esz * (frameSlice x.esz p.1 (x.elements x.rank q)).length) 64
    s.queueFlits p.2.1.lan (txFlits
      { job := job, timed := true, peer := pkg, run := some (g.id, p.2.1.ix), any := false, from_ := g.gbase + 64 * slot, left := 64,
        seq := none, coll := some x.req, tail := none } n (.share x.req q p.1 (g.gbase + p.2.2.2) pkg))) s

/-- The frames that a participant awaits from the others: rank, number, and the gang step at which each can be taken, which the
sender's entries fix (R347). -/
def State.awaited (s : State) (x : Coll) (g : Gang) (e : Xch) (t : Nat) : List (Nat × Nat × Nat) :=
  let tt := s.timetable g
  ((List.range e.npart).filter (· != x.rank)).flatMap fun r =>
    match carryAll tt g.phase (e.parts.getD r 0) s.pkg.toNat (e.xch + 1) t [] (frameFlits x.esz (x.elements r x.rank).length) with
    | some c => c.2.mapIdx fun i w => (r, i, w.2.2)
    | none => []

/-- Each source granule is read at a free count from the issue on: as it stood at issue, or as written since (R243). -/
def State.readSources (s : State) (id dur : Nat) (as : List Nat) : State :=
  as.foldl (fun s a =>
    let (n, s) := s.freeBelow (dur + 1)
    if n = 0 then s.readSource id a else s.scheduleBel (s.bel + n) phStart (.source id a)) s

/-- Bytes that the source of a collective spans. -/
def Coll.span (x : Coll) : Nat := if x.map.isSome then x.stencil.extent x.stencil.src else x.len

/-- A collective starts at the end of its issue step: its promise, its target granules, its frames; the participant's own
elements arrive at a free count up to PSTEP. Its source buffer is joined (R280). -/
def State.beginExchange (s : State) (d c k rank src dst len : Nat) (map : Option (List Byte)) (op ty : Nat) (r : Req) : State :=
  match s.gangOf d c with
  | none => s
  | some g =>
    match (xchRecords (s.timetable g)).find? fun e => e.xch == k with
    | none => s
    | some rec_ =>
      let (id, s) := s.fresh
      let x : Coll := { req := id, die := d, ctx := c, gang := g.id, xch := k, rank := rank, src := src, dst := dst, len := len,
                        map := map, op := op, ty := ty, pstep := s.bel + rec_.dur, source := [], recv := [] }
      let (s, grans, served) := ((x.targets rec_.npart).mapIdx fun i a => (i, a)).foldl
        (fun (acc : State × List Gran × List (Nat × Nat)) p =>
          let (s, key, hit) := acc.1.openStage d c .coll p.2 64 r.cls
          let gr : Gran := { k := p.1, bank := p.2, addr := p.2, slot := none, due := x.pstep, data := hit.map (·.1), stage := key,
                             done := false, served := hit.isSome }
          (s, acc.2.1 ++ [gr], match hit with | some h => acc.2.2 ++ [(p.1, h.2)] | none => acc.2.2)) (s, [], [])
      let s := s.putReq d c { r with id := id, issued := s.bel, step := (s.ctx d c).steps, pstep := x.pstep, grans := grans,
                                     gstep := (s.belfry - (s.ctx d c).arch.gbase).toNat }
      let s := served.foldl (fun s p => s.modArch d c fun a =>
        { a with landing := a.landing ++ [replayLanding (.replayGran id p.1) p.2 0] }) s
      let s := { s with colls := s.colls ++ [x] }
      let s := s.modCtx d c fun y =>
        { y with unjoined := y.unjoined.filter fun u => !(x.src < u.addr + 4 && u.addr < x.src + x.span) }
      let s := s.readSources id rec_.dur (x.sources ((List.range rec_.npart).flatMap fun q => x.elements rank q))
      let gs := (s.belfry - BitVec.ofNat 64 g.gbase).toNat
      let flits := exchangeFlits rec_ x.esz rank fun q => (x.elements rank q).length
      let s : State := match s.exchangeCarry g (s.ctx d c).member rec_ gs g.carried flits with
        | none => s
        | some (used, ways) =>
          let s := s.modGang g.id fun y => { y with carried := used }
          ways.foldl (fun (s : State) (w : Nat × List (LanEntry × Nat × Nat)) => s.sendExchange x g rec_.parts w.1 (gs / 64 + 2) w.2) s
      let s := (s.awaited x g rec_ gs).foldl (fun (s : State) (w : Nat × Nat × Nat) =>
        if g.gbase + w.2.2 ≤ x.pstep then s.scheduleBel (g.gbase + w.2.2) phHbm (.frameStep id w.1 w.2.1) else s) s
      let (j, s) := s.freeBelow rec_.dur
      let s := (List.range (ceilDiv (x.elements rank rank).length (frameElems x.esz))).foldl (fun s i =>
        s.scheduleBel (s.bel + 1 + j) phStart (.share id rank i (s.bel + 1 + j))) s
      s.scheduleBel x.pstep phPromise (.ev (.collectiveComplete d c id))

/-! ### Arrivals (R358) -/

/-- A frame number of a rank has been received. -/
def Coll.has (x : Coll) (r f : Nat) : Bool := x.recv.any fun p => p.1 == r && p.2.1 == f

/-- A frame of a rank can be taken at a count. -/
def Coll.ready (x : Coll) (r f count : Nat) : Bool := x.recv.any fun p => p.1 == r && p.2.1 == f && p.2.2.1 ≤ count

/-- The bytes of an element from a rank that have arrived by a count. -/
def Coll.arrived (x : Coll) (count r i : Nat) : Option (List Byte) :=
  let per := frameElems x.esz
  match x.recv.find? fun p => p.1 == r && p.2.1 == i / per && p.2.2.1 ≤ count with
  | some p => some ((p.2.2.2.drop (x.esz * (i % per))).take x.esz)
  | none => none

/-- The values of one element of an XRED combined over the ranks (R244). -/
def redElem (f : Fmt) (op : Nat) (vs : List Nat) : Nat :=
  let xs := vs.map (elemValue f false)
  match op with
  | 0 =>
    let o : VRRRR := { (default : VRRRR) with fmt := f, ovf := .inf }
    let k : Work := { seed := 0, flags := 0, trap := none }
    let t := treeSum o 0 (vs.length + 1) k (xs.map some)
    (encodeElem o 0 t.1 (t.2.getD (.fin false 0 1 0))).2
  | _ => (roundElem f ((pickBest (op == 1) xs).getD .nan) .ne .inf false 0).bits

/-- The placed bytes of an element of the target from one rank, or of an XRED from all ranks; none where one has not
arrived. -/
def Coll.placed (x : Coll) (npart count i r : Nat) (v : Nat × Nat) : Option (List (Nat × Byte)) :=
  if x.map.isSome then (x.arrived count r i).map fun b => placeBytes (x.dst + v.2) b
  else
    let parts := (List.range npart).map fun q => x.arrived count q i
    if parts.any Option.isNone then none
    else some (placeBytes (x.dst + v.2) (bytesOfNat x.esz (redElem (xredFmt x.ty) x.op (parts.map fun b => natOfBytes (b.getD [])))))

/-- The bytes of a target granule, once every element that touches it has arrived by a count. -/
def Coll.granule (x : Coll) (npart count a : Nat) : Option (List (Nat × Byte)) :=
  let ranks := if x.map.isSome then List.range npart else [0]
  let parts := ranks.flatMap fun r =>
    ((x.elements r x.rank).mapIdx fun i v => (i, v)).filterMap fun p =>
      let lo := x.dst + p.2.2
      if lo < a + 64 ∧ a < lo + x.esz then some (x.placed npart count p.1 r p.2) else none
  if parts.any Option.isNone then none
  else some ((parts.flatMap fun b => b.getD []).filter fun b => a ≤ b.1 && b.1 < a + 64)

/-- The target granules of a collective all of whose elements can be taken by now land at the end of the count. -/
def State.landReady (s : State) (x : Coll) (npart : Nat) : State :=
  let grans : List Gran := (((s.ctx x.die x.ctx).req? x.req).map (·.grans)).getD []
  (grans.filter fun a => !a.done && a.data.isNone && (x.granule npart s.bel a.bank).isSome).foldl (fun s a =>
    s.schedule s.now phEdge (.ev (.collectiveGranuleLand x.die x.ctx x.req a.k))) s

/-- A frame from a rank has come whole: it is held against the staging share of its receiver (R242), can be taken from its arrival
count on, and brings no second copy (R241). -/
def State.holdShare (s : State) (x : Coll) (g : Gang) (npart r num : Nat) (f : Frame) : State :=
  if r ≠ x.rank ∧ shareOf (s.timetable g) (s.ctx x.die x.ctx).prog < s.stagedBytes x.die x.gang + f.data.length then
    s.takeOne x.die x.ctx Cause.stagingOverflow (Config.pairInfo f.srcDie f.chan) 0
  else
    let y := { x with recv := x.recv ++ [(r, num, max f.op s.bel, f.data)] }
    let s := { s with colls := s.colls.map fun (z : Coll) => if z.req = x.req then y else z }
    if s.bel < f.op then s.scheduleBel f.op phStart (.ev (.exchangeFrameArrival { f with port := none })) else s.landReady y npart

/-- EXCHANGE_FRAME_ARRIVAL (R347, R358): a frame of an exchange is complete at its receiver, or its arrival count has come: a target
granule whose last element it brings lands at the end of that count. -/
def execExchangeFrameArrival (f : Frame) (s : State) : Res :=
  match s.colls.find? fun x => x.gang == f.gang && x.xch == f.seq % 2 ^ 16 with
  | none => .next s
  | some x =>
    match s.collRecord x, s.gang? x.gang with
    | some e, some g =>
      let r := (e.parts.findIdx? fun m => s.memberPkg g m == f.srcPkg).getD x.rank
      let num := f.seq / 2 ^ 16
      .next (if x.has r num then s.landReady x e.npart else s.holdShare x g e.npart r num f)
    | _, _ => .next s

/-- The arrival count of a frame of a collective: it is there, or it is late (R245). -/
def State.frameStep (s : State) (id r num : Nat) : State :=
  match s.colls.find? fun x => x.req == id with
  | none => s
  | some x =>
    if x.ready r num s.bel || (s.ctx x.die x.ctx).run != .running then s
    else s.takeOne x.die x.ctx Cause.lateArrival (Config.pairInfo 8 0) 15

/-- A granule of a collective is done. -/
def State.collDone (s : State) (d c id k : Nat) : State := s.modGran d c id k fun g => { g with done := true }

/-- COLLECTIVE_GRANULE_LAND (R358): the granule lands whole, with its before-image, and enters the staging (R313). -/
def execCollectiveGranuleLand (d c id k : Nat) (s : State) : Res :=
  let x := s.ctx d c
  match x.req? id, s.colls.find? fun y => y.req == id with
  | some r, some y =>
    match r.gran? k, s.collRecord y with
    | some g, some e =>
      if g.done || x.run == .stopped then .next s
      else match y.granule e.npart s.bel g.bank with
        | none => .next s
        | some bs =>
          let v := (bs.map fun b => b.2.toNat * 256 ^ (b.1 - g.bank)).sum
          let s := s.fillStage d c g.stage v (x.stepsBefore r.step)
          let s := s.noteLines d c r.cls r.gstep 0 [g.bank / 64]
          let s := s.modDie d fun z => z.writeBank (some c) none bs
          .next (s.collDone d c id k)
    | _, _ => .next s
  | _, _ => .next s

/-- The bytes of a target granule that elements address. -/
def Coll.covered (x : Coll) (npart a : Nat) : List Nat :=
  let ranks := if x.map.isSome then List.range npart else [0]
  (ranks.flatMap fun r => (x.elements r x.rank).flatMap fun v =>
    ((List.range x.esz).map fun i => x.dst + v.2 + i).filter fun b => a ≤ b && b < a + 64).eraseDups

/-- A granule of a collective that the staging serves lands with its step (R313). -/
def State.landReplayedColl (s : State) (d c id k : Nat) : State :=
  match (s.ctx d c).req? id, s.colls.find? fun y => y.req == id with
  | some r, some y =>
    match r.gran? k, s.collRecord y with
    | some g, some e =>
      let v := g.data.getD 0
      let bs := (y.covered e.npart g.bank).map fun a => (a, BitVec.ofNat 8 (v >>> (8 * (a - g.bank))))
      let s := s.noteLines d c r.cls r.gstep 0 [g.bank / 64]
      (s.modDie d fun z => z.writeBank (some c) none bs).collDone d c id k
    | _, _ => s
  | _, _ => s

/-- What an identity still has to send of a collective is read: it is over. -/
def State.settleOn (s : State) (id i : Nat) : State :=
  let r := (s.lantern i).txq.foldl (fun (acc : State × List TxFlit) x =>
    if x.coll ≠ some id then (acc.1, acc.2 ++ [x])
    else match x.tail with
      | some (.share q n num at_ pkg) =>
        let p := acc.1.shareFrame q n num pkg at_
        (p.2, acc.2 ++ [{ x with coll := none, tail := p.1.map .frame }])
      | _ => (acc.1, acc.2 ++ [{ x with coll := none }])) (s, [])
  r.1.modLantern i fun l => { l with txq := r.2 }

/-- The frames that a collective still has to send are read from its source. -/
def State.settleShares (s : State) (id : Nat) : State :=
  (List.range 14).foldl (fun s i => if (s.lantern i).txq.any fun x => x.coll == some id then s.settleOn id i else s) s

/-- COLLECTIVE_COMPLETE (R245, R358): DONE where every target granule has landed; else the late-arrival trap is raised at
the first bundle after PSTEP. -/
def execCollectiveComplete (d c id : Nat) (s : State) : Res :=
  match (s.ctx d c).req? id with
  | none => .next s
  | some r =>
    let s := s.settleShares id
    let s' := { s with colls := s.colls.filter fun y => y.req != id }
    if (s.ctx d c).run = .stopped then .next s'
    else if r.grans.all (·.done) then .next ((s'.modReq d c id fun r => { r with landed := true }).reqDone d c id)
    else .next (s'.reqPoison d c id Cause.lateArrival (Config.pairInfo 8 0))

end Sys2Proof.Machine
end

