-- ==== Sys2Proof/Machine/Release.lean ====
section
/-!
DEFINITION. The release of a region's deferred writes, their performance at their homes, arrivals at barriers (R133, R197,
R235, R253, R262, R273, R281), and the end of a region (R309 steps 1 and 2, R135).
-/

namespace Sys2Proof.Machine

/-! ### What a context has released and what has not performed (R131, R253, R281) -/

/-- The home of an element of an indexed push. -/
def State.elemHome (s : State) (d c : Nat) (q : AqEntry) (g : Nat) : Option Home :=
  match q.hit? g with
  | some a => some (.bank d a)
  | none =>
    if q.tk = 1 then
      if rowModule q.base = s.pkg.toNat then some (.stack 0 0) else some (.remote (rowModule q.base) 0)
    else s.homeFor d c (q.addrOf g)

/-- An access lies within a scope; one whose home is not known lies in every scope. -/
def homeIn (h : Option Home) (d : Nat) (sc : Scope) : Bool :=
  match h with
  | none => true
  | some h => h.inScope d sc

/-- The home of a released write. -/
def State.pendingHome (s : State) (p : Pending) : Option Home :=
  match p.home, p.write, p.arrival, p.scat with
  | some h, _, _, _ => some h
  | none, some w, _, _ => s.homeFor p.die p.ctx w.addr
  | none, none, some a, _ => s.homeFor p.die p.ctx a.addr.toNat
  | none, none, none, e :: _ => s.homeFor p.die p.ctx e.addr
  | none, none, none, [] => none

/-- The operand queue that a context pushes into: entries that are still on their way (R278). -/
def State.pushesOut (s : State) (d c : Nat) : List OqEntry :=
  if d < 4 then (s.ctx (pairOf d) c).arch.oq.filter fun e => !e.poppable else []

/-- A translated atomic that has not performed at its home. -/
def Ctx.atomicOut (x : Ctx) (r : Req) : Bool :=
  r.logIx.isSome && !r.ended && !(x.sentAtomics.any fun q => q.id == r.id && (q.value.isSome || q.poison.isSome))

/-- An access that set a promise has not performed; a deferred write counts once it is released. -/
def Ctx.reqOut (x : Ctx) (r : Req) : Bool :=
  match r.kind with
  | .enqueue => false
  | .atomic .. => if bit 63 r.addr.toNat then !r.ended else x.atomicOut r
  | .claim .. => x.atomicOut r
  | _ => !r.ended

/-- An access that set a promise reaches a home within a scope: its context's own bank, or where its address leads. -/
def State.reqIn (s : State) (d c : Nat) (r : Req) (sc : Scope) : Bool :=
  match r.kind with
  | .ldh .. | .atomic .. | .claim .. => homeIn (s.homeFor d c r.addr.toNat) d sc
  | _ => true

/-- Identifiers of what a context has released and what has not performed, with homes within a scope: accesses that set a promise,
released writes, indexed reads, frames still read from its bank, frames still landing in it, operands still in their channel. The
arrivals of an EXIT group are the last of everything (R133). -/
def State.outstanding (s : State) (d c : Nat) (sc : Scope) : List Nat :=
  let x := s.ctx d c
  ((x.reqs.filter fun r => x.reqOut r && s.reqIn d c r sc).map (·.id)) ++
  ((s.pendings.filter fun p => p.die == d && p.ctx == c && !p.exit && homeIn (s.pendingHome p) d sc).map (·.id)) ++
  ((x.arch.dq.filter fun e => e.waiting.any fun g => homeIn (s.elemHome d c e.src g) d sc).map (·.id)) ++
  ((s.sends.filter fun y => y.fromDie == d && y.fromCtx == c && y.data.length < y.n).map (·.id)) ++
  x.takes.map (·.1) ++
  (if homeIn (some (.bank (pairOf d) 0)) d sc then (s.pushesOut d c).map (·.id) else [])

/-- An access has not performed yet. -/
def State.isOut (s : State) (d c id : Nat) : Bool :=
  s.pendings.any (fun p => p.id == id) ||
  (s.ctx d c).arch.dq.any (fun e => e.id == id && !e.waiting.isEmpty) ||
  s.sends.any (fun y => y.id == id && y.data.length < y.n) ||
  (s.ctx d c).takes.any (fun t => t.1 == id) ||
  (s.pushesOut d c).any (fun e => e.id == id) ||
  (s.ctx d c).reqs.any fun r => r.id == id && (s.ctx d c).reqOut r

/-- A landing that writes the bank wall. -/
def Landing.isBank (l : Landing) : Bool := match l.act with | .bank _ _ => true | _ => false

/-- What names a queue: its index and kind. -/
def Queue.key (y : Queue) : Nat := 2 * y.ix + b2n y.launch

/-- A copy posted by CQPOST has not written its completion record; of a queue on another module this is a free choice in
each count. -/
def State.copyOpen (s : State) (h : Home) (ix : Nat) : Bool :=
  match s.readHome h 64 with
  | .ok hd =>
    bits 143 136 hd == 0 &&
      (bits 127 64 hd ≤ ix || s.copies.any fun c => c.rix == ix && s.queues.any fun q => q.key == c.queue &&
        (s.reachPort q.asid q.header true false).toOption.any fun g => s.samePlace g h)
  | .error _ => match h with
    | .remote _ _ => Config.freeBool s.free
    | _ => false

/-- The copies that a context has posted in regions that have committed, and that are under way (Table 10-2: scopes pkg and dom
take in the copy engines). -/
def State.openCopies (s : State) (d c : Nat) (sc : Scope) : List (Home × Nat) :=
  if sc = .pkg ∨ sc = .dom then
    ((s.ctx d c).posted.filter fun p => p.2.2 && s.copyOpen p.1 p.2.1).map fun p => (p.1, p.2.1)
  else []

/-! ### Release (R133) -/

/-- A released access enters the package's list; its performance is due at a free later count, or at the landing count of
its burst. -/
def State.addPending (s : State) (p : Pending) : State :=
  let (id, s) := s.fresh
  let s := { s with pendings := s.pendings ++ [{ p with id := id }] }
  let ev : Instr := match p.arrival with
    | some _ => .barrierArrivalUpdate id
    | none => .deferredWritePerform id
  match p.slot with
  | some _ => s.scheduleBel p.due phEdge (.ev ev)
  | none =>
    let (k, s) := (Config.freeNat s.free, { s with free := s.free + 1 })
    s.schedule (s.now + 1 + k) phEdge (.ev ev)

/-- A pending access of a context with nothing in it yet. -/
def State.pendingOf (s : State) (d c : Nat) (after : List Nat) : Pending :=
  { (default : Pending) with die := d, ctx := c, gang := (s.ctx d c).gang, asid := (s.ctx d c).asid, after := after }

/-- The stack place of a translated address by a die's pin table (R329). -/
def State.pinPlace (s : State) (d asid va : Nat) : Option (Nat × Nat) :=
  match (s.die d).pins.find? fun p => p.2.asid == asid && va / p.2.size * p.2.size == p.2.page with
  | some p => some (bits 38 36 (p.2.out + va % p.2.size), bits 35 0 (p.2.out + va % p.2.size))
  | none => none

/-- Writes with their stack places, cut into ranges of consecutive granules. -/
def rangesOf : List (DefWrite × Nat × Nat) → List (List (DefWrite × Nat × Nat))
  | [] => []
  | w :: ws =>
    match rangesOf ws with
    | (v :: r) :: rs => if v.2.1 = w.2.1 ∧ v.2.2 = w.2.2 + 64 then (w :: v :: r) :: rs else [w] :: (v :: r) :: rs
    | rs => [w] :: rs

/-- A released TDMA range joins its stack's slot queue as if it were a TDMA issued now (R235). -/
def State.releaseRange (s : State) (d c : Nat) (r : List (DefWrite × Nat × Nat)) : State :=
  match r with
  | [] => s
  | (_, n, off) :: _ =>
    let bursts := s.burstsFor d c n off r.length s.bel
    let pairs := s.pairsOf d c
    let s := s.takeBursts d bursts
    (r.mapIdx fun i w => (w, bursts[i]?)).foldl (fun s p =>
      s.addPending { s.pendingOf d c [] with write := some p.1.1, home := some (.stack n p.1.2.2), slot := p.2,
                                             due := (p.2.map (burstDue d pairs)).getD 0 }) s

/-- The released window of a translated scatter region: one update for each cell, after every earlier window of the
region (R197, R198). -/
def State.releaseWindow (s : State) (d c : Nat) (w : List ScatElem) : State :=
  match w with
  | [] => s
  | e :: _ =>
    let before := (s.pendings.filter fun p => p.die == d && p.ctx == c &&
      match p.scat with | f :: _ => f.region == e.region | [] => false).map (·.id)
    (cellsOf w).foldl (fun s es => s.addPending { s.pendingOf d c before with scat := es }) s

/-- The written bytes of two granules at one home share an aligned 8-byte word. -/
def wordsMeet (a b : BitVec 64) : Bool :=
  (List.range 8).any fun i => bits 7 0 (a.toNat / 2 ^ (8 * i)) != 0 && bits 7 0 (b.toNat / 2 ^ (8 * i)) != 0

/-- What an STH to a granule follows: its context's released STHs to one of the words (R271), and the atomics of its region on the
granule (R123, R273). -/
def State.beforeStore (s : State) (d c : Nat) (w : DefWrite) : List Nat :=
  if w.sth then
    match s.homeFor d c w.addr with
    | some h =>
      ((s.pendings.filter fun p => (s.storeAt d c p).any fun q => s.sameBlock 64 q.2 h && wordsMeet q.1.mask w.mask).map (·.id)) ++
      (((s.ctx d c).reqs.filter fun r => (s.ctx d c).atomicOut r && r.addr.toNat / 64 == w.addr / 64).map (·.id))
    | none => []
  else []

/-- What a release orders before an access of it within a scope: the context's accesses released earlier, its bank writes still to
land, the copies under way. Accesses of the group itself come before a release at the end of its step (EXIT, a handler), not before
one at its start (a checkpoint group). -/
def State.pendingAfter (s : State) (d c : Nat) (sc : Scope) : Pending :=
  let x := s.ctx d c
  { s.pendingOf d c (s.outstanding d c sc) with writes := some (x.steps + b2n x.stepped), copies := s.openCopies d c sc }

/-- The release of a context's deferred writes. A packet that CQPOST wrote performs after every access released earlier and
joins the views (R281); an arrival performs after every other write of its region and every earlier access within its scope
(R253); one of an exited context waits for what its last group still defers (`Pending.exit`). -/
def State.release (s : State) (d c : Nat) : State :=
  let x := s.ctx d c
  let first := s.nextId
  let all := (mergeAll x.deferred).map fun w => (w, s.beforeStore d c w)
  let post := { s.pendingAfter d c .dom with copies := [] }
  let arrivals := x.arrivals.map fun a => (a, { s.pendingAfter d c a.scope with exit := x.run == Run.exited })
  let s := s.modCtx d c fun x => { x with deferred := [], arrivals := [], deferScat := [],
                                          unjoined := if x.deferred.any (·.cq) then [] else x.unjoined }
  let s := (all.filter fun w => !w.1.tdma).foldl (fun s w =>
    s.addPending (if w.1.cq then { post with write := some w.1, after := post.after ++ w.2 }
      else { s.pendingOf d c w.2 with write := some w.1 })) s
  let placed := (all.filter (·.1.tdma)).filterMap fun w => (s.pinPlace d x.asid w.1.addr).map fun p => (w.1, p.1, p.2)
  let s := (rangesOf placed).foldl (fun s r => s.releaseRange d c r) s
  let s := x.deferScat.foldl (fun s w => s.releaseWindow d c w) s
  let mine := (s.pendings.filter fun p => first ≤ p.id && p.die == d && p.ctx == c).map (·.id)
  arrivals.foldl (fun s a => s.addPending { a.2 with arrival := some a.1, after := a.2.after ++ mine }) s

/-! ### Performance (R262) -/

/-- A fault met on the rings of a queue stops it (R286); one met by a copy ends the copy (R250). -/
def State.queueFault (s : State) (p : Pending) (q code : Nat) : State :=
  let status := if code = Cause.remotePath then 3 else 2
  let copying := s.copies.any fun y => y.queue == q && y.stage < 2
  let s := { s with pendings := s.pendings.filter fun (y : Pending) => y.id != p.id }
  if copying then
    let s := { s with copies := s.copies.map fun (y : Copy) =>
      if y.queue = q then
        { y with stage := 1, status := status, cause := if status = 2 then code else 0,
                 performed := if p.write.isSome then y.performed - 1 else y.performed }
      else y }
    s.soon (.ev (.copyComplete q))
  else if p.arrival.isSome then { s with agenda := p.note ++ s.agenda }
  else { s with queues := s.queues.map fun (y : Queue) => if y.key = q then { y with stopped := true } else y,
                agenda := (p.note.filter fun m => match m with | .vector _ => false | _ => true) ++ s.agenda }

/-- The DRAIN class of a fault at a home (Table 5-5). -/
def faultClass (p : Pending) (h : Option Home) : Nat :=
  if !p.scat.isEmpty then 5 else match h with | some (.remote _ _) => 3 | _ => 1

/-- The slot class of the instruction that a pending access came from. -/
def Pending.slotCls (p : Pending) : Nat :=
  match p.write with
  | some w => w.cls
  | none => if p.scat.isEmpty then 15 else 11

/-- A fault of a released access: the context's next covering FENCE or DRAIN raises it (R237, R252, R330); after the
member's exit it aborts the gang (R135). -/
def State.pendingFault (s : State) (p : Pending) (h : Option Home) (code info : Nat) : State :=
  match p.queue with
  | some q => s.queueFault p q code
  | none =>
  let s := s.performed p.id
  let x := s.ctx p.die p.ctx
  let t : Trap := { code := code, info := info, cls := p.slotCls, clus := none }
  if x.gang ≠ p.gang ∨ x.run = .absent then s
  else if x.run = .exited then s.takeTrap p.die p.ctx [t]
  else s.modCtx p.die p.ctx fun x => { x with fenceFaults := x.fenceFaults ++ [(faultClass p h, t)] }

/-- A context that has exited still defers writes, or has deferred writes released that have not performed; arrivals apart (R133,
R253). -/
def State.writesLeft (s : State) (p : Pending) : Bool :=
  let x := s.ctx p.die p.ctx
  (s.pendings.any fun q => q.die == p.die && q.ctx == p.ctx && q.gang == p.gang && q.arrival.isNone) ||
  (x.gang == p.gang && (!x.deferred.isEmpty || !x.deferScat.isEmpty || !x.arch.scatIdle ||
    x.reqs.any fun r => match r.kind with
      | .claim .. => !r.ended
      | _ => false))

/-- A pending access waits for what must perform first. -/
def State.blockedPending (s : State) (p : Pending) : Bool :=
  (p.exit && s.writesLeft p) || (p.after.any fun id => s.isOut p.die p.ctx id) ||
  (match p.writes with
    | some n => (s.ctx p.die p.ctx).gang == p.gang && (s.ctx p.die p.ctx).arch.landing.any fun l => l.isBank && l.born < n
    | none => false) ||
  p.copies.any fun k => s.copyOpen k.1 k.2

/-- It is tried again at a free later count. -/
def State.retryPending (s : State) (ev : Instr) : State :=
  let (k, s) := (Config.freeNat s.free, { s with free := s.free + 1 })
  s.schedule (s.now + 1 + k) phEdge (.ev ev)

/-- A request has been sent for a pending access. -/
def State.pendingSent (s : State) (id : Nat) (h : Home) : State :=
  { s with pendings := s.pendings.map fun (p : Pending) => if p.id = id then { p with sent := true, home := some h } else p }

/-- The maximal runs of the masked bytes of a granule, as offset and bytes. -/
def maskRuns (data : BitVec 512) (mask : BitVec 64) : List (Nat × List Byte) :=
  (List.range 64).foldr (fun i rs =>
    if mask.getLsbD i then
      let b : Byte := data.extractLsb' (8 * i) 8
      match rs with
      | (o, bs) :: r => if o = i + 1 then (i, b :: bs) :: r else (i, [b]) :: (o, bs) :: r
      | [] => [(i, [b])]
    else rs) []

/-- An atomic request toward the host (R327). -/
def State.hostAtomic (s : State) (who : Awaits) (addr op size y z : Nat) : State :=
  let (id, s) := s.fresh
  { s with elastic := s.elastic ++ [({ id := id, who := who, pkg := 0, host := true, sent := s.bel, via := none } : Elastic)],
           hostOut := s.hostOut ++ [.atomic id addr op size y z] }

/-- A granule of the RST that w is a granule of, still to be sent. -/
def State.joinsFrame (s : State) (p : Pending) (w : DefWrite) (q : Pending) : Option (Nat × DefWrite) :=
  match q.write with
  | some v =>
    if q.die = p.die ∧ q.ctx = p.ctx ∧ q.gang = p.gang ∧ q.sent = false ∧ v.rst = w.rst ∧ v.mask = BitVec.allOnes 64 ∧
        s.blockedPending q = false then some (q.id, v) else none
  | none => none

/-- The granules from an address up that go to consecutive domain addresses of one package. -/
def State.frameRun (s : State) (p : Pending) (qs : List (Nat × DefWrite)) (pkg va x : Nat) : Nat → State × List (Nat × DefWrite)
  | 0 => (s, [])
  | n + 1 =>
    match qs.find? fun q => q.2.addr == va with
    | none => (s, [])
    | some q =>
      match s.reach p.die (some p.ctx) p.asid va false true with
      | (t, .ok (.remote k y)) =>
        if k = pkg ∧ y = x then
          let r := t.frameRun p qs pkg (va + 64) (x + 64) n
          (r.1, q :: r.2)
        else (t, [])
      | (t, _) => (t, [])

/-- Full granules of an RST leave for another package in one frame of at most 1,024 data flits (R345, R398; log 9): the
granules from the earliest that is still to be sent without a gap below this one. -/
def State.sendFrame (s : State) (p : Pending) (w : DefWrite) (pkg x : Nat) : State :=
  let qs := s.pendings.filterMap fun q => s.joinsFrame p w q
  let low := (List.range 1023).foldl (fun (m : Nat × Bool) i =>
    if m.2 ∧ 64 * (i + 1) ≤ w.addr ∧ (qs.any fun q => q.2.addr == w.addr - 64 * (i + 1)) = true then (i + 1, true) else (m.1, false)) (0, true)
  let back := (List.range (low.1 + 1)).foldl (fun (a : State × Nat × Bool) i =>
    if i = 0 ∨ a.2.2 = false ∨ x < 64 * i then a
    else match a.1.reach p.die (some p.ctx) p.asid (w.addr - 64 * i) false true with
      | (t, .ok (.remote k y)) => if k = pkg ∧ y = x - 64 * i then (t, i, true) else (t, a.2.1, false)
      | (t, _) => (t, a.2.1, false)) (s, 0, true)
  let j := back.2.1
  let r := back.1.frameRun p qs pkg (w.addr - 64 * j) (x - 64 * j) 1024
  let ids := r.2.map (·.1)
  let t := r.1.request p.die (.writes ids) pkg FrameKind.write (x - 64 * j) (2 ^ 64 - 1)
    (r.2.flatMap fun q => bytesOfNat 64 q.2.data.toNat)
  (r.2.mapIdx fun i q => (i, q.1)).foldl (fun t q => t.pendingSent q.2 (.remote pkg (x - 64 * j + 64 * q.1))) t

/-- A released write performs at its home, or leaves for it. A write to another package carries its byte mask in `op`
(log 9). -/
def State.performWrite (s : State) (p : Pending) (w : DefWrite) : State :=
  let (s, r) := match p.home with
    | some h => (s, (.ok h : Except Nat Home))
    | none => s.reach p.die (some p.ctx) p.asid w.addr false true
  match r with
  | .error code => s.pendingFault p none code w.addr
  | .ok (.remote pkg a) =>
    if w.rst.isSome ∧ w.mask = BitVec.allOnes 64 then s.sendFrame p w pkg a
    else (s.request p.die (.write p.id) pkg FrameKind.write a w.mask.toNat (bytesOfNat 64 w.data.toNat)).pendingSent p.id (.remote pkg a)
  | .ok (.host a) => ((maskRuns w.data w.mask).foldl (fun s r => s.hostWrite (a + r.1) r.2) s).performed p.id
  | .ok h =>
    let perform := fun (s : State) => (s.writeHomeMasked h w.data.toNat w.mask.toNat 64).performed p.id
    if p.slot.isSome then perform s else s.elastically [h] (.ev (.deferredWritePerform p.id)) perform

/-- The value that the elements of one cell add to it, as the frame of an elastic update carries it (log 9). -/
def cellAdd (es : List ScatElem) : Nat :=
  match es with
  | [] => 0
  | e :: _ =>
    if e.cfg.wide then wrapTo 128 ((es.map fun x => x.wideAdd.1).sum)
    else (roundTo .f32 (scatPart es).1 .ne .inf false 0).bits

/-- The flags that the elements of one cell set whatever the cell holds. -/
def cellFlags (es : List ScatElem) : CellOut :=
  match es with
  | [] => { value := 0, sat := false, nanv := false, ovf := false }
  | e :: _ =>
    if e.cfg.wide then
      let xs := es.map ScatElem.wideAdd
      { value := 0, sat := xs.any (·.2.1), nanv := xs.any (·.2.2), ovf := false }
    else { value := 0, sat := false, nanv := false, ovf := (scatPart es).2 }

/-- A released scatter update performs at its cell, or leaves for it. -/
def State.performCell (s : State) (p : Pending) : State :=
  match p.scat with
  | [] => s.performed p.id
  | e :: _ =>
    let n := e.cfg.cell
    let live := (s.ctx p.die p.ctx).gang == p.gang
    let flag := fun (s : State) (o : CellOut) => if live then s.scatFlags p.die p.ctx e.region o else s
    match s.reach p.die (some p.ctx) p.asid e.addr true true with
    | (s, .error code) => s.pendingFault p none code e.addr
    | (s, .ok (.remote pkg a)) =>
      ((flag s (cellFlags p.scat)).request p.die (.write p.id) pkg FrameKind.atomic a
        (if e.cfg.wide then opWord 7 16 0 else opWord 6 4 0) (bytesOfNat n (cellAdd p.scat))).pendingSent p.id (.remote pkg a)
    | (s, .ok (.host a)) =>
      ((flag s (cellFlags p.scat)).hostAtomic (.write p.id) a (if e.cfg.wide then 7 else 6) n (cellAdd p.scat) 0).pendingSent
        p.id (.host a)
    | (s, .ok h) => s.elastically [h] (.ev (.deferredWritePerform p.id)) fun s =>
      match s.readHome h n with
      | .error code => s.pendingFault p (some h) code e.addr
      | .ok old =>
        let o := cellUpdate p.scat old
        ((flag s o).writeHome h (bytesOfNat n o.value)).performed p.id

/-- DEFERRED_WRITE_PERFORM (R262): a released write or scatter update performs at its home; a TDMA granule at its landing
count (R235). -/
def execDeferredWritePerform (id : Nat) (s : State) : Res :=
  match s.pendings.find? fun p => p.id == id with
  | none => .next s
  | some p =>
    if p.sent ∨ (p.slot.isSome ∧ p.due ≠ s.bel) then .next s
    else if s.blockedPending p then .next (s.retryPending (.deferredWritePerform id))
    else match p.write with
      | some w => .next (s.performWrite p w)
      | none => .next (s.performCell p)

/-- The update of a barrier object by an arrival (R253). -/
def State.arriveHome (s : State) (h : Home) (v : Nat) : Except Nat State :=
  match s.readHome h 16 with
  | .error c => .error c
  | .ok n =>
    let count := n % 2 ^ 64
    let expected := n / 2 ^ 64
    let (count, expected) := if count < v then (0, expected % 2 ^ 63 + 2 ^ 63) else (count - v, expected)
    .ok (s.writeHome h (bytesOfNat 16 (count + expected * 2 ^ 64)))

/-- BARRIER_ARRIVAL_UPDATE (R253): an arrival updates its barrier indivisibly, after everything that its release orders
before it. -/
def execBarrierArrivalUpdate (id : Nat) (s : State) : Res :=
  match s.pendings.find? fun p => p.id == id with
  | none => .next s
  | some p =>
    match p.arrival with
    | none => .next s
    | some a =>
      if p.sent then .next s
      else if s.blockedPending p then .next (s.retryPending (.barrierArrivalUpdate id))
      else
        let (s, r) := if isBankAddr a.addr.toNat then (s, (.ok (.bank p.die (a.addr.toNat % 2 ^ 28)) : Except Nat Home))
          else s.reach p.die (some p.ctx) p.asid a.addr.toNat true true
        match r with
        | .error code => .next (s.pendingFault p none code a.addr.toNat)
        | .ok (.remote pkg x) =>
          .next ((s.request p.die (.write id) pkg FrameKind.atomic x (opWord 5 16 0) (bytesOfNat 8 a.value.toNat)).pendingSent id (.remote pkg x))
        | .ok (.host x) => .next ((s.hostAtomic (.write id) x 5 16 a.value.toNat 0).pendingSent id (.host x))
        | .ok h => .next (s.elastically [h] (.ev (.barrierArrivalUpdate id)) fun s =>
          match s.arriveHome h a.value.toNat with
          | .ok s => s.performed id
          | .error code => s.pendingFault p (some h) code a.addr.toNat)

/-! ### The end of a region (R309 steps 1 and 2, R135) -/

/-- The deferred writes are released; before-images, read staging, received frames and the atomic log are freed. -/
def State.endRegion (s : State) (d c : Nat) : State :=
  let s := s.release d c
  let s := s.freeFrames d c
  s.modCtx d c fun x =>
    { x with before := [], staging := [], atomLog := [], atomPos := 0, regionSteps := 0,
             posted := x.posted.map fun p => (p.1, p.2.1, true),
             arch := { x.arch with dq := x.arch.dq.map fun (e : DqEntry) => { e with stages := [] } } }

end Sys2Proof.Machine
end

