-- ==== Sys2Proof/Machine/Waits.lean ====
section
/-!
DEFINITION. WAITB, FENCE and DRAIN (05 R128–R132, 10 R263, R273).
-/

namespace Sys2Proof.Machine

/-! ### WAITB (R130) -/

/-- A WAITB is satisfied by a value: its staging at the end of the step, and the landing of the value. -/
def State.waitDone (s : State) (h : Hdr) (d : BitVec 6) (a v : Nat) : State :=
  (s.put h 0 (.waited a v)).put h 1 (.s d.toNat (BitVec.ofNat 64 v))

/-- Change of the executing context. -/
def State.modMe (s : State) (f : Ctx → Ctx) : State := s.modCtx s.issue.die s.issue.ctx f

/-- The request of a presented WAITB at a home of the package: to a word in a stack it goes once, in a frame in which the word's
channel does not refresh, and asks for one scalar slot (R230, R231). -/
def State.waitReaches (s : State) (h : Hdr) (g : Home) : Option State :=
  match s.burstAt g with
  | some p =>
    if s.me.waitCount ≠ 0 then some s
    else if s.belfryOn && refreshes p.2 (s.bel / 128) then none
    else some ((s.askScalar { key := [s.bel, s.issue.die, s.issue.ctx, h.cls.toNat], stack := p.1, channel := p.2,
                              from_ := s.bel + 4, slot := none, work := none }).modMe fun x => { x with waitCount := 1 })
  | none => some s

/-- The word of a WAITB is looked at, after its context's earlier accesses to it (R271): in the package in this count,
elsewhere by a request. A value that satisfies the wait ends it within 64 counts of its performance (log 20); of a word in a
stack the request takes one scalar slot, and reaches the word when its channel does not refresh (R230, R231, log 20). -/
def State.pollWait (s : State) (h : Hdr) (o : Sys) (a : Nat) : State :=
  let d := s.issue.die
  let c := s.issue.ctx
  match s.reach d (some c) s.me.asid a true false with
  | (s, .error code) => s.raise h.cls.toNat code a
  | (s, .ok g) =>
  if s.me.reqs.any (fun q => q.scalar && q.addr.toNat / 8 == a / 8 && q.home.isNone && !q.ended && !q.replayed) ||
      (!g.inside && !(s.storesAhead d c g).isEmpty) then s.holdGroup
  else match g with
  | .remote pkg x =>
    let id := s.nextId
    ((s.request d (.wait d c) pkg FrameKind.read x 8 []).modMe fun x => { x with waitReq := some id, waitReply := none }).holdGroup
  | .host x =>
    let id := s.nextId
    ((s.hostRead (.wait d c) x 8).modMe fun x => { x with waitReq := some id, waitReply := none }).holdGroup
  | g =>
    match (s.waitReaches h g).bind fun s => s.settleWord d c s.nextId g with
    | none => s.holdGroup
    | some s => match s.readHome g 8 with
      | .error code => s.raise h.cls.toNat code a
      | .ok v =>
        if waitSatisfied (bit 0 o.imm.toNat) v then
          let (k, s) := s.freeBelow 64
          if k = 0 then s.waitDone h o.d a v
          else (s.modMe fun x => { x with waitReply := some (v, s.bel + k) }).holdGroup
        else s.holdGroup

/-- WAITB on a translated word: served by the staging in a rerun (R313), else by its home. -/
def State.waitTranslated (s : State) (h : Hdr) (o : Sys) (a : Nat) : State :=
  let x := s.me
  let sat := waitSatisfied (bit 0 o.imm.toNat)
  let live := fun (s : State) =>
    match x.waitFault, x.waitReply with
    | some e, _ => s.raise h.cls.toNat e.1 (e.2.getD a)
    | none, some (v, b) =>
      if sat v then (if b ≤ s.bel then s.waitDone h o.d a v else s.holdGroup)
      else if x.waitReq.isSome then s.holdGroup else s.pollWait h o a
    | none, none => if x.waitReq.isSome then s.holdGroup else s.pollWait h o a
  match (nextStaged .waitb x.staging) with
  | some e =>
    match e.value with
    | some v => if e.addr = a ∧ e.size = 8 then s.waitDone h o.d a v else live s
    | none => live s
  | none => live s

/-- WAITB (R130). -/
def execWaitb (h : Hdr) (o : Sys) (s : State) : Res :=
  slotRun h s fun s =>
    let a := s.s o.x
    if a.toNat % 8 ≠ 0 then s.raise h.cls.toNat Cause.misaligned a.toNat
    else if isBankAddr a.toNat then
      match s.bankCheck a 8 with
      | some c => s.raise h.cls.toNat c a.toNat
      | none =>
        let v := natOfBytes (s.readBank false (a.toNat % 2 ^ 28) 8)
        let s := s.afterRead
        if waitSatisfied (bit 0 o.imm.toNat) v then s.put h 1 (.s o.d.toNat (BitVec.ofNat 64 v)) else s.holdGroup
    else s.waitTranslated h o a.toNat

/-! ### What a FENCE or DRAIN waits for (R131, R132, Table 5-5) -/

/-- An access in progress: its home, its DRAIN classes, and whether it is of the copy engines, which lie in scopes pkg and dom
(Table 10-2). -/
structure Waited where
  home : Option Home
  classes : List Nat
  engine : Bool := false

/-- The class of a read at a home: second-tier and host memory, or remote (Table 5-5). -/
def readClass (d : Nat) (h : Option Home) : Nat :=
  match h with
  | some (.remote _ _) => 3
  | some (.bank k _) => if k = d then 0 else 3
  | _ => 2

/-- The class of a write at a home. -/
def writeClass (d : Nat) (h : Option Home) : Nat :=
  match h with
  | some (.remote _ _) => 3
  | some (.bank k _) => if k = d then 0 else 3
  | _ => 1

/-- The accesses of a request that has not ended. -/
def State.waitedReq (s : State) (d c : Nat) (r : Req) : List Waited :=
  let own : Waited := { home := some (.bank d 0), classes := [] }
  if r.ended then []
  else match r.kind with
    | .ldh _ _ =>
      let h := s.homeFor d c r.addr.toNat
      [{ home := h, classes := [readClass d h] }]
    | .atomic .. | .claim .. =>
      if isBankAddr r.addr.toNat then [own]
      else
        let h := s.homeFor d c r.addr.toNat
        [{ home := h, classes := [readClass d h, writeClass d h] }]
    | .barinit _ => [own]
    | .tdmaIn => [{ home := r.home, classes := [2] }, own]
    | .rld => own :: ((r.grans.filter fun g => !g.done).map fun g =>
        let h := s.homeFor d c g.addr
        { home := h, classes := [readClass d h] })
    | .tdmaOut | .collective => [own]
    | .enqueue => []

/-- A released write or arrival. -/
def State.waitedPending (s : State) (p : Pending) : Waited :=
  let h := s.pendingHome p
  let cq := match p.write with | some w => w.cq | none => false
  { home := h, classes := [if p.scat.isEmpty then writeClass p.die h else 5] ++ (if cq then [4] else []) }

/-- Windows of a region that close by a FENCE or DRAIN and that the engine reaches within this count have performed for it
(R385). -/
def State.windowsOut (s : State) (d c r : Nat) : Bool :=
  let t := tget (s.ctx d c).arch.scat r default
  let due := s.calendar.filter fun (e : Dated) => e.at_ ≤ s.now && e.what == .ev (.scatterWindowPerform d c r)
  due.length < t.closed.length && (t.closed.drop due.length).flatten.any fun e => !e.cfg.translated

/-- The accesses of a context that a FENCE or DRAIN may wait for; its own bank writes until they have landed (log 41). -/
def State.waitedAll (s : State) (d c : Nat) : List Waited :=
  let x := s.ctx d c
  let own : Waited := { home := some (.bank d 0), classes := [] }
  let landing := if x.arch.landing.any Landing.isBank then [own] else []
  let elems := x.arch.dq.flatMap fun e => e.waiting.map fun g =>
    ({ home := s.elemHome d c e.src g, classes := [6] } : Waited)
  let scat := (List.range 8).flatMap fun r => if s.windowsOut d c r then [({ own with classes := [5] } : Waited)] else []
  let pushes := (s.pushesOut d c).map fun _ => ({ home := some (.bank (pairOf d) 0), classes := [] } : Waited)
  let copies := (s.openCopies d c .dom).map fun _ => ({ home := none, classes := [4], engine := true } : Waited)
  landing ++ x.reqs.flatMap (s.waitedReq d c) ++ elems ++ scat ++
    ((s.pendings.filter fun p => p.die == d && p.ctx == c && p.gang == x.gang).map s.waitedPending) ++
    (x.takes.map fun _ => own) ++
    ((s.sends.filter fun y => y.fromDie == d && y.fromCtx == c && y.data.length < y.n).map fun _ => own) ++ pushes ++ copies

/-- A queued copy is of the scopes that take in the port dies (Table 10-2). -/
def Waited.covered (w : Waited) (d : Nat) (sc : Scope) : Bool :=
  if w.engine then sc == .pkg || sc == .dom else homeIn w.home d sc

/-- A recorded fault of a released access is covered: a scatter fault by every FENCE and by DRAIN of class sca or all, the
others by a scope that takes in their home (R237, R252, R330). -/
def faultCovered (sc : Scope) (cls : Option Nat) (f : Nat × Trap) : Bool :=
  (match cls with | none => true | some 0 => true | some k => k == f.1) &&
  (if f.1 = 5 then true else if f.1 = 3 then sc == .dom else sc != .ctx)

/-- A FENCE or DRAIN: in a checkpoint group it waits once the group has committed (R133); it raises the recorded faults it
covers. -/
def State.waitFor (s : State) (sc : Scope) (cls : Option Nat) : State :=
  let d := s.issue.die
  let c := s.issue.ctx
  if s.issue.ck && !s.me.committed then s
  else
    let s := if cls == none || cls == some 0 || cls == some 5 then s.closeWindows d c else s
    let s := { s with free := s.free + 1 }
    let faults := s.me.fenceFaults.filter (faultCovered sc cls)
    if !faults.isEmpty then
      let s := s.modMe fun x => { x with fenceFaults := x.fenceFaults.filter fun f => !faultCovered sc cls f }
      { s with issue := { s.issue with traps := s.issue.traps ++ faults.map (·.2) } }
    else
      let open_ := (s.waitedAll d c).any fun w => w.covered d sc &&
        match cls with
        | none => true
        | some 0 => w.classes.any fun k => k != 0
        | some k => w.classes.contains k
      if open_ then s.holdGroup else s

/-- FENCE (R131): its group also joins the views (R268). -/
def execFence (h : Hdr) (o : Sys) (s : State) : Res := slotRun h s fun s => s.waitFor o.scope none

/-- DRAIN (R132). -/
def execDrain (h : Hdr) (o : Sys) (s : State) : Res := slotRun h s fun s => s.waitFor o.scope (some o.cls.toNat)

end Sys2Proof.Machine
end

