-- ==== Sys2Proof/Machine/Landing.lean ====
section
/-!
DEFINITION. The effects of slots as they take place: landings at the end of a step (R14, R34–R37, R265, R266), tile counters
(R32, R219), operand-queue entries (R33), and the mirroring of spare registers (R322).
-/

namespace Sys2Proof.Machine

/-! ### Array groups -/

/-- Change of an array group. -/
def State.modGroup (s : State) (d g : Nat) (f : TileGroup → TileGroup) : State :=
  s.modDie d fun x => { x with groups := tmod x.groups g f }

/-- Change of a tile's bits. -/
def TileGroup.modBits (x : TileGroup) (t : Nat) (f : TileBits → TileBits) : TileGroup := { x with bits := tmod x.bits t f }

/-- Change of a latch's annex. -/
def TileGroup.modAnnex (x : TileGroup) (w : Nat) (f : Annex → Annex) : TileGroup := { x with annex := tmod x.annex w f }

/-- Words written at places of a sparse table. -/
def SMap.setAll {w : Nat} (m : SMap w) (l : List (Nat × BitVec w)) : SMap w := l.foldl (fun m p => SMap.set m p.1 p.2) m

/-- A tile with every word zero. -/
def TileGroup.zeroTile (x : TileGroup) (t : Nat) : TileGroup :=
  { x with tiles := x.tiles.filter fun p => p.1 / 16384 % 8 != t }

/-- A latch with every byte and its annex's stores zero. -/
def TileGroup.zeroLatch (x : TileGroup) (w : Nat) : TileGroup :=
  { x with latches := x.latches.filter fun p => p.1 / 32768 % 4 != w,
           scales := x.scales.filter fun p => p.1 / 2048 % 4 != w,
           lists := x.lists.filter fun p => p.1 / 512 % 4 != w }

/-- FORM of a tile is cleared, with its partner's where they hold a pair. -/
def TileGroup.clearForm (x : TileGroup) (t : Nat) : TileGroup :=
  if (x.tileBits t).form then
    (x.modBits t fun b => { b with form := false }).modBits (partner t) fun b => { b with form := false }
  else x

/-- A tile becomes busy at the end of its operation's issue step; an MMA also sets INUSE and FORM (R214). -/
def TileGroup.setBusy (x : TileGroup) (t cnt : Nat) (pair mma : Bool) (form : Option Bool) : TileGroup :=
  let x := if form = some false then x.clearForm t else x
  x.modBits t fun b => { b with busy := true, cnt := cnt, pair := pair, mma := mma, form := form.getD b.form,
                                inuse := b.inuse || form.isSome }

/-- The latch of each array takes its image (R206). -/
def TileGroup.loadLatch (x : TileGroup) (w : Nat) (fmt : Fmt) (sp : Bool) (plate llen : Nat)
    (bytes : List (List (Nat × Byte))) (scales : List (List (BitVec 16))) (stip : List (List (BitVec 32))) : TileGroup :=
  let x := x.zeroLatch w
  let x := (List.range 8).foldl (fun x a =>
    { x with latches := SMap.setAll x.latches ((bytes.getD a []).map fun p => (latchKey a w p.1, p.2)),
             scales := SMap.setAll x.scales ((scales.getD a []).mapIdx fun i v => (scaleKey a w i, v)),
             lists := SMap.setAll x.lists ((stip.getD a []).mapIdx fun i v => (listKey a w i, v)) }) x
  x.modAnnex w fun _ => { lvalid := true, fmtl := fmt.code, lsp := sp, lplate := BitVec.ofNat 11 plate,
                          llen := BitVec.ofNat 10 llen, linuse := true }

/-- One step of the owning context passes in a tile that is busy (R219). -/
def TileBits.tick (b : TileBits) : TileBits := if b.busy then { b with cnt := b.cnt - 1 } else b

/-- A tile whose counter has run down is idle: busy bit, counter and PAIR are clear. -/
def TileBits.finish (b : TileBits) : TileBits :=
  if b.cnt = 0 then { b with busy := false, pair := false, mma := false } else b

/-- TILE_OPERATION_COMPLETE (R32): the busy bit of a tile whose counter has run down is clear. -/
def execTileOperationComplete (d g t : Nat) (s : State) : Res :=
  .next (s.modGroup d g fun x => x.modBits t TileBits.finish)

/-- The tiles of a context's groups count a step; those that complete are idle at its end (R32, R219). -/
def State.tickTiles (s : State) (d c : Nat) : State :=
  if d < 4 ∨ c = 2 then s
  else (List.range 4).foldl (fun s g =>
    if (s.ctx d c).groups.getLsbD g then
      let s := s.modGroup d g fun x => { x with bits := x.bits.map TileBits.tick }
      (List.range 8).foldl (fun s t =>
        let b := (tget (s.die d).groups g default).tileBits t
        if b.busy && b.cnt == 0 then s.soon (.ev (.tileOperationComplete d g t)) else s) s
    else s) s

/-! ### Operand queue (R33, R254) -/

/-- A value enters the OQ of the paired context, in which the check at its issue has found a place of the 64 (R33). -/
def State.pushOq (s : State) (d c : Nat) (v : Word) : State :=
  let m := pairOf d
  if 64 ≤ (s.ctx m c).arch.oq.length then s
  else
  let (id, s) := s.fresh
  let e : OqEntry := { id := id, value := v, ready := s.bel + Config.oqLatency, poppable := false }
  (s.modArch m c fun a => { a with oq := a.oq ++ [e] }).scheduleBel e.ready phStart (.ev (.oqEntryPoppable m c id))

/-- OQ_ENTRY_POPPABLE (R33). -/
def execOqEntryPoppable (d c id : Nat) (s : State) : Res :=
  .next (s.modArch d c fun a => { a with oq := a.oq.map fun (e : OqEntry) =>
    if e.id = id ∧ e.ready ≤ s.bel then { e with poppable := true } else e })

/-! ### Queued requests of a slot -/

/-- A Lantern request travels to its port die, where it acts within 256 counts (R255). -/
def State.queueLantern (s : State) (d c ident : Nat) (mask : BitVec 64) (wake : Bool) (arm : Option Nat) : State :=
  let (id, s) := s.fresh
  let (k, s) := s.freeBelow 256
  let r : LanternReq := { id := id, ident := ident, mask := mask, wake := wake, arm := arm, die := d, gang := (s.ctx d c).gang,
                          at_ := s.now + 1 + k }
  { s with lanternReqs := s.lanternReqs ++ [r] }.schedule (s.now + 1 + k) phStart (.ev (.lanternRequestAct id))

/-- The next period boundary of a gang after this count (R294). -/
def State.nextBoundary (s : State) (g : Gang) : Nat := leastCongruent (s.bel + 1) 0 g.tp

/-- The served gang will switch its phase at its next period boundary (R256). -/
def State.choosePhase (s : State) (d c p : Nat) : State :=
  match s.gangOf d c with
  | none => s
  | some g => (s.modGang g.id fun x => { x with nextPhase := some p }).scheduleBel (s.nextBoundary g) phStart (.ev (.phaseSwitch g.id))

/-- A word of a WAITB enters the read staging with the step that issues (R313). -/
def State.stageWait (s : State) (d c addr v : Nat) : State :=
  let (s, key, hit) := s.openStage d c .waitb addr 8 0
  let s := match hit with | some _ => s | none => s.fillStage d c key v 0
  s.modCtx d c fun x => { x with waitCount := 0, waitReq := none, waitReply := none, waitFault := none }

/-! ### The return and the end of a context -/

/-- The checkpoint groups of a program in ascending offset (R307). -/
def checkpointOffsets (ws : List Word) : List Nat := ((groupsOf ws).filter fun g => g.2.ck).map fun g => 8 * g.1

/-- RETT k takes effect (R138): a k that is no checkpoint of the served image is fatal. -/
def State.returnTo (s : State) (d k : Nat) : State :=
  let v := (s.ctx d 2).served
  match s.gangOf d 2 with
  | none => s
  | some g =>
    if k ≤ (checkpointOffsets (s.code d v)).length then s.rettMember g d v k
    else s.abortByTrap g d v { code := Cause.checkpointTarget, info := k, cls := 0, clus := none }

/-- EXIT takes effect (R135): the region ends, the context issues nothing further; a handler's EXIT aborts the gang that it
serves (R319). -/
def State.exitCtx (s : State) (d c : Nat) (succ : Option Nat) : State :=
  if c = 2 then
    match s.gangOf d 2 with
    | none => s
    | some g => (s.modCtx d 2 fun x => { x with run := .absent }).soon (.ev (.gangAbort g.id .trap))
  else
    let s := s.modCtx d c fun x => { x with run := .exited, succ := succ, deferred := x.deferred ++ x.outHolders }
    (s.closeWindows d c).endRegion d c

/-! ### Applying an effect -/

/-- The context whose system registers a WRSR of a context reaches (R42). -/
def State.srTarget (s : State) (d c : Nat) : Nat := if c = 2 then (s.ctx d c).served else c

/-- An effect of a slot of a context takes place. -/
def State.applyAct (s : State) (d c cls gstep : Nat) (a : Act) : State :=
  match a with
  | .s n v => s.modCtx d c fun x => x.landS n v
  | .q n b => s.modArch d c fun a => a.setQ n b
  | .v k n v m => s.modCtx d c fun x => x.landV k n v m
  | .p k n v m => s.modArch d c fun a => a.setP k n v m
  | .a n v m => s.modArch d c fun a => { a with a := tmod a.a n fun old => blendV old v m }
  | .lp n l => s.modArch d c fun a => { a with lp := tset a.lp n l }
  | .flags f => s.modArch d c fun a => { a with flags := a.flags ||| f }
  | .bank plate bs => s.ownBankWrite d c cls gstep plate bs
  | .wbuf bs => s.wbufWrite d c cls gstep bs
  | .tag n v => s.tagWrite d c cls gstep [(n, v)]
  | .clearTags b n => s.tagWrite d c cls gstep ((List.range n).map fun i =>
      (b + i, SMap.get (s.die d).tags (b + i) &&& ~~~((1 : BitVec 128) <<< 95)))
  | .scale g kj n es => s.modArch d c fun a =>
      let put := fun (r : Vector (Vector (Vector (BitVec 16) 64) 8) 4) =>
        tmod r g fun f => tmod f n fun v => (es.mapIdx fun i e => (i, e)).foldl (fun v p => tset v p.1 p.2) v
      if kj then { a with jreg := put a.jreg } else { a with kreg := put a.kreg }
  | .lc v => s.modArch d c fun a => { a with lc := v }
  | .vrb v => s.modArch d c fun a => { a with vrb := v }
  | .sysreg n v => s.modCtx d (s.srTarget d c) fun x => (x.writeSr (kindOf d) n v).keepMode (s.srTarget d c)
  | .guarded b => s.modArch d c fun a => { a with guarded := b }
  | .exit k => s.exitCtx d c k
  | .rett k => s.returnTo d k
  | .dqPush e _ => s.pushDq d c { e with gstep := gstep }
  | .aqPush q => s.pushAq d c q
  | .dqPop id => s.modArch d c fun a => { a with dq := a.dq.filter fun e => e.id != id }
  | .ixclr => s.modArch d c Arch.clearQueues
  | .scatPush r es => (es.foldl (fun s e => s.feed d c r { e with gstep := gstep }) s).feedEnd d c r
  | .scatSet r g => (s.cutStream d c r).modArch d c fun a => { a with regions := tmod a.regions r fun old =>
      { g with sat := old.sat, nanv := old.nanv, ovf := old.ovf } }
  | .scatClr r => (s.cutStream d c r).modArch d c fun a => { a with regions := tmod a.regions r fun g =>
      { g with sat := false, nanv := false, ovf := false } }
  | .scatClose r => s.cutStream d c r
  | .oqPop => s.modArch d c fun a => { a with oq := a.oq.tail }
  | .oqPush v => s.pushOq d c v
  | .busy g t n pair mma form => s.modGroup d g fun x => x.setBusy t n pair mma form
  | .tile g _ cells => s.modGroup d g fun x => { x with tiles := SMap.setAll x.tiles cells }
  | .tileSet g t cells => s.modGroup d g fun x =>
      let x := (x.zeroTile t).clearForm t
      { x with tiles := SMap.setAll x.tiles cells }.modBits t fun b => { b with inuse := true }
  | .tileFree g t => s.modGroup d g fun x => (x.zeroTile t).modBits t fun b => { b with form := false, inuse := false }
  | .latch g w f sp pl ll bs sc st => s.modGroup d g fun x => x.loadLatch w f sp pl ll bs sc st
  | .latchFree g w => s.modGroup d g fun x => (x.zeroLatch w).modAnnex w fun _ => default
  | .select g n => s.modGroup d g fun x => { x with selv := true, selp := BitVec.ofNat 11 n }
  | .start r => s.beginReq d c r
  | .defer ws => s.addDeferred d c cls gstep ws
  | .arrive r => s.addArrival d c cls gstep r
  | .logAtomic _ => s
  | .replayed id => s.landReplayedValue d c id
  | .replayGran id k => match ((s.ctx d c).req? id).map (·.kind) with
    | some ReqKind.collective => s.landReplayedColl d c id k
    | _ => s.landReplayed d c id k
  | .replayElem id g v => s.modDq d c id fun e => e.take g v
  | .waited a v => s.stageWait d c a v
  | .nframe e h bs => s.sendNet d c e h bs
  | .ntake e => s.takeNet d e
  | .sendFrame dst ch q b n first => s.sendLocal d c dst ch q b n first
  | .sendTimed pkg die ch q b n first => s.sendAway d c pkg die ch q b n first
  | .takeFrame key b => s.takeFrame d c key b
  | .exchange k rank src dst len m op ty r => s.beginExchange d c k rank src dst len m op ty r
  | .lantern i m w arm => s.queueLantern d c i m w arm
  | .selectPhase p => s.choosePhase d c p

/-! ### The end of a step (R14, R36, R37) -/

/-- Order within one step: writes of system registers first (R44), the end of the context last, between them by class and
then by step of issue (R37). -/
def Landing.order (l : Landing) : Nat :=
  match l.act with
  | .sysreg _ _ => 0
  | .exit _ => 2
  | .rett _ => 2
  | _ => 1

/-- A landing takes effect before another. -/
def Landing.before (a b : Landing) : Bool :=
  a.order < b.order || (a.order == b.order && (a.cls < b.cls || (a.cls == b.cls && a.born < b.born)))

/-- Insertion after those that do not come later. -/
def insertLanding (x : Landing) : List Landing → List Landing
  | [] => [x]
  | y :: ys => if Landing.before y x then y :: insertLanding x ys else x :: y :: ys

/-- A landing that the staging serves within the step that asks for it. -/
def Landing.atOnce (l : Landing) : Bool :=
  l.gstep == 1 && match l.act with
  | .replayed _ => true
  | .replayGran _ _ => true
  | .replayElem _ _ _ => true
  | _ => false

/-- The landings of a step of a context, in their order. -/
def State.land (s : State) (d c : Nat) : State :=
  let l := (s.ctx d c).arch.landing
  let due := (l.filter fun x => x.rem == 0).foldr insertLanding []
  let s := s.modArch d c fun a =>
    { a with landing := (l.filter fun x => x.rem != 0).map fun (x : Landing) => { x with rem := x.rem - 1 } }
  let s := due.foldl (fun s x => s.applyAct d c x.cls x.gstep x.act) s
  let now := (s.ctx d c).arch.landing.filter Landing.atOnce
  let s := s.modArch d c fun a => { a with landing := a.landing.filter fun x => !x.atOnce }
  now.foldl (fun s x => s.applyAct d c x.cls x.gstep x.act) s

/-- A handler's deferred writes are released as it issues them (R310). -/
def State.releaseHandler (s : State) (d c : Nat) : State :=
  let x := s.ctx d c
  if c = 2 ∧ !(x.deferred.isEmpty && x.arrivals.isEmpty && x.deferScat.isEmpty) then s.release d c else s

/-- RESULT_LANDING (R35): the end of a step of a context. -/
def execResultLanding (d c : Nat) (s : State) : Res :=
  let s := s.tickTiles d c
  let s := s.land d c
  let s := s.releaseHandler d c
  .next (s.modCtx d c fun x => { x with stepped := false, steps := x.steps + 1,
                                        regionSteps := if x.run = .exited then x.regionSteps else x.regionSteps + 1 })

end Sys2Proof.Machine
end

