-- ==== Sys2Proof/Machine/Dump.lean ====
section
/-!
DEFINITION. The fatal-error dump (R331, Table 12-8) and the region signature (R324).
-/

namespace Sys2Proof.Machine

/-! ### The member record (Table 12-8) -/

/-- A system register of a context, as an RDSR of the context reads it. -/
def State.srOf (s : State) (d c n : Nat) : Word :=
  { s with issue := { s.issue with die := d, ctx := c } }.readSr n

/-- Bytes of a bit string of n bytes. -/
def bitBytes {w : Nat} (n : Nat) (v : BitVec w) : List Byte := bytesOfNat n v.toNat

/-- Numbers of w bits packed from bit 0 of the first byte upward (R178). -/
def packNats (w : Nat) (xs : List Nat) : Nat := xs.foldr (fun x n => x % 2 ^ w + 2 ^ w * n) 0

/-- A live plate in the V-die format (Table 7-2); its switch bits route every enabled column (R187). -/
def LivePlate.bytes (l : LivePlate) (sw : Nat) : List Byte :=
  if l = default then bytesOfNat 1024 0
  else bytesOfNat 16 1 ++ bitBytes 32 l.cen ++ bitBytes 32 l.pen ++ bytesOfNat 240 (switchBits l.pos sw) ++ bytesOfNat 160 (packNats 5 l.sel) ++
    bytesOfNat 544 (packNats 17 l.row)

/-- The state code of a DQ entry (Table 1-3). -/
def DqEntry.code (e : DqEntry) : Nat := match e.status with | .wait => 1 | .landed => 2 | .poisoned _ _ => 3

/-- The vector part of a record: the clusters in order, a0–a3, lp0–lp7, then AQ and DQ states: the two occupancies and a state
byte for each of the 32 DQ places (log 31). -/
def vectorRecord (a : Arch) (free : Nat) : List Byte :=
  ((List.range 8).flatMap fun c =>
    ((List.range 64).flatMap fun n => bitBytes 128 (a.vphys c n)) ++
    ((List.range 16).flatMap fun n => bitBytes 16 (if n = 0 then BitVec.allOnes 128 else tget (tget a.p c default) n 0))) ++
  ((List.range 4).flatMap fun n => bitBytes 128 (a.areg n)) ++
  ((List.range 8).flatMap fun n => (tget a.lp n default).bytes (Config.freeBits (free + n))) ++
  bytesOfNat 8 a.aqOccupancy ++ bytesOfNat 8 a.dq.length ++
  ((List.range 32).map fun i => BitVec.ofNat 8 ((a.dq[i]?.map DqEntry.code).getD 0))

/-- The matrix part of a record: 64 OQ places, the scale registers of each tile slot, the MSTAT words of each group
(log 31). -/
def matrixRecord (x : Die) (a : Arch) : List Byte :=
  ((List.range 64).flatMap fun i => bitBytes 8 ((a.oq[i]?.map (·.value)).getD 0)) ++
  ((List.range 4).flatMap fun g =>
    let regs := fun (r : Vector (Vector (Vector (BitVec 16) 64) 8) 4) =>
      (List.range 8).flatMap fun n => (List.range 64).flatMap fun i => bitBytes 2 (tget (tget (tget r g default) n default) i 0)
    regs a.kreg ++ regs a.jreg) ++
  ((List.range 4).flatMap fun g =>
    let y := tget x.groups g default
    bytesOfNat 8 (mstatWord y 0 0 true) ++ (List.range 8).flatMap fun t => bytesOfNat 8 (mstatWord y t 0 false))

/-- The member record of a context, with the system registers given. -/
def memberRecord (x : Die) (d : Nat) (a : Arch) (srs : List Word) (free : Nat) : List Byte :=
  ((List.range 64).flatMap fun n => bitBytes 8 (tget a.s n 0)) ++ bytesOfNat 8 (a.q.toNat / 2 * 2 + 1) ++
  srs.flatMap (bitBytes 8) ++
  match kindOf d with
  | .v => vectorRecord a free
  | .m => matrixRecord x a

/-- The member header of a context. -/
def State.memberHeader (s : State) (d c : Nat) : List Byte :=
  let a := (s.ctx d c).arch
  ([s.srOf d c 3, a.trapCause, a.trapStep, a.trapInfo, s.srOf d c 4, a.pc, s.srOf d c 9,
    BitVec.ofNat 64 (b2n (s.retired.getLsbD d))]).flatMap (bitBytes 8)

/-! ### The dump (R331) -/

/-- The members of a gang as they stood at the stop, with the trap registers as they are (R331). -/
def State.asStopped (s : State) (g : Gang) : State :=
  g.stops.foldl (fun s (p : (Nat × Nat) × Arch × List (Nat × TileGroup)) =>
    let s := s.modArch p.1.1 p.1.2 fun a => { p.2.1 with trapCause := a.trapCause, trapStep := a.trapStep, trapInfo := a.trapInfo }
    s.modDie p.1.1 fun y => { y with groups := p.2.2.foldl (fun gs q => tset gs q.1 q.2) y.groups }) s

/-- The member of a gang in a context; the first of its members where none is named. -/
def Gang.memberAt (g : Gang) (p : Option (Nat × Nat)) : Member :=
  (g.members.find? fun m => p == some (m.die, m.ctx)).getD (g.members.headD default)

/-- The dump of a gang: header, with the deciding member's trap registers, member headers, the record of the member that faulted
first. -/
def State.dumpBytes (s : State) (g : Gang) : List Byte :=
  let ms := g.members
  let first := g.memberAt g.first
  let x := s.ctx first.die first.ctx
  let y := let m := g.memberAt g.decider; s.ctx m.die m.ctx
  let img := s.image? g.image
  let head :=
    bytesOfNat 4 0x504D5544 ++ bytesOfNat 2 1 ++ bytesOfNat 2 ms.length ++ bytesOfNat 8 (g.id % 2 ^ 20) ++
    bitBytes 64 ((img.map (·.digest)).getD 0) ++ bytesOfNat 8 s.bel ++ bytesOfNat 8 g.gbase ++
    bitBytes 8 y.arch.trapCause ++ bitBytes 8 y.arch.trapStep ++ bitBytes 8 y.arch.trapInfo ++
    bytesOfNat 8 (first.ix) ++ bytesOfNat 128 0
  let heads := ms.flatMap fun m => s.memberHeader m.die m.ctx
  head ++ heads ++ memberRecord (s.die first.die) first.die x.arch ((List.range 24).map fun n => s.srOf first.die first.ctx n) s.free

/-- Offset of the dump ring in stack 0 (Table 14-5). -/
def dumpRing : Nat := 0xFC0000000

/-- The dump of a gang is written to the next slot of the ring (R331). -/
def State.writeDump (s : State) (g : Gang) : State :=
  let at_ := dumpRing + s.dumpIx.toNat % 256 * 2 ^ 21
  let bs := (s.asStopped g).dumpBytes g
  let s := s.modStack 0 fun m => Mem.write m (placeBytes at_ bs)
  { s with dumpIx := s.dumpIx + 1, free := s.free + 8 }

/-! ### The region signature (R324) -/

/-- The lines with before-images, in ascending store and line. -/
def insertBefore (b : Before) : List Before → List Before
  | [] => [b]
  | x :: xs => if b.store < x.store ∨ (b.store = x.store ∧ b.line < x.line) then b :: x :: xs else x :: insertBefore b xs

/-- Deferred granules in ascending address. -/
def insertWrite (w : DefWrite) : List DefWrite → List DefWrite
  | [] => [w]
  | x :: xs => if w.addr < x.addr then w :: x :: xs else x :: insertWrite w xs

/-- Tiles, latches and their stores that are not zero. -/
def TileGroup.words (x : TileGroup) : List Byte :=
  (x.tiles.flatMap fun p => bytesOfNat 8 p.1 ++ bitBytes 4 p.2) ++ (x.latches.flatMap fun p => bytesOfNat 8 p.1 ++ [p.2]) ++
  (x.scales.flatMap fun p => bytesOfNat 8 p.1 ++ bitBytes 2 p.2) ++ (x.lists.flatMap fun p => bytesOfNat 8 p.1 ++ bitBytes 4 p.2)

/-- A list of numbers, with its length. -/
def listNats (l : List Nat) : List Nat := l.length :: l

/-- The numbers of a live plate. -/
def LivePlate.nats (l : LivePlate) : List Nat :=
  [l.cen.toNat, l.pen.toNat] ++ listNats l.sel ++ listNats l.row ++ listNats (l.pos.flatMap fun p => [p.1, p.2])

/-- The numbers of bytes or words at places. -/
def placedNats {w : Nat} (l : List (Nat × BitVec w)) : List Nat := listNats (l.flatMap fun p => [p.1, p.2.toNat])

/-- The numbers of an AQ entry; the name of the entry that it feeds is its place in DQ. -/
def AqEntry.nats (e : AqEntry) : List Nat :=
  [e.tk, e.size, e.base, e.stride] ++ listNats (e.idx.flatMap fun i => match i with | some v => [1, (wordOfInt v).toNat] | none => [0]) ++
  listNats (e.hits.flatMap fun h => match h with | some v => [1, v] | none => [0])

/-- The numbers of a scatter region's configuration and status. -/
def ScatRegion.nats (r : ScatRegion) : List Nat :=
  [b2n r.conf, r.base.toNat, b2n r.wide, b2n r.translated, r.f, r.len, b2n r.sat, b2n r.nanv, b2n r.ovf]

/-- The numbers of a scatter element. -/
def ScatElem.nats (e : ScatElem) : List Nat := [e.region, e.cell, e.value, b2n e.f64, b2n e.cut] ++ e.cfg.nats

/-- The numbers of an effect that can be in flight at a commit (R35, R309); an effect of latency 0 never is. -/
def Act.nats : Act → List Nat
  | .s n w => [1, n, w.toNat]
  | .q n b => [2, n, b2n b]
  | .v c n x m => [3, c, n, x.toNat, m.toNat]
  | .p c n x m => [4, c, n, x.toNat, m.toNat]
  | .a n x m => [5, n, x.toNat, m.toNat]
  | .lp n l => [6, n] ++ l.nats
  | .flags f => [7, f.toNat]
  | .bank b bs => [8, b2n b] ++ placedNats bs
  | .wbuf bs => 9 :: placedNats bs
  | .tag n w => [10, n, w.toNat]
  | .clearTags b n => [11, b, n]
  | .scale g k n es => [12, g, b2n k, n] ++ listNats (es.map BitVec.toNat)
  | .aqPush e => 13 :: e.nats
  | .scatPush r es => [14, r] ++ es.flatMap ScatElem.nats
  | .scatSet r c => [15, r] ++ c.nats
  | .scatClr r => [16, r]
  | .scatClose r => [17, r]
  | .tile g t cs => [18, g, t] ++ placedNats cs
  | .tileSet g t cs => [19, g, t] ++ placedNats cs
  | .tileFree g t => [20, g, t]
  | .latch g w f sp pl n bs ss st => [21, g, w, f.code.toNat, b2n sp, pl, n] ++ bs.flatMap placedNats ++
      ss.flatMap (fun l => listNats (l.map BitVec.toNat)) ++ st.flatMap (fun l => listNats (l.map BitVec.toNat))
  | .latchFree g w => [22, g, w]
  | .select g n => [23, g, n]
  | .replayElem _ g w => [24, g, w]
  | _ => [0]

/-- The numbers of a landing buffer: of each entry its remaining steps, its class and its effect. -/
def landingNats (l : List Landing) : List Nat := l.flatMap fun x => [x.rem, x.cls] ++ x.act.nats

/-- Numbers as bytes, 128 for each. -/
def natBytes (l : List Nat) : List Byte := l.flatMap fun n => bytesOfNat 128 n

/-- What the member record leaves out of a captured context: its PC, its landing buffer, AQ, the counts that OQ entries still take,
scatter regions and their streams (log 32). -/
def Arch.restBytes (a : Arch) : List Byte :=
  bitBytes 8 a.pc ++ natBytes (landingNats a.landing) ++ natBytes (listNats (a.aq.flatMap AqEntry.nats)) ++
  natBytes (listNats (a.oq.map fun e => if e.poppable then 0 else (e.ready + 2 ^ 64 - a.gbase.toNat) % 2 ^ 64)) ++
  natBytes (a.regions.toList.flatMap ScatRegion.nats) ++
  natBytes (a.scat.toList.flatMap fun (t : ScatStream) =>
    listNats (t.open_.flatMap ScatElem.nats) ++ t.closed.flatMap fun w => listNats (w.flatMap ScatElem.nats))

/-- A die with the array groups of a context only (Table 1-1: shadowed for owned groups). -/
def Die.owned (x : Die) (y : Ctx) : Die :=
  { x with groups := Vector.ofFn fun i => if y.groups.getLsbD i.val then tget x.groups i.val default else default }

/-- The shadowed state of a signature, in the order of the dump's member record: BELFRY, GBASE and LSTATUS are left out, and
promise steps are counted from GBASE, so that a re-base does not enter it (log 32). -/
def State.shadowBytes (s : State) (d c : Nat) : List Byte :=
  let x := s.ctx d c
  let a := x.arch
  let gb := a.gbase.toNat % 2 ^ 48
  let srs := (List.range 24).map fun n =>
    if n = 0 ∨ n = 1 ∨ n = 8 then (0 : Word)
    else if 16 ≤ n then
      let p := tget a.promise (n - 16) default
      ({ p with pstep := p.pstep - BitVec.ofNat 48 gb } : Promise).word
    else s.srOf d c n
  memberRecord ((s.die d).owned x) d { a with lp := a.lp.map fun (l : LivePlate) => { l with pos := [] } } srs 0 ++
  (a.lp.toList.flatMap fun l => l.pos.flatMap fun p => bytesOfNat 2 p.1 ++ bytesOfNat 2 p.2) ++
  (a.dq.flatMap fun e => bitBytes 1024 e.data) ++ a.restBytes ++
  (if d < 4 then [] else (List.range 4).flatMap fun g =>
    if x.groups.getLsbD g then (tget (s.die d).groups g default).words else [])

/-- Bytes placed in their granule, as a write of the deferred set. -/
def granuleOf (addr n value : Nat) : DefWrite :=
  { addr := addr / 64 * 64, data := BitVec.ofNat 512 (value % 2 ^ (8 * n) * 2 ^ (8 * (addr % 64))),
    mask := BitVec.ofNat 64 ((2 ^ n - 1) * 2 ^ (addr % 64)), sth := false, tdma := false, cq := false, cls := 0, rst := none }

/-- The granules of a deferred set (R314): its writes, merged; each arrival with its value; each scatter update with its
value (log 32). -/
def Ctx.deferredEntries (x : Ctx) : List DefWrite :=
  mergeAll x.deferred ++ (x.arrivals.map fun (a : DefArrival) => granuleOf a.addr.toNat 8 a.value.toNat) ++
  x.deferScat.flatten.map fun e => granuleOf ((e.cfg.base.toNat + (if e.cfg.wide then 16 else 4) * e.cell) % 2 ^ 64) (if e.cfg.wide then 16 else 4) e.value

/-- The region signature of a member (R324). -/
def State.signature (s : State) (d c : Nat) : BitVec 256 :=
  let x := s.ctx d c
  let lines := (x.before.foldr insertBefore []).flatMap fun b =>
    bytesOfNat 8 (64 * b.line) ++ bitBytes 64 ((s.die d).line b.store b.line)
  let writes := (x.deferredEntries.foldr insertWrite []).flatMap fun w =>
    bytesOfNat 8 w.addr ++ bitBytes 8 w.mask ++ bitBytes 64 w.data
  BitVec.ofNat 256 (natOfBytes (shake256 (lines ++ writes ++ s.shadowBytes d c) 32))

end Sys2Proof.Machine
end

