-- ==== Sys2Proof/Machine/Statics.lean ====
section
/-!
DEFINITION. What proofing knows of an instruction without running it (02 R64, R65, 03 Tables 3-2 to 3-9, 12 R322): its
fixed-latency results, the registers it reads, how it continues, and what it occupies.
-/

namespace Sys2Proof

/-- The destination of a fixed-latency result: registers under their names, a bank write, or any other state that R37 does not
compare. -/
inductive Dest where
  | s (n : Nat)
  | q (n : Nat)
  | v (c n : Nat)
  | p (c n : Nat)
  | a (n : Nat)
  | bank
  | other
  deriving DecidableEq, Repr

/-- The latency of a vector operation by its format (Table 3-4). -/
def Fmt.latency (f : Fmt) (i x : Nat) : Nat := if f.isFloat then x else i

/-- A vector result in every cluster of a slot. -/
def vOut (h : Hdr) (lat : Nat) (d : BitVec 6) : List (Nat × Dest) := h.clusters.map fun c => (lat, .v c d.toNat)

/-- A predicate result in every cluster of a slot; p0 takes none (R22). -/
def pOut (h : Hdr) (lat : Nat) (d : BitVec 6) : List (Nat × Dest) :=
  if d = 0 then [] else h.clusters.map fun c => (lat, .p c d.toNat)

/-- A vector result of a full register of the eight clusters. -/
def vAll (lat : Nat) (d : BitVec 6) : List (Nat × Dest) := (List.range 8).map fun c => (lat, .v c d.toNat)

/-- A scalar result, and a scalar predicate result; q0 takes none (R19). -/
def sOut (lat : Nat) (d : BitVec 6) : List (Nat × Dest) := [(lat, .s d.toNat)]
def qOut (lat : Nat) (d : BitVec 6) : List (Nat × Dest) := if d = 0 then [] else [(lat, .q d.toNat)]

/-- The latency of MMA and MMAZ (R214). -/
def Tile.latency (o : Tile) : Nat := 20 + (o.n.toNat + 1) + o.cap.toNat

/-- The fixed-latency results of an instruction with their latencies; those of an indexed push enter queues and are not among
them. -/
def Instr.results : Instr → List (Nat × Dest)
  | .add _ o | .sub _ o | .sel _ o | .min _ o | .max _ o | .minn _ o | .maxn _ o | .and _ o | .or _ o | .xor _ o
  | .andn _ o | .orn _ o | .shl _ o | .shr _ o | .shra _ o | .rotl _ o | .clz _ o | .popc _ o => sOut 1 o.d
  | .addi _ o | .li _ o | .lih _ o | .bfx _ o | .bfi _ o => sOut 1 o.d
  | .cmp _ o => qOut 1 o.d
  | .mul _ o | .mulh _ o | .mulhn _ o | .madd _ o => sOut 3 o.d
  | .divs _ o | .divn _ o | .rems _ o | .remn _ o => sOut 18 o.d
  | .fadd _ o | .fmul _ o | .fcvt _ o => sOut 4 o.d
  | .fma _ o => sOut 5 o.d
  | .fdiv _ o => sOut 16 o.d
  | .fcmp _ o => qOut 2 o.d
  | .lds _ o => sOut 4 o.d
  | .sts _ _ => [(4, .bank)]
  | .call _ o => sOut 1 o.x
  | .waitb _ o | .rdsr _ o => sOut 1 o.d
  | .vadd h o | .vsub h o | .vmin h o | .vmax h o => vOut h (o.fmt.latency 2 4) o.d
  | .vmul h o | .vmulh h o | .vmulw h o | .vcvt h o | .vrndi h o => vOut h 4 o.d
  | .vfma h o | .vfms h o => vOut h 5 o.d
  | .vabs h o | .vneg h o | .vand h o | .vor h o | .vxor h o | .vandn h o | .vshl h o | .vshr h o | .vshra h o | .vclz h o
  | .vpopc h o | .vsel h o | .vbcs h o | .pcnt h o => vOut h 2 o.d
  | .vaddi h o | .vmovi h o | .vidx h o => vOut h 2 o.d
  | .vcmp h o => pOut h (o.fmt.latency 2 4) o.d
  | .vcmpi h o => pOut h 2 o.d
  | .vcswp h o => vOut h (o.fmt.latency 2 4) o.d ++ vOut h (o.fmt.latency 2 4) o.z
  | .vshuf h o => vOut h 3 o.d
  | .vxcp h o => vOut h 3 o.d
  | .vqblk h o => vOut h 10 o.d
  | .vdq h o => vOut h 6 o.d
  | .vsf h o => vOut h 12 o.d
  | .pand h o | .por h o | .pxor h o | .pnot h o | .pfirst h o => pOut h 1 o.d
  | .pmov h o => if o.sub.toNat % 4 = 1 then vOut h 1 o.d else pOut h 1 o.d
  | .pset h o => pOut h 1 o.d
  | .racc _ o | .rcmb _ o => [(6, .a o.d.toNat)]
  | .rsum _ o | .rmax _ o | .rmin _ o | .rargmax _ o => [(9, .a o.d.toNat)]
  | .rscan _ o | .rseg _ o => vAll 11 o.d ++ [(11, .a o.z.toNat)]
  | .rdrn _ o => if bit 3 o.sub.toNat then vAll 4 o.d else [(4, .v (o.sub.toNat % 8) o.d.toNat)]
  | .rclr _ o => [(1, .a o.d.toNat)]
  | .ixpop _ o => vAll 2 o.d
  | .ixcnt _ o | .sacfgStat _ o => sOut 1 o.d
  | .tlook _ o | .tlookRead _ o => sOut 4 o.d
  | .tset _ _ | .tclr _ _ | .tclrAll _ _ => [(4, .other)]
  | .sacfgSet _ _ | .sacfgClr _ _ => [(1, .other)]
  | .nrd _ o | .nrdl _ o => vAll 8 o.d
  | .nwr _ _ | .nwrl _ _ | .nfill _ _ | .nrecv _ _ => [(6, .bank)]
  | .ncopy _ _ => [(10, .bank)]
  | .trace _ o => sOut 24 o.b ++ [(24, .q 7), (24, .other)] ++
      (if o.sub = 0 then [] else (List.range 8).map fun c => (24, .p c o.sub.toNat))
  | .mwb _ _ => [(12, .other)]
  | .mldw _ _ => [(32, .other)]
  | .mma _ o | .mmaz _ o | .mmaF64 _ o => [(o.latency, .other)]
  | .mclr _ _ => [(4, .other)]
  | .mcopy _ _ => [(16, .other)]
  | .mfree _ _ | .mfreeLatch _ _ => [(1, .other)]
  | .mst _ o => [(8 + 16 * (o.nrg.toNat + 1), .bank)]
  | .mqst _ o => [(10 + 16 * (o.nrg.toNat + 1), .bank)]
  | .mstat _ o => sOut 1 o.b
  | .msel _ _ => [(8, .other)]
  | .mscld _ _ => [(6, .other)]
  | .oqpop _ o | .ttsel _ o | .resync _ o => sOut 1 o.d
  | _ => []

/-- Scalar registers that an instruction writes when a promise completes. -/
def Instr.promisedS : Instr → List Nat
  | .ldh _ o => [o.d.toNat]
  | .aadd _ o | .ainc _ o | .acas _ o | .axchg _ o => [o.d.toNat]
  | .cqpost _ o => [o.d.toNat]
  | _ => []

/-- Scalar registers that an instruction reads; an unused field names s0, which R322 leaves out. -/
def Instr.readsS (i : Instr) : List Nat :=
  match i, i.operands with
  | .vbcs _ o, _ => [o.x.toNat]
  | .trace _ _, _ => []
  | .call _ _, _ => []
  | .ixpush _ o, _ => [o.y.toNat]
  | .scat _ _, _ => []
  | .nrd _ o, _ | .nrdl _ o, _ | .nwr _ o, _ | .nwrl _ o, _ => [o.b.toNat]
  | .mstat _ _, _ => []
  | .ldh _ o, _ | .lds _ o, _ | .addi _ o, _ | .li _ o, _ | .bfx _ o, _ => [o.x.toNat]
  | .ixcnt _ _, _ | .ixpop _ _, _ | .sacfgStat _ _, _ => []
  | .tlook _ o, _ | .tlookRead _ o, _ => [o.x.toNat]
  | .oqpop _ _, _ => []
  | .cqpost _ o, _ | .resync _ o, _ | .ttsel _ o, _ => [o.x.toNat, o.y.toNat]
  | _, some (.rrr o) => [o.x.toNat, o.y.toNat, o.z.toNat]
  | _, some (.ri o) => [o.x.toNat, o.d.toNat]
  | _, some (.branch o) => [o.x.toNat, o.y.toNat]
  | _, some (.sys o) => [o.x.toNat]
  | _, some (.net o) => [o.b.toNat, o.d.toNat]
  | _, some (.idx o) => [o.x.toNat, o.d.toNat]
  | _, some (.tile o) => [o.b.toNat]
  | _, some (.tileSt o) => [o.b.toNat]
  | _, some (.scale o) => [o.b.toNat]
  | _, some (.xfer o) => [o.x.toNat, o.y.toNat, o.z.toNat, o.d.toNat]
  | _, _ => []

/-- One field read in every cluster of a slot, and in all eight. -/
def vIn (h : Hdr) (fs : List (BitVec 6)) : List (Nat × Nat) := h.clusters.flatMap fun c => fs.map fun n => (c, n.toNat)
def vInAll (fs : List (BitVec 6)) : List (Nat × Nat) := (List.range 8).flatMap fun c => fs.map fun n => (c, n.toNat)

/-- Vector registers that an instruction reads: cluster and name. -/
def Instr.readsV : Instr → List (Nat × Nat)
  | .vadd h o | .vsub h o | .vmul h o | .vmulh h o | .vmin h o | .vmax h o | .vmulw h o | .vand h o | .vor h o | .vxor h o
  | .vandn h o | .vshl h o | .vshr h o | .vshra h o | .vcmp h o | .vcswp h o | .vsel h o => vIn h [o.x, o.y]
  | .vfma h o | .vfms h o => vIn h [o.x, o.y, o.z]
  | .vabs h o | .vneg h o | .vclz h o | .vpopc h o | .vcvt h o | .vrndi h o | .vsf h o | .vdq h o => vIn h [o.x]
  | .vaddi h o | .vcmpi h o | .vqblk h o => vIn h [o.x]
  | .vxcp _ o => vInAll [o.x]
  | .vshuf h o => vIn h (if o.sub = 5 ∨ o.sub = 6 then [o.x] else [o.x, o.y])
  | .pmov h o => if o.sub.toNat % 4 = 2 then vIn h [o.x] else []
  | .racc _ o => vInAll [o.x]
  | .rsum _ o | .rmax _ o | .rmin _ o | .rargmax _ o => if bit 0 o.sub.toNat then [] else vInAll [o.x]
  | .rscan _ o | .rseg _ o => vInAll [o.x]
  | .ixpush _ o => vInAll [o.x]
  | .scat _ o => vInAll [o.d, o.x]
  | .nwr _ o | .nwrl _ o => vInAll [o.d]
  | .trace _ o => vInAll [o.d]
  | _ => []

/-- A result that writes every byte of its register whatever the values are. -/
def Instr.whole : Instr → Bool
  | .vcvt _ _ | .vcswp _ _ | .nrd _ _ | .nrdl _ _ => false
  | _ => true

/-- A slot that is not guarded (R57): its guard is p0 or q0. -/
def Instr.unguarded (i : Instr) : Bool := match i.hdr with | some h => h.g == 0 | none => true

/-! ### How an instruction continues (R64, R125–R127, R135) -/

/-- Where control goes after an instruction that is not guarded off. -/
inductive Flow where
  | on
  | toEnd (off : Int)
  | either (off : Int)
  | loop (off : Int)
  | any
  | stop
  deriving DecidableEq, Repr

/-- The continuation of an instruction. -/
def Instr.flow : Instr → Flow
  | .br _ o | .call _ o => .toEnd (8 * o.value)
  | .brc _ o => .either (8 * o.value)
  | .loop _ o => .loop (8 * o.value)
  | .ret _ _ | .jmpi _ _ => .any
  | .exit _ _ | .exits _ _ | .rett _ _ | .trap _ _ => .stop
  | _ => .on

/-- EXIT and EXITS, which end a region. -/
def Instr.endsRegion : Instr → Bool
  | .exit _ _ | .exits _ _ => true
  | _ => false

/-- An instruction that a guarded region must not contain (R39, R185). -/
def Instr.exposedOnly : Instr → Bool
  | .send _ _ | .recv _ _ | .tdmaIn _ _ | .tdmaOut _ _ | .xpose _ _ | .xred _ _ | .nsend _ _ | .nrecv _ _ | .npass _ _ => true
  | _ => false

/-- The steps of an A-operand stream (R213). -/
def Instr.streamSteps : Instr → Option Nat
  | .mma _ o | .mmaz _ o | .mmaF64 _ o =>
    some (if o.fa.width = 4 ∧ o.fb.width = 4 then (o.n.toNat + 2) / 2 else o.n.toNat + 1)
  | _ => none

/-- MST and MQST: the steps for which they hold their NW quarter (Table 3-10). -/
def Instr.storeSteps : Instr → Option Nat
  | .mst _ o => some (8 + 16 * (o.nrg.toNat + 1))
  | .mqst _ o => some (10 + 16 * (o.nrg.toNat + 1))
  | _ => none

/-- The network plates that an instruction names by number, and its select plate (R184, R205, R209, R212). -/
def Instr.networkPlates : Instr → List Nat
  | .nrd _ o | .nwr _ o | .nwrTile _ o | .nfill _ o | .nsend _ o | .nrecv _ o | .npass _ o | .mwb _ o => [o.pl.toNat]
  | .ncopy _ o => [o.pl.toNat, o.pl.toNat + 1]
  | _ => []
def Instr.selectPlate? : Instr → Option Nat
  | .mldw h o | .mma h o | .mmaz h o | .mmaF64 h o | .msel h o => if o.sp then some (o.selectPlate h) else none
  | _ => none

/-- A tile instruction whose select plate must keep 32 of 64: a block format (R205, R212). -/
def Instr.needs32 : Instr → Bool
  | .mldw _ o | .mma _ o | .mmaz _ o => o.fb.inHB
  | _ => false

end Sys2Proof
end

