-- ==== Sys2Proof/Machine/Checkpoint.lean ====
section
/-!
DEFINITION. Checkpoints (R307–R309), rollback and re-base (R315, R317, R320), handlers (R319), the double rerun (R323), the
pre-empted save (R326).
-/

namespace Sys2Proof.Machine

/-! ### Places in a program -/

/-- The issue group at a context's PC. -/
def State.groupAt (s : State) (d c : Nat) : Option Group :=
  let pc := (s.ctx d c).arch.pc.toNat
  if pc % 8 ≠ 0 then none else decodeGroup ((s.code d c).drop (pc / 8))

/-- The slot words of bundles with their places, counted in words from the start of the code segment. -/
def slotPlaces : Nat → List Bundle → List (Nat × SlotWord)
  | _, [] => []
  | off, b :: bs => (b.slots.mapIdx fun i w => (off + 1 + i, w)) ++ slotPlaces (off + b.size) bs

/-- Insertion in ascending class. -/
def insertPlace (x : Nat × SlotWord) : List (Nat × SlotWord) → List (Nat × SlotWord)
  | [] => [x]
  | y :: ys => if x.2.cls.toNat < y.2.cls.toNat then x :: y :: ys else y :: insertPlace x ys

/-- The slot words of the group at a context's PC in ascending class, each with its place. -/
def State.slotsAt (s : State) (d c : Nat) : List (Nat × SlotWord) :=
  let at_ := (s.ctx d c).arch.pc.toNat / 8
  match takeGroup 3 ((s.code d c).drop at_) with
  | some bs => (slotPlaces at_ bs).foldr insertPlace []
  | none => []

/-- The instruction of a slot word on a die. -/
def slotInstr (d : Nat) (w : SlotWord) : Option Instr :=
  match decodeSlot (kindOf d) true w.cls w.word w.ext with
  | .ok i => some i
  | .error _ => none

/-- The index of the checkpoint group at an offset (R307). -/
def State.ckIndex (s : State) (d c : Nat) (pc : Nat) : Nat :=
  match (checkpointOffsets (s.code d c)).idxOf? pc with
  | some i => i + 1
  | none => 0

/-- The entry offset of a program. -/
def entryOffset (img : List Byte) (prog : Nat) : Nat := descriptorOf img prog 4 4

/-- The group that checkpoint index k names: 0 the entry group (R307). -/
def State.ckTarget (s : State) (d c k : Nat) : Nat :=
  if k = 0 then entryOffset (s.imageBytes (s.ctx d c).image) (s.ctx d c).prog
  else (checkpointOffsets (s.code d c)).getD (k - 1) 0

/-! ### Capture (R309) -/

/-- The owned array groups of a context as they stand. -/
def State.ownGroups (s : State) (d c : Nat) : List (Nat × TileGroup) :=
  ((List.range 4).filter fun g => 4 ≤ d && (s.ctx d c).groups.getLsbD g).map fun g => (g, tget (s.die d).groups g default)

/-- The duplicate map of the region that a checkpoint index begins (R322). -/
def State.dupMap (s : State) (d c ix : Nat) : List (Nat × Nat × Nat) :=
  match s.image? (s.ctx d c).image with
  | some i => (i.dupMaps.filter fun m => m.1 == (s.ctx d c).prog && m.2.1 == ix).map (·.2.2)
  | none => []

/-- Each spare takes a copy of its live register. -/
def Ctx.mirror (x : Ctx) : Ctx :=
  x.dup.foldl (fun x p =>
    if p.1 = 0 then { x with arch := x.arch.setS p.2.2 (tget x.arch.s p.2.1 0) }
    else { x with arch := x.arch.setV (p.1 - 1) p.2.2 (x.arch.vphys (p.1 - 1) p.2.1) (BitVec.allOnes 128) }) x

/-- The shadowed state of a context is captured, and the spares of the new region are set. -/
def State.capture (s : State) (d c ix : Nat) : State :=
  let gs := s.ownGroups d c
  let dup := s.dupMap d c ix
  s.modCtx d c fun x => Ctx.mirror
    { x with ckpt := x.arch, ckptGroups := gs, ckptUnjoined := x.unjoined, ckptNonEmpty := x.nonEmpty, dup := dup }

/-- CKID names the checkpoint group at the PC, and counts its commit (R309 step 3). -/
def State.markCommit (s : State) (d c : Nat) : State :=
  s.modArch d c fun a => { a with ckix := BitVec.ofNat 24 (s.ckIndex d c (s.ctx d c).arch.pc.toNat), commits := a.commits + 1 }

/-- The commit of one member (R309): release, free, CKID, capture; its checkpoint group then issues. -/
def State.commitMember (s : State) (d c : Nat) : State :=
  let s := (s.endRegion d c).markCommit d c
  (s.capture d c (s.ckIndex d c (s.ctx d c).arch.pc.toNat)).modCtx d c fun x => { x with committed := true, held := 0 }

/-- The members of a gang that have not exited. -/
def State.liveMembers (s : State) (g : Gang) : List Member := g.members.filter fun m => (s.ctx m.die m.ctx).run != .exited

/-- Requests that wait for a commit take effect (R309 step 5): STOP ends the gang, a pre-emption stops its members. -/
def State.asyncRequests (s : State) (gid : Nat) : State :=
  match s.gang? gid with
  | none => s
  | some g =>
    if g.stop then s.soon (.ev (.gangAbort gid .outside))
    else if g.preempt.isSome ∨ g.offline then
      let s := s.modGang gid fun x => { x with state := .preempting }
      (s.liveMembers g).foldl (fun s m => s.modCtx m.die m.ctx fun x => { x with run := .stopped }) s
    else s

/-- A member stands at a checkpoint group that has not committed. -/
def State.atCk (s : State) (m : Member) : Bool :=
  let x := s.ctx m.die m.ctx
  x.run == .running && !x.committed && x.idleLeft == 0 && (m.ctx != 0 || x.nonEmpty < Config.idleInsertion) &&
  match s.groupAt m.die m.ctx with
  | some g => g.ck
  | none => false

/-- CHECKPOINT_COMMIT (R308, R309): every member of the package that has not exited commits in this count. -/
def execCheckpointCommit (gid : Nat) (s : State) : Res :=
  match s.gang? gid with
  | none => .next s
  | some g =>
    let ms := s.liveMembers g
    if g.state ≠ .running ∨ ms.isEmpty ∨ !(ms.all s.atCk) then .next s
    else
      let s := ms.foldl (fun s m => s.commitMember m.die m.ctx) s
      let s := s.modGang gid fun x =>
        { x with ckNum := x.ckNum + 1, gck := (s.bel + 2 ^ 64 - x.gbase) % 2 ^ 64, tries := 0, rerun := 0, rerunSigs := [] }
      .next (s.asyncRequests gid)

/-! ### Restore (R315 step 2) -/

/-- Dated work of a context that its rollback cancels. -/
def Micro.ofRegion (d c : Nat) : Micro → Bool
  | .elem a b _ _ => a == d && b == c
  | .ev (.ixElementReturn a b _ _) => a == d && b == c
  | .ev (.aqEntryIssue a b) => a == d && b == c
  | .ev (.scatterWindowPerform a b _) => a == d && b == c
  | .ev (.oqEntryPoppable a b _) => a == d && b == c
  | _ => false

/-- A context awaits an elastic reply for its region. -/
def Awaits.ofRegion (d c : Nat) : Awaits → Bool
  | .req a b _ => a == d && b == c
  | .gran a b _ _ => a == d && b == c
  | .elem a b _ _ => a == d && b == c
  | .wait a b => a == d && b == c
  | _ => false

/-- A captured array group is put back; its power is not part of it. -/
def restoreGroup (old new : TileGroup) : TileGroup := { new with powered := old.powered, unowned := old.unowned }

/-- A read that had not returned leaves the staging; the others will be served again (R313). -/
def restartStaging (l : List Staged) : List Staged :=
  (l.filter fun e => e.value.isSome).map fun (e : Staged) => { e with used := false }

/-- One member returns to the common checkpoint; the trap registers are not among what returns (R46). -/
def State.restoreMember (s : State) (d c : Nat) : State :=
  let x := s.ctx d c
  let s := s.modDie d fun y => x.before.foldl Die.putLine y
  let s := s.modDie d fun y => { y with groups := x.ckptGroups.foldl (fun gs p => tmod gs p.1 fun old => restoreGroup old p.2) y.groups }
  let s := { s with
    calendar := s.calendar.filter fun (e : Dated) => !e.what.ofRegion d c
    elastic := s.elastic.filter fun (e : Elastic) => !e.who.ofRegion d c
    colls := s.colls.filter fun (y : Coll) => !(y.die == d && y.ctx == c)
    sends := s.sends.filter fun (y : SendState) => !(y.fromDie == d && y.fromCtx == c && y.data.length < y.n) }
  let s := s.modDie d fun y => { y with slotq := y.slotq.filter fun t => !x.reqs.any fun r => r.grans.any fun g => g.slot == some t && !g.done }
  s.modCtx d c fun x => Ctx.mirror
    { x with arch := { x.ckpt with trapCause := x.arch.trapCause, trapStep := x.arch.trapStep, trapInfo := x.arch.trapInfo },
             held := 0, regionSteps := 0, nonEmpty := x.ckptNonEmpty, idleLeft := 0, stepped := false,
             atCkpt := false, atResync := none, resynced := none, waitCount := 0, waitReq := none, waitReply := none,
             waitFault := none, reqs := [], deferred := [], arrivals := [], deferScat := [], before := [],
             staging := restartStaging x.staging, atomPos := 0, unjoined := x.ckptUnjoined,
             posted := x.posted.filter fun p => p.2.2, taken := [], takes := [] }

/-- The ready count (R315 step 3). -/
def Gang.readyCount (g : Gang) (lines : Nat) : Nat := g.faultAt + 64 + ceilDiv lines 16 + (if g.others = 0 then 0 else 4096)

/-- The class of a rollback: handler before automatic (R320). -/
def State.rollbackClass (s : State) (g : Gang) : TrapClass :=
  if g.members.any fun m => match m.trap with | some t => s.effectiveClass m.die t.code == .handler | none => false then .handler
  else .automatic

/-- No member here faulted, and the member elsewhere that did has a cause of class H: its handler is awaited (R319). -/
def Gang.farHandler (g : Gang) : Bool :=
  g.others != 0 && (g.members.all fun m => m.trap.isNone) && g.cause.any fun t => causeClass t.code == .handler

/-- What the dump of a gang may have to show: its members at the stop (R315 step 1, R331). -/
def State.keepStops (s : State) (g : Gang) : State :=
  let l := g.members.map fun m =>
    ((m.die, m.ctx), (s.ctx m.die m.ctx).arch, (List.range 4).map fun i => (i, tget (s.die m.die).groups i default))
  s.modGang g.id fun x => { x with stops := l }

/-- A member of the gang took a soft error. -/
def Gang.softError (g : Gang) : Bool :=
  g.members.any fun m => match m.trap with | some t => t.code == Cause.softError | none => false

/-- The gang's members are restored; the traps are recorded; recovery goes on by class (R315 steps 2 to 5, R323). -/
def State.restoreGang (s : State) (gid : Nat) : State :=
  match s.gang? gid with
  | none => s
  | some g =>
    if g.state ≠ .rollback then s
    else
      let ms := s.liveMembers g
      let trapped := g.members.any fun m => m.trap.isSome
      let lines := (ms.map fun m => (s.ctx m.die m.ctx).before.length).foldl max 0
      -- before-images of members elsewhere, and a handler that one of them waits for (log 35)
      let (far, s) := s.freeBelow (if g.others = 0 then 1 else 16385)
      let (late, s) := if g.farHandler then (Config.freeNat s.free, { s with free := s.free + 1 }) else (0, s)
      let rdy := g.readyCount (max lines far) + late
      let s := s.keepStops g
      let s := ms.foldl (fun s m => s.restoreMember m.die m.ctx) s
      let s := ms.foldl (fun s m => match m.trap with
        | some t => s.modArch m.die m.ctx fun a => a.recordTrap t m.trapStep false m.second
        | none => s) s
      let s := s.modGang gid fun x => { x with readyAt := rdy, members := x.members.map fun (m : Member) => { m with restored := true } }
      match s.rollbackClass g with
      | .handler =>
        let s := s.modGang gid fun x => { x with rerun := 0, rerunSigs := [] }
        (ms.filter fun m => m.trap.isSome).foldl (fun s m =>
          s.scheduleBel rdy phStart (.ev (.handlerStart m.die m.ctx))) s
      | _ =>
        let at_ := g.resumeCount rdy
        let rerun := if g.softError ∨ (trapped ∧ g.rerun ≠ 0) then 1 else g.rerun
        (s.modGang gid fun x =>
          { x with resumeAt := some at_, rerun := rerun, rerunSigs := if trapped then [] else x.rerunSigs }).scheduleBel at_ phStart
            (.ev (.rollbackResume gid))

/-! ### Resume (R315 step 5) -/

/-- The slots of carried frames move with the gang's periods: those still to come are kept. -/
def shiftCarried (l : List (Nat × Nat × Nat)) (slots now : Nat) : List (Nat × Nat × Nat) :=
  (l.filter fun x => slots + now ≤ x.2.1).map fun x => (x.1, x.2.1 - slots, x.2.2)

/-- Operand-queue entries become poppable after the same counts from the resume as from the capture, under the GBASE of the capture
(R254): the periods added since it move them. -/
def State.shiftOq (s : State) (d c gb : Nat) : State :=
  let m := (gb + 2 ^ 64 - (s.ctx d c).ckpt.gbase.toNat) % 2 ^ 64
  let s := s.modArch d c fun a => { a with oq := a.oq.map fun (e : OqEntry) =>
    if e.poppable then e else { e with ready := e.ready + m } }
  ((s.ctx d c).arch.oq.filter fun e => !e.poppable).foldl (fun s e =>
    s.scheduleBel e.ready phStart (.ev (.oqEntryPoppable d c e.id))) s

/-- A member issues its checkpoint group again, or the one that its handler named. -/
def State.resumeMember (s : State) (m : Member) (gb ckNum : Nat) (clear : Bool) : State :=
  let d := m.die
  let c := m.ctx
  let pc := match m.resumeAt with
    | some k => BitVec.ofNat 64 (s.ckTarget d c k)
    | none => (s.ctx d c).arch.pc
  let again := match m.resumeAt with
    | some k => k != 0
    | none => ckNum != 0
  let s := s.modArch d c fun a =>
    { a with gbase := BitVec.ofNat 64 gb, pc := pc,
             trapCause := if clear then a.trapCause &&& ~~~((1 : Word) <<< 63) else a.trapCause }
  let s := s.modCtx d c fun x => { x with run := .running, committed := again }
  (s.resumeQueues d c).shiftOq d c gb

/-- ROLLBACK_RESUME (R315): at C every member reissues, GBASE being C − Gck. -/
def execRollbackResume (gid : Nat) (s : State) : Res :=
  match s.gang? gid with
  | none => .next s
  | some g =>
    if g.state ≠ .rollback ∨ g.resumeAt ≠ some s.bel then .next s
    else
      let gb := (s.bel + 2 ^ 64 - g.gck) % 2 ^ 64
      let shift := (gb + 2 ^ 64 - g.gbase) % 2 ^ 64
      let clear := s.rollbackClass g != .handler && !g.farHandler
      let s := (s.liveMembers g).foldl (fun s m => s.resumeMember m gb g.ckNum clear) s
      .next (s.modGang gid fun x =>
        { x with state := .running, gbase := gb, resumeAt := none, first := none, stops := [],
                 carried := shiftCarried x.carried (shift / 64) ((s.bel + 2 ^ 64 - x.gbase) % 2 ^ 64 / 64),
                 members := x.members.map fun (m : Member) =>
                   { m with trap := none, stopAt := none, restored := false, handled := false, resumeAt := none } })

/-! ### Handlers (R319) -/

/-- The program of an image that suits a die. -/
def programFor (img : List Byte) (d : Nat) : Nat :=
  ((List.range (natAt img 7 1)).find? fun p => programKind img p == kindOf d).getD 0

/-- The plates of a program of an image: number and bytes (Table 2-15). -/
def platesFrom (size : Nat) : Nat → List Byte → List (Nat × Plate4)
  | 0, _ => []
  | n + 1, bs =>
    if bs.isEmpty then []
    else (bits 11 0 (natAt bs 0 8), BitVec.ofNat 32768 (natOfBytes ((bs.drop 8).take size))) :: platesFrom size n (bs.drop (8 + size))

/-- The plates of a program of an image for its die type: those of all its plate segments (R69). -/
def imagePlates (img : List Byte) (prog : Nat) : List (Nat × Plate4) :=
  (segmentsOf img 2 prog).flatMap fun seg => match programKind img prog with
    | .v => platesFrom 1024 (seg.length / 1032) seg
    | .m => platesFrom 4096 (seg.length / 4104) seg

/-- The captured part of a context at a fresh start (Table 1-17). -/
def Arch.fresh (args : List Word) (seed : Word) (entry : Nat) (gbase : Nat) (bg : Bool) (base limit : Nat) : Arch :=
  { (default : Arch) with
    pc := BitVec.ofNat 64 entry
    s := Vector.ofFn fun i => args.getD i.val 0
    seed := seed
    gbase := BitVec.ofNat 64 gbase
    guarded := bg
    bwinBase := BitVec.ofNat 28 base
    bwinLimit := BitVec.ofNat 28 limit }

/-- HANDLER_START (R319): the handler image's entry group issues in the die's handler context, in exposed mode, with the served
context's window, GBASE and ASID, and neither array groups nor a tag window (log 33); while the context serves another, it waits.
A member of class A on a die with no handler image waits for none (R318). -/
def execHandlerStart (d c : Nat) (s : State) : Res :=
  match s.gangOf d c, s.handlerOf d with
  | some g, some h =>
    if g.state ≠ .rollback then .next s
    else if (s.ctx d 2).run ≠ .absent then .next (s.schedule (s.now + 1) phStart (.ev (.handlerStart d c)))
    else
      let v := s.ctx d c
      let img := s.imageBytes h
      let prog := programFor img d
      .next (s.modCtx d 2 fun x => { (default : Ctx) with
        run := .running, image := h, prog := prog, gang := g.id, member := v.member, asid := v.asid, served := c,
        plates := imagePlates img prog, steps := x.steps,
        arch := Arch.fresh [] 0 (entryOffset img prog) v.arch.gbase.toNat false v.arch.bwinBase.toNat v.arch.bwinLimit.toNat })
  | some g, none => .next (if g.state = .rollback then s.handledMember g d c none else s)
  | none, _ => .next s

/-! ### The double rerun (R322, R323) -/

/-- What each live member records at the end of a rerun: die, steps, signature. -/
def State.rerunRecord (s : State) (g : Gang) : List (Nat × Nat × BitVec 256) :=
  (s.liveMembers g).map fun m => (m.die, (s.ctx m.die m.ctx).regionSteps, (s.markCommit m.die m.ctx).signature m.die m.ctx)

/-- A rollback of a gang that no trap started: every member stops at once. -/
def State.rollbackAgain (s : State) (g : Gang) : State :=
  let s := (s.liveMembers g).foldl (fun s m => s.modCtx m.die m.ctx fun x => { x with run := .stopped }) s
  let s := s.countRollback g
  s.modGang g.id fun x =>
    { x with state := .rollback, faultAt := s.bel, tries := x.tries + 1, resumeAt := none, stops := [],
             members := x.members.map fun (m : Member) =>
               { m with trap := none, stopAt := some s.bel, handled := false, resumeAt := none, restored := false } }

/-- RERUN_CHECKPOINT (R323): rerun 1 records and rolls back; rerun 2 is compared with it, and commits or retires. -/
def execRerunCheckpoint (gid : Nat) (s : State) : Res :=
  match s.gang? gid with
  | none => .next s
  | some g =>
    if g.state ≠ .running then .next s
    else
      let now := s.rerunRecord g
      if g.rerun = 1 then
        if 4 ≤ g.tries then
          match g.members with
          | m :: _ => .next (s.abortByTrap g m.die m.ctx (g.cause.getD default))
          | [] => .next s
        else
          let s := s.modGang gid fun x => { x with rerun := 2, rerunSigs := now }
          .next (s.rollbackAgain g)
      else
        let bad := now.filter fun r => !g.rerunSigs.contains r
        match bad with
        | [] => .next ((s.modGang gid fun x => { x with rerun := 0 }).soon (.ev (.checkpointCommit gid)))
        | (d, _, _) :: _ =>
          let mask : BitVec 10 := bad.foldl (fun (v : BitVec 10) (r : Nat × Nat × BitVec 256) => v ||| ((1 : BitVec 10) <<< r.1)) 0
          let s := { s with retired := s.retired ||| mask, svc := s.svc &&& ~~~mask,
                            retiredFor := s.retiredFor ++ bad.map fun (r : Nat × Nat × BitVec 256) => (r.1, (g.cause.map fun (t : Trap) => t.code).getD 0) }
          let c := ((g.members.find? fun m => m.die == d).map (·.ctx)).getD 0
          .next (s.abortByTrap g d c { code := Cause.dieRetired, info := d, cls := 0, clus := none })

/-- An instruction reads the scalar (kind 0) or vector (kind 1) register of a number. -/
def readsReg (kind num : Nat) (i : Instr) : Bool :=
  if kind = 0 then i.readsS.contains num else kind = 1 && i.readsV.any fun p => p.2 == num

/-- Classes of the group at the PC whose slots read a scalar or vector register, ascending. -/
def State.readers (s : State) (d c kind num : Nat) : List Nat :=
  (s.slotsAt d c).filterMap fun p => (slotInstr d p.2).bind fun i => if readsReg kind num i then some p.2.cls.toNat else none

/-- The class that meets a detected error (R46): the lowest of the group's slots that read the register, and a free class for
what the group does not name, the other kinds of R322 and the banks (log 82, DESIGN CHOICE). -/
def State.errorSlot (s : State) (d c kind num : Nat) : Nat × State :=
  match s.readers d c kind num with
  | k :: _ => (k, s)
  | [] => s.freeBelow 16

/-- The cluster that CLUS names for a class (R46). -/
def slotClus (d k : Nat) : Option Nat := if d < 4 ∧ 2 ≤ k ∧ k ≤ 9 then some (k - 2) else none

/-- The trap of a detected error, with the slot that meets it (R46). -/
def State.takeError (s : State) (d c kind num code info : Nat) : State :=
  let (k, s) := s.errorSlot d c kind num
  s.takeTrap d c [{ code, info, cls := k, clus := slotClus d k }]

/-- SOFT_ERROR (R321, R322): a detected error that no spare repairs raises the trap of its context. -/
def execSoftError (d c kind num : Nat) (s : State) : Res :=
  if (s.ctx d c).run = .running then .next (s.takeError d c (kind % 16) (num % 256) Cause.softError (kind % 16 + num % 256 * 256))
  else .next s

/-- BANK_UNCORRECTABLE (R321): fatal to the gang of the context that meets it. -/
def execBankUncorrectable (d c addr : Nat) (s : State) : Res :=
  if (s.ctx d c).run = .absent then .next s else .next (s.takeError d c 16 0 Cause.bankUncorrectable addr)

/-! ### Pre-emption (R326) -/

/-- The ranges of a program's live-bank map in a store (Table 12-5). -/
def liveRanges (img : List Byte) (prog store : Nat) : List (Nat × Nat) :=
  let seg := match (segments img).find? fun g => g.1 == 7 with
    | some g => (img.drop g.2.2.1).take g.2.2.2
    | none => []
  (List.range (seg.length / 16)).filterMap fun i =>
    let n := natAt seg (16 * i) 16
    if bits 7 0 n = prog ∧ bits 8 8 n = store then some (bits 95 64 n, bits 127 96 n) else none

/-- The listed bytes of ranges of a memory. -/
def rangeBytes (m : Mem) (rs : List (Nat × Nat)) : List (Nat × Byte) :=
  rs.flatMap fun r => placeBytes r.1 (Mem.bytes m r.1 r.2)

/-- A group of which only the tiles and latches in use are kept; what is left out is as MFREE leaves it (R202, R326), but for the
busy bit and the step counter of a tile whose operation has not landed, which are saved with the context (R32, R221). -/
def TileGroup.inUse (x : TileGroup) : TileGroup :=
  let x := (List.range 8).foldl (fun x t => if (x.tileBits t).inuse then x else (x.zeroTile t).modBits t fun b =>
    if b.busy then { b with form := false } else default) x
  (List.range 4).foldl (fun x w => if (x.annexOf w).linuse then x else (x.zeroLatch w).modAnnex w fun _ => default) x

/-- The tags of a context's window. -/
def windowTags (x : Ctx) (t : SMap 128) : SMap 128 :=
  if x.ten then t.filter fun p => 4 * x.tbase ≤ p.1 && p.1 < 4 * (x.tbase + 2 ^ x.tlog) else []

/-- What a pre-emption saves of a member: its state as captured at the commit, a member that has exited as it is; its queue entries
have all arrived, and a later rollback finds them so. -/
def State.saveMember (s : State) (m : Member) : SavedMember :=
  let x := s.ctx m.die m.ctx
  let y := s.die m.die
  let img := s.imageBytes x.image
  let kept := { x.ckpt with aq := x.arch.aq, dq := x.arch.dq }
  let ctx := if x.run = .exited then { x with ckpt := kept } else { x with run := .stopped, arch := kept, ckpt := kept }
  { ix := m.ix, ctx := ctx, tags := windowTags x y.tags,
    groups := (s.ownGroups m.die m.ctx).map fun p => (p.1, p.2.inUse),
    bank := rangeBytes y.bank (liveRanges img x.prog 0), wbuf := rangeBytes y.wbuf (liveRanges img x.prog 1),
    frames := y.staging.filter fun f => f.gang == x.gang, marks := if m.ctx = 0 then y.marks else [] }

/-- Bytes that the save of a member takes (log 34). -/
def SavedMember.size (m : SavedMember) : Nat :=
  m.bank.length + m.wbuf.length + (m.frames.map fun f => f.data.length).sum +
  (if m.ctx.ten then 64 * 2 ^ m.ctx.tlog else 0) + 131072

end Sys2Proof.Machine
end

