-- ==== Sys2Proof/Machine/Gangs.lean ====
section
/-!
DEFINITION. The life of gangs and tasks (11 R283–R304, 05 R135, R136, 12 R326, R331): what a placement holds, the loading of
images, the start, pre-emption and its save, the end, successors, aborts, completions; and the power of array groups (R298).
-/

namespace Sys2Proof.Machine

/-! ### Member-table entries (Table 11-3) -/

def mAff (e : BitVec 128) : Nat := bits 7 0 e.toNat
def mGrp (e : BitVec 128) : Nat := bits 11 8 e.toNat
def mProg (e : BitVec 128) : Nat := bits 23 16 e.toNat
def mPkg (e : BitVec 128) : Nat := bits 33 24 e.toNat
def mTbase (e : BitVec 128) : Nat := bits 43 34 e.toNat
def mTlog (e : BitVec 128) : Nat := bits 47 44 e.toNat
def mTen (e : BitVec 128) : Bool := bit 48 e.toNat
def mBase (e : BitVec 128) : Nat := bits 91 64 e.toNat
def mLimit (e : BitVec 128) : Nat := bits 123 96 e.toNat

/-! ### Tasks and launches -/

def State.task? (s : State) (t : Nat) : Option Task := s.tasks.find? (·.id == t)
def State.launch? (s : State) (l : Nat) : Option Launch := s.launches.find? (·.id == l)

/-- Change of a task. -/
def State.modTask (s : State) (t : Nat) (f : Task → Task) : State :=
  { s with tasks := s.tasks.map fun x => if x.id = t then f x else x }

/-- The tasks of a launch. -/
def State.tasksOf (s : State) (l : Nat) : List Task := s.tasks.filter fun t => t.launch == l

/-- The mailbox command under way ends (R365): STATUS and VALUE, BUSY clear, vector 0. -/
def State.mailDone (s : State) (status value : Nat) : State :=
  { s with mres := (s.mres &&& 2) ||| BitVec.ofNat 64 (status % 2 ^ 8 * 2 ^ 8 + value % 2 ^ 48 * 2 ^ 16),
           mcmdNow := none }.msix (some 0)

/-! ### Writes of the dispatcher under a queue's ASID (R286) -/

/-- The die code of P0, whose port the dispatcher uses. -/
def portDie : Nat := 8

/-- A pending access of a queue. -/
def portPending (asid q : Nat) (after : List Nat) (note : List Micro) : Pending :=
  { (default : Pending) with die := portDie, asid := asid, after := after, queue := some q, note := note }

/-- An arrival at a barrier of a queue (R289). -/
def State.portArrive (s : State) (asid q : Nat) (after : List Nat) (addr v : Nat) (note : List Micro) : State :=
  s.addPending { portPending asid q after note with
    arrival := some { addr := BitVec.ofNat 64 addr, value := BitVec.ofNat 64 v, scope := .dom } }

/-- A write of at most one granule of a queue. -/
def State.portWrite (s : State) (asid q : Nat) (after : List Nat) (addr : Nat) (bs : List Byte) (note : List Micro) : State :=
  (granuleWrites false false false addr bs).foldl (fun s w =>
    s.addPending { portPending asid q after note with write := some w }) s

/-- A write of a queue's header or ring at once. -/
def State.portWriteNow (s : State) (asid q addr : Nat) (bs : List Byte) : State :=
  (granuleWrites false false false addr bs).foldl (fun s w =>
    let (id, s) := s.fresh
    let p : Pending := { portPending asid q [] [] with id := id, write := some w }
    { s with pendings := s.pendings ++ [p] }.performWrite p w) s

/-- The completion record of a launch or copy, STATUS last (R251, R289), after the given accesses. -/
def State.portRecord (s : State) (asid q cring clsz seq tag bytes cause status : Nat) (after : List Nat) (note : List Micro) :
    State :=
  let at_ := (cring + 32 * (seq % 2 ^ clsz)) % 2 ^ 64
  let first := s.nextId
  let s := s.portWrite asid q after at_ (bytesOfNat 8 bytes ++ bytesOfNat 8 tag ++ bytesOfNat 2 cause ++ bytesOfNat 6 0) []
  s.portWrite asid q (first :: after) (at_ + 24) (bytesOfNat 8 (status % 2 ^ 8 + seq % 2 ^ 32 * 2 ^ 32)) note

/-- TASK_COMPLETE (R289): the packet's and the records' arrivals, then the completion record; once its STATUS has performed
the launch is gone. -/
def execTaskComplete (l status cause : Nat) (s : State) : Res :=
  match s.launch? l with
  | none => .next s
  | some y =>
    if y.completing then
      .next { s with launches := s.launches.filter fun (x : Launch) => x.id != l, tasks := s.tasks.filter fun (t : Task) => t.launch != l }
    else
      let s := { s with launches := s.launches.map fun (x : Launch) => if x.id = l then { x with completing := true } else x }
      let s := match y.abar with
        | some a => s.portArrive y.asid y.queue [] a y.arrv []
        | none => s
      let s := match y.graph, s.tasksOf l with
        | none, t :: _ => if t.record.dbar = 0 then s else s.portArrive y.asid y.queue [] t.record.dbar t.record.darrv []
        | _, _ => s
      let arrivals := (s.pendings.filter fun p => p.queue == some y.queue && p.arrival.isSome).map fun (p : Pending) => p.id
      .next (s.portRecord y.asid y.queue y.cring y.clsz y.seq y.tag 0 cause status arrivals
        ((match y.vector with | some v => [.vector v] | none => []) ++ [.ev (.taskComplete l status cause)]))

/-! ### Graphs (R293) -/

/-- A task of a graph by its index. -/
def taskAt (ts : List Task) (i : Nat) : Option Task := ts.find? fun t => t.index == i

/-- A task ended otherwise than OK. -/
def Task.bad (t : Task) : Bool := t.state == .skipped || (t.state == .complete && t.status != 1)

/-- The state of a pending task, given the tasks of lower index: skipped, ready or still pending. -/
def Task.settle (t : Task) (below : List Task) : Task :=
  if t.state ≠ .pending then t
  else match t.succof with
    | some p => match taskAt below p with
      | some u => if u.state == .complete || u.state == .skipped then { t with state := .skipped } else t
      | none => t
    | none =>
      let ps := t.preds.filterMap (taskAt below)
      if ps.any Task.bad then { t with state := .skipped }
      else if ps.all fun u => u.state == .complete then { t with state := .ready }
      else t

/-- All tasks of a graph settled in ascending index. -/
def settleTasks : List Task → List Task → List Task
  | done, [] => done
  | done, t :: ts => settleTasks (done ++ [t.settle done]) ts

/-- Status and cause of a graph whose tasks have all ended. -/
def graphStatus (ts : List Task) : Nat × Nat :=
  match ts.find? Task.bad with
  | none => (1, 0)
  | some t => if t.state = .skipped then (7, 0) else (t.status, t.cause)

/-- The tasks of a graph launch are settled; the launch completes when all have ended. -/
def State.settleGraph (s : State) (l : Nat) : State :=
  let ts := settleTasks [] (s.tasksOf l)
  let s := { s with tasks := (s.tasks.filter fun (t : Task) => t.launch != l) ++ ts }
  if ts.all fun t => t.state == .complete || t.state == .skipped then
    s.soon (.ev (.taskComplete l (graphStatus ts).1 (graphStatus ts).2))
  else s

/-- A task and the chain that it ends complete with one status (R289). -/
def completeChain (status cause : Nat) : Nat → Nat → List Task → List Task
  | 0, _, ts => ts
  | n + 1, i, ts =>
    let ts := ts.map fun (t : Task) => if t.index = i then { t with state := .complete, status := status, cause := cause } else t
    match taskAt ts i with
    | some t => match t.succof with
      | some p => match taskAt ts p with
        | some u => if u.state = .succeeded then completeChain status cause n p ts else ts
        | none => ts
      | none => ts
    | none => ts

/-- A task ends: its launch completes, or its graph goes on (R289, R293). -/
def State.taskEnded (s : State) (tid status cause : Nat) : State :=
  match s.task? tid with
  | none => s
  | some t =>
    match s.launch? t.launch with
    | none => s
    | some y =>
      let ts := s.tasksOf y.id
      let s := { s with tasks := (s.tasks.filter fun (x : Task) => x.launch != y.id) ++ completeChain status cause (ts.length + 1) t.index ts }
      match y.graph with
      | none => s.soon (.ev (.taskComplete y.id status cause))
      | some _ =>
        let s := if t.record.dbar = 0 then s else s.portArrive y.asid y.queue [] t.record.dbar t.record.darrv []
        s.settleGraph y.id

/-! ### Loading (R49, R69, R297) -/

/-- The bytes of [lo, hi) of a memory are zero. -/
def Mem.clear (m : Mem) (lo hi : Nat) : Mem := m.filter fun p => !(lo ≤ p.1 && p.1 < hi)

/-- An array group at zero, its power as it is. -/
def TileGroup.cleared (x : TileGroup) : TileGroup :=
  { (default : TileGroup) with powered := x.powered, powering := x.powering, unowned := x.unowned }

/-- What a placement clears on a die (R49, R203): the bank window, the tag window, the owned groups. -/
def Die.clearFor (x : Die) (d : Nat) (e : BitVec 128) : Die :=
  let x := { x with bank := Mem.clear x.bank (mBase e) (mLimit e) }
  let x := if mTen e then { x with tags := x.tags.filter fun p => !(4 * mTbase e ≤ p.1 && p.1 < 4 * (mTbase e + 2 ^ mTlog e)) } else x
  if d < 4 then x
  else (List.range 4).foldl (fun (x : Die) g =>
    if bit g (mGrp e) then
      { x with groups := tmod x.groups g TileGroup.cleared, wbuf := Mem.clear x.wbuf (g * 2 ^ 22) ((g + 1) * 2 ^ 22) }
    else x) x

/-- The records of a bank or weight-buffer segment: address and bytes (Table 2-15). -/
def dataRecords : Nat → List Byte → List (Nat × List Byte)
  | 0, _ => []
  | n + 1, bs =>
    if bs.isEmpty then []
    else
      let h := natAt bs 0 8
      let len := bits 59 32 h
      (bits 27 0 h, (bs.drop 8).take len) :: dataRecords n (bs.drop (8 + ceilDiv len 8 * 8))

/-- The records of a stencil segment. -/
def stencilRecords : Nat → List Byte → List (Nat × List Byte)
  | 0, _ => []
  | n + 1, bs => if bs.isEmpty then [] else (bits 27 0 (natAt bs 0 8), (bs.drop 8).take 192) :: stencilRecords n (bs.drop 200)

/-- The segments of an image that load for a program, in segment-table order: kind and bytes. -/
def loadSegments (img : List Byte) (prog : Nat) : List (Nat × List Byte) :=
  ((segments img).filter fun g => g.2.1 == prog && (g.1 == 3 || g.1 == 4 || g.1 == 5)).map fun g =>
    (g.1, (img.drop g.2.2.1).take g.2.2.2)

/-- What a placement loads (R69): a later byte prevails. -/
def Die.load (x : Die) (img : List Byte) (prog : Nat) : Die :=
  (loadSegments img prog).foldl (fun (x : Die) g =>
    let rs := if g.1 = 5 then stencilRecords g.2.length g.2 else dataRecords g.2.length g.2
    rs.foldl (fun (x : Die) r =>
      if g.1 = 4 then { x with wbuf := Mem.write x.wbuf (placeBytes r.1 r.2) }
      else { x with bank := Mem.write x.bank (placeBytes r.1 r.2) }) x) x

/-- Bytes of the bank and weight-buffer data of a program (R297). -/
def loadBytes (img : List Byte) (prog : Nat) : Nat :=
  (((loadSegments img prog).filter fun g => g.1 != 5).map fun g => g.2.length).sum

/-- The ready count of a member (R297). -/
def readyOf (img : List Byte) (decided d : Nat) (e : BitVec 128) (warm : Bool) : Nat :=
  let pr := portRate d
  let clear := ceilDiv (mLimit e - mBase e) pr + ceilDiv (2 ^ 22 * popCount 4 (mGrp e)) 8192
  let load := ceilDiv (loadBytes img (mProg e)) pr
  decided + 256 + max clear (if warm then 640 else 0) + load

/-! ### Power of array groups (R298) -/

/-- A placed context owns the group, or a gang being placed has reserved it (log 79). -/
def State.ownsGroup (s : State) (d g : Nat) : Bool :=
  ((List.range 2).any fun c => (s.ctx d c).run != .absent && (s.ctx d c).groups.getLsbD g) ||
  s.gangs.any fun x => x.state == .placing && x.hold.members.any fun m => m.2.1 == d && bit g (mGrp m.2.2)

/-- GROUP_POWER_UP_BEGIN (R298). -/
def execGroupPowerUpBegin (d g : Nat) (s : State) : Res :=
  .next (if s.ownsGroup d g && !(tget (s.die d).groups g default).powered then s.modGroup d g fun x => { x with powering := true } else s)

/-- GROUP_POWERED (R298): with tiles, latches and annexes at zero. -/
def execGroupPowered (d g : Nat) (s : State) : Res :=
  .next (if (tget (s.die d).groups g default).powering then
    s.modGroup d g fun _ => { (default : TileGroup) with powered := true } else s)

/-- GROUP_POWER_DOWN (R298): a group that no context owns. -/
def execGroupPowerDown (d g : Nat) (s : State) : Res :=
  .next (if s.ownsGroup d g then s else s.modGroup d g fun _ => default)

/-! ### Contexts of a gang -/

/-- A context of a placed member, before its start (R49, Table 1-17). -/
def freshCtx (img : Nat) (bytes : List Byte) (r : LaunchRecord) (gid ix gbase : Nat) (e : BitVec 128) (old : Ctx) : Ctx :=
  { (default : Ctx) with
    run := .stopped, image := img, prog := mProg e, gang := gid, member := if r.bg then 0 else ix, asid := r.asid
    groups := BitVec.ofNat 4 (mGrp e), tbase := mTbase e, tlog := mTlog e, ten := mTen e, plates := imagePlates bytes (mProg e)
    sentAtomics := old.sentAtomics
    arch := Arch.fresh r.args r.seed (entryOffset bytes (mProg e)) gbase r.bg (mBase e) (mLimit e) }

/-- The context number of a gang's members. -/
def ctxOf (bg : Bool) : Nat := if bg then 1 else 0

/-- The members of a hold. -/
def Hold.toMembers (h : Hold) : List Member :=
  h.members.map fun m => { (default : Member) with ix := m.1, die := m.2.1, ctx := ctxOf h.bg, prog := mProg m.2.2 }

/-- The context of each member is made ready on its die: cleared and loaded at a fresh start (R49). -/
def State.prepare (s : State) (g : Gang) (r : LaunchRecord) (load : Bool) : State :=
  let bytes := s.imageBytes g.image
  g.hold.members.foldl (fun s m =>
    let s := if load then s.modDie m.2.1 fun x => (x.clearFor m.2.1 m.2.2).load bytes (mProg m.2.2) else s
    s.modCtx m.2.1 (ctxOf g.bg) fun x => freshCtx g.image bytes r g.id m.1 g.gbase m.2.2 x) s

/-- Members begin (R297, R307): they issue from this count on, their start captured as checkpoint 0; frames of earlier gangs
and their marks are gone. -/
def State.beginMembers (s : State) (g : Gang) : State :=
  g.members.foldl (fun s m =>
    let s := if g.bg then s else s.modDie m.die fun x => { x with marks := [] }
    (s.capture m.die m.ctx 0).modCtx m.die m.ctx fun x => { x with run := .running }) s

/-- The saved state of a member comes back (R326): what its live-bank map leaves out reads zero. -/
def State.restoreSaved (s : State) (g : Gang) (m : Member) (v : SavedMember) (e : BitVec 128) : State :=
  let s := s.modDie m.die fun x =>
    let x := x.clearFor m.die e
    { x with bank := Mem.write x.bank v.bank, wbuf := Mem.write x.wbuf v.wbuf,
             tags := v.tags.foldl (fun (t : SMap 128) p => SMap.set t p.1 p.2) x.tags,
             groups := v.groups.foldl (fun gs p => tmod gs p.1 fun old => restoreGroup old p.2) x.groups,
             staging := (x.staging.filter fun f => f.gang != g.id) ++ v.frames, marks := if m.ctx = 0 then v.marks else x.marks }
  s.modCtx m.die m.ctx fun _ => { v.ctx with image := g.image, gang := g.id }

/-- GANG_START (R297, R302): at S the members begin; those of a pre-empted gang go on at its checkpoint, GBASE being
S − Gck. -/
def execGangStart (gid : Nat) (s : State) : Res :=
  match s.gang? gid with
  | none => .next s
  | some g =>
    if g.state ≠ .placing ∨ g.startAt ≠ s.bel then .next s
    else
    let s := s.modTask g.task fun t => { t with state := .running, saved := none }
    if g.saved.isEmpty then .next ((s.beginMembers g).modGang gid fun x => { x with state := .running })
    else
      let gb := (s.bel + 2 ^ 64 - g.gck) % 2 ^ 64
      let shift := (gb + 2 ^ 64 - g.gbase) % 2 ^ 64
      let s := g.hold.members.foldl (fun s m =>
        match g.members.find? fun y => y.ix == m.1, g.saved.find? fun v => v.ix == m.1 with
        | some y, some v => s.restoreSaved g y v m.2.2
        | _, _ => s) s
      let s := g.members.foldl (fun s m => if (s.ctx m.die m.ctx).run = .stopped then s.resumeMember m gb g.ckNum false else s) s
      .next (s.modGang gid fun x =>
        { x with state := .running, gbase := gb, saved := [],
                 carried := shiftCarried x.carried (shift / 64) ((s.bel + 2 ^ 64 - x.gbase) % 2 ^ 64 / 64) })

/-! ### The end of a gang -/

/-- A context that is gone: its registers stay as they stand until a fresh start (R17, R49); its queues and what its transfers
had under way do not. -/
def Ctx.gone (x : Ctx) : Ctx :=
  { (default : Ctx) with
    sentAtomics := x.sentAtomics
    arch := { x.arch with aq := [], dq := [], oq := [], landing := [], scat := default } }

/-- The contexts of a gang and the handlers that serve it are gone; frames held for it are discarded (R242); what its
transfers had under way and what it had still to send is dropped. -/
def State.freeGang (s : State) (g : Gang) : State :=
  let s := g.members.foldl (fun s m =>
    let s := if (s.ctx m.die m.ctx).gang = g.id then s.modCtx m.die m.ctx Ctx.gone else s
    let s := if (s.ctx m.die 2).gang = g.id then s.modCtx m.die 2 Ctx.gone else s
    s.modDie m.die fun x => { x with staging := x.staging.filter fun f => f.gang != g.id }) s
  { s with
    colls := s.colls.filter fun (y : Coll) => y.gang != g.id
    sends := s.sends.filter fun (y : SendState) => y.gang != g.id
    lanterns := s.lanterns.map fun l =>
      { l with txq := l.txq.filter fun x => !(x.timed && x.seq.isNone && x.run.any fun r => r.1 == g.id) } }

/-- The gang is no more, nor the task that stands for it where another package's dispatcher placed it; a PREEMPT that waited for
its commit is refused. -/
def State.dropGang (s : State) (gid : Nat) : State :=
  let s := if s.gangs.any fun g => g.id == gid && g.preempt.isSome then s.mailDone 2 0 else s
  let mine := (s.gangs.filter fun g => g.id == gid).map fun (g : Gang) => g.task
  { s with gangs := s.gangs.filter (fun (g : Gang) => g.id != gid),
           tasks := s.tasks.filter fun (t : Task) => !(t.launch == 0 && mine.contains t.id) }

/-- The task that a gang's completion completes: its successor where one has been accepted. -/
def Gang.lastTask (g : Gang) : Nat := g.succTask.getD g.task

/-- GANG_ABORT (R304): a gang ended by a trap writes its dump and vector 4 follows; resources are freed and its task
completes with FAULT and the cause, or ABORTED. Members whose traps no restore has recorded keep them (R320). -/
def execGangAbort (gid : Nat) (why : AbortCause) (s : State) : Res :=
  match s.gang? gid with
  | none => .next s
  | some g =>
    let s := s.recordPending g
    let s := match why with
      | .trap => (s.writeDump g).msix (some 4)
      | .outside => s
    let status := match why with | .trap => 2 | .outside => 7
    let cause := match why with | .trap => (g.cause.map (·.code)).getD 0 | .outside => 0
    let s := if g.state = .saved then s else s.freeGang g
    .next ((s.dropGang gid).taskEnded g.lastTask status cause)

/-- A record takes the dies and array groups of a gang's members here (R136). -/
def State.inherits (s : State) (g : Gang) (r : LaunchRecord) : Bool :=
  match s.images.find? fun i => i.digest == r.digest with
  | none => false
  | some i => g.hold.members.all fun m =>
      let e := r.members.getD m.1 0
      bit m.2.1 (mAff e) && mGrp e == mGrp m.2.2 && mPkg e == s.pkg.toNat && programKind i.bytes (mProg e) == kindOf m.2.1

/-- The successor that the members of a gang name may start (R136, R299): same members' dies and groups, with permission. -/
def State.successorOf (s : State) (g : Gang) (n : Nat) : Option Task :=
  match s.task? g.task with
  | none => none
  | some t =>
    match taskAt (s.tasksOf t.launch) n with
    | none => none
    | some u =>
      let places := fun (r : LaunchRecord) => r.members.map fun e => (mPkg e, mGrp e)
      let fits : Bool := places u.record == places t.record && s.inherits g u.record
      if u.state = .pending ∧ u.succof = some t.index ∧ u.record.succ ∧ !u.record.bg ∧ !g.bg ∧ fits then some u else none

/-- The image of a record. -/
def State.imageOf (s : State) (r : LaunchRecord) : Option Image := s.images.find? fun i => i.digest == r.digest

/-- The period of a record's image. -/
def State.recordPeriod (s : State) (r : LaunchRecord) : Nat := periodOf (timetableOf (((s.imageOf r).map (·.bytes)).getD []))

/-- The other packages of a gang that has ended learn how it ends (R136, R299). -/
def State.tellEnd (s : State) (g : Gang) (status : Nat) : State :=
  let pkgs := ((((s.task? g.task).map fun (t : Task) => t.record.members.map mPkg).getD []).eraseDups).filter fun p => p != s.pkg.toNat
  if g.home ≠ s.pkg.toNat then s
  else { s with control := s.control ++ pkgs.map fun p =>
    Control.answer p { gang := g.id, pkg := s.pkg.toNat, holder := 0, taken := [], ready := none, status := status, groups := 0 } }

/-- The successors that the members here have named; where there are none here, what the others have named is a free choice
(log 35). -/
def State.namedBy (s : State) (g : Gang) : List (Option Nat) × State :=
  if g.members.isEmpty then
    let (k, s) := s.freeBelow 65537
    ([if k = 0 then none else some (k - 1)], s)
  else (g.members.map fun m => (s.ctx m.die m.ctx).succ, s)

/-- GANG_END (R135, R136): every released write of a gang whose members have all exited has performed: its task completes OK, or
its successor is accepted or refused. Away from its home, a gang whose members have named one successor waits for the home's
decision (log 68). -/
def execGangEnd (gid : Nat) (s : State) : Res :=
  match s.gang? gid with
  | none => .next s
  | some g =>
    if g.state ≠ .draining then .next s
    else
      let (succs, s) := s.namedBy g
      let named := succs.headD none
      if succs.all Option.isNone then .next ((((s.tellEnd g 1).freeGang g).dropGang gid).taskEnded g.task 1 0)
      else if g.home ≠ s.pkg.toNat ∧ succs.all (· == named) then
        .next (s.modGang gid fun x => { x with state := .ended, succTask := none, resumeAt := none, endedAt := s.bel })
      else
        let accepted := if succs.all (· == named) then named.bind (s.successorOf g) else none
        match accepted with
        | none => .next ((((s.tellEnd g 5).freeGang g).dropGang gid).taskEnded g.task 5 0)
        | some u =>
          let s := (s.modTask g.task fun t => { t with state := .succeeded }).modTask u.id fun t => { t with state := .placing }
          let s := s.modGang gid fun x => { x with state := .ended, succTask := some u.id, resumeAt := none, endedAt := s.bel }
          let at_ := leastCongruent (s.bel + 1) 0 (s.recordPeriod u.record)
          .next (s.scheduleBel at_ phStart (.ev (.successorStart gid)))

/-! ### Pre-emption (R326) -/

/-- Members of a gang whose pre-emption is refused go on. -/
def State.resumePreempted (s : State) (g : Gang) : State :=
  let s := g.members.foldl (fun s m => s.modCtx m.die m.ctx fun x => if x.run = .stopped then { x with run := .running } else x) s
  s.modGang g.id fun x => { x with state := .running, preempt := none }

/-- The members' state is saved and their resources are freed; the gang joins the ready tasks (R302). -/
def State.saveGang (s : State) (g : Gang) (vs : List SavedMember) : State :=
  ((s.freeGang g).modGang g.id fun x => { x with state := .saved, saved := vs, preempt := none, offline := false, hold := default }).modTask
    g.task fun t => { t with state := .ready, saved := some g.id }

/-- PREEMPT_SAVE (R302, R326): the members' state is saved, the resources are freed, the gang joins the ready tasks. The save
area then holds what the firmware wrote there, whose layout no rule gives (log 34). An area that is too small refuses the PREEMPT;
a gang whose die is being taken offline is saved all the same (R306). -/
def execPreemptSave (gid : Nat) (s : State) : Res :=
  match s.gang? gid with
  | none => .next s
  | some g =>
    if g.state ≠ .preempting then .next s
    else
      let vs := g.members.map s.saveMember
      match g.preempt with
      | some (a, n) =>
        if n < (vs.map SavedMember.size).sum then .next ((if g.offline then s.saveGang g vs else s.resumePreempted g).mailDone 2 0)
        else
          let junk := bytesOfNat n (Config.freeBits s.free)
          let s := { s with free := s.free + 1 }.modStack (bits 38 36 a) fun m => Mem.write m (placeBytes (bits 35 0 a) junk)
          .next ((s.saveGang g vs).mailDone 0 0)
      | none => .next (s.saveGang g vs)

end Sys2Proof.Machine
end

