-- ==== Sys2Proof/Machine/Placement.lean ====
section
/-!
DEFINITION. Placement of tasks (11 R284, R285, R294–R299, 13 R343, R347): launch records and their checks, the assignment of
members to dies, the resources of R294, the start count and the power-up slots.
-/

namespace Sys2Proof.Machine

/-! ### Launch records (Tables 11-2 and 11-3) -/

/-- The fields of a launch record without its member table; none where R284 or R286 refuses it. -/
def parseRecord (bs : List Byte) : Option (LaunchRecord × Nat × Nat) :=
  let fl := natAt bs 136 1
  let nmemb := natAt bs 144 2
  let asid := natAt bs 146 2
  let mtab := natAt bs 152 8
  let dbar := natAt bs 160 8
  if 4 ≤ fl ∨ natAt bs 137 3 ≠ 0 ∨ 65535 < natAt bs 140 4 ∨ nmemb = 0 ∨ 8192 < nmemb ∨ 4096 ≤ asid ∨ natAt bs 148 4 ≠ 0 ∨
     mtab % 16 ≠ 0 ∨ 2 ^ 63 ≤ dbar ∨ dbar % 16 ≠ 0 ∨ natOfBytes (bs.drop 176) ≠ 0 then none
  else some (
    { digest := BitVec.ofNat 512 (natAt bs 0 64), args := (List.range 8).map fun i => BitVec.ofNat 64 (natAt bs (64 + 8 * i) 8),
      seed := BitVec.ofNat 64 (natAt bs 128 8), bg := bit 0 fl, succ := bit 1 fl, warmup := natAt bs 140 4, asid := asid,
      dbar := dbar, darrv := natAt bs 168 8, members := [] }, nmemb, mtab)

/-- A member-table entry outside its limits (Table 11-3). -/
def memberBad (e : BitVec 128) : Bool :=
  let n := e.toNat
  bits 15 12 n != 0 || bits 63 49 n != 0 || bits 95 92 n != 0 || bits 127 124 n != 0 || 10 < mTlog e ||
  (!mTen e && (mTbase e != 0 || mTlog e != 0)) || mTbase e % 2 ^ mTlog e != 0 || mBase e % 64 != 0 || mLimit e % 64 != 0 ||
  mLimit e ≤ mBase e

/-- The entries of a member table. -/
def parseMembers : Nat → List Byte → List (BitVec 128)
  | 0, _ => []
  | n + 1, bs => BitVec.ofNat 128 (natAt bs 0 16) :: parseMembers n (bs.drop 16)

/-! ### Assignment (R295) -/

/-- A die that may be assigned: present and in service. -/
def State.inService (s : State) (d : Nat) : Bool := s.diePresent d && s.svc.getLsbD d && !s.offline.getLsbD d

/-- The members of a record on this package: index and entry. -/
def State.localMembers (s : State) (r : LaunchRecord) : List (Nat × BitVec 128) :=
  (r.members.mapIdx fun i e => (i, e)).filter fun m => mPkg m.2 == s.pkg.toNat

/-- The candidate dies of an entry. -/
def State.candidates (s : State) (img : List Byte) (e : BitVec 128) : List Nat :=
  (List.range 8).filter fun d => bit d (mAff e) && kindOf d == programKind img (mProg e) && s.inService d

/-- The pair program of a program (Table 2-16). -/
def pairProg (img : List Byte) (prog : Nat) : Option Nat := let p := descriptorOf img prog 1 1; if p = 0xFF then none else some p

/-- The member that a member is paired with: the i-th that runs the program with the i-th that runs its pair program. -/
def partnerOf (img : List Byte) (ms : List (Nat × BitVec 128)) (m : Nat × BitVec 128) : Option Nat :=
  match pairProg img (mProg m.2) with
  | none => none
  | some p =>
    let mine := (ms.filter fun x => mProg x.2 == mProg m.2).map (·.1)
    let theirs := (ms.filter fun x => mProg x.2 == p).map (·.1)
    (mine.idxOf? m.1).bind fun i => theirs[i]?

/-- The die paired with a die (R2). -/
def pairDie (d : Nat) : Nat := if d < 4 then d + 4 else d - 4

/-- The first complete assignment in member order. -/
def assignFrom (cands : BitVec 128 → List Nat) (partner : Nat × BitVec 128 → Option Nat) :
    List (Nat × BitVec 128) → List (Nat × Nat × BitVec 128) → Option (List (Nat × Nat × BitVec 128))
  | [], done => some done
  | m :: ms, done => (cands m.2).findSome? fun d =>
    let clash := match partner m with
      | some j => match done.find? fun x => x.1 == j with
        | some x => x.2.1 != pairDie d
        | none => false
      | none => false
    if clash || done.any fun x => x.2.1 == d then none else assignFrom cands partner ms (done ++ [(m.1, d, m.2)])

/-- The assignment of a record's members here (R295). -/
def State.assign (s : State) (img : List Byte) (r : LaunchRecord) : Option (List (Nat × Nat × BitVec 128)) :=
  let ms := s.localMembers r
  assignFrom (s.candidates img) (partnerOf img ms) ms []

/-! ### The checks of R285 -/

/-- The packages that a record's members name. -/
def recordPkgs (r : LaunchRecord) : List Nat := (r.members.map mPkg).eraseDups

/-- Case 3: some member here has no die, or the image holds a grant on the stack of an offline die. -/
def State.dieAbsent (s : State) (img : List Byte) (r : LaunchRecord) : Bool :=
  (s.localMembers r).any (fun m => (s.candidates img m.2).isEmpty) ||
  (grantsOf (timetableOf img)).any fun g => s.offline.getLsbD g.2.1 && g.2.2 != 0

/-- Members of a package that run a program. -/
def runners (r : LaunchRecord) (pkg prog : Nat) : Nat := (r.members.filter fun e => mPkg e == pkg && mProg e == prog).length

/-- Case 4 but for the assignment. -/
def badRecord (img : List Byte) (r : LaunchRecord) : Bool :=
  ((recordPkgs r).any fun p => 8 < (r.members.filter fun e => mPkg e == p).length ||
    (List.range 8).any fun q => match pairProg img q with
      | some t => runners r p q != 0 && runners r p q != runners r p t
      | none => false) ||
  r.members.any fun e =>
    let v := programKind img (mProg e) == .v
    (v && mGrp e != 0) || (!v && mTen e) || (if v then 0x6000000 else 0x4000000) < mLimit e ||
    (loadSegments img (mProg e)).any fun g => g.1 == 4 && (dataRecords g.2.length g.2).any fun x =>
      x.2.length != 0 && ((List.range 4).any fun q => x.1 / 2 ^ 22 ≤ q && q ≤ (x.1 + x.2.length - 1) / 2 ^ 22 && !bit q (mGrp e))

/-- The checks of R285 on a record, as far as this package makes them: the case that refuses it. -/
def State.recordCase (s : State) (r : LaunchRecord) : Option Nat :=
  match s.imageOf r with
  | none => some 1
  | some i =>
    let img := i.bytes
    if r.members.any fun e => natAt img 7 1 ≤ mProg e then some 1
    else if r.bg ∧ (r.members.length ≠ 1 ∨ r.members.any fun e => (pairProg img (mProg e)).isSome) then some 2
    else if s.dieAbsent img r then some 3
    else if badRecord img r || (s.assign img r).isNone then some 4
    else none

/-- The status of a case of R285, and of the refusal of a timetable, which comes after them: DIE-ABSENT for case 3, else REJECTED. -/
def caseStatus (c : Nat) : Nat := if c = 3 then 4 else 6

/-- The checks of R285 on a record: the status that refuses it. -/
def State.checkRecord (s : State) (r : LaunchRecord) : Option Nat := (s.recordCase r).map caseStatus

/-- A record names members of other packages. -/
def State.spans (s : State) (r : LaunchRecord) : Bool := (recordPkgs r).any fun p => p != s.pkg.toNat

/-! ### Resources (R294) -/

/-- The Lantern entries of phase 0 that a hold has on this package: those of its members here (R343). -/
def State.holdEntries (s : State) (h : Hold) : List LanEntry :=
  (lanEntries (timetableOf (s.imageBytes h.image))).filter fun e =>
    e.phase == 0 && e.cls ≤ 1 && h.members.any fun m => m.1 == e.memb

/-- The period in slots of a hold's timetable. -/
def State.holdSlots (s : State) (h : Hold) : Nat := periodSlots (timetableOf (s.imageBytes h.image))

/-- The slots of an entry's run, and the four guard slots before it, modulo a length. -/
def LanEntry.runSlots (e : LanEntry) (m : Nat) : List Nat := (List.range (e.run + 1)).map fun i => (e.start + i) % m
def LanEntry.guardSlots (e : LanEntry) (p m : Nat) : List Nat := (List.range 4).map fun i => (e.start + 4 * p - 1 - i) % p % m

/-- Two entries of different gangs conflict (R343). -/
def entriesConflict (e : LanEntry) (p : Nat) (f : LanEntry) (q : Nat) : Bool :=
  let m := min p q
  let a := e.runSlots m
  let b := f.runSlots m
  e.lan == f.lan && e.receive == f.receive && e.fib &&& f.fib != 0 &&
  (a.any b.contains ||
   ((e.peer != f.peer || e.plan != f.plan) && ((e.guardSlots p m).any b.contains || (f.guardSlots q m).any a.contains)))

/-- The stack grants of a hold's image: stack and slots (R294). -/
def State.holdGrants (s : State) (h : Hold) : List (Nat × Nat) := (grantsOf (timetableOf (s.imageBytes h.image))).map (·.2)

/-- Two holds need one context, group, bank range or tag set (R294). -/
def membersConflict (a b : Hold) : Bool :=
  a.members.any fun m => b.members.any fun n =>
    let e := m.2.2
    let f := n.2.2
    m.2.1 == n.2.1 && (a.bg == b.bg || mGrp e &&& mGrp f != 0 || (mBase e < mLimit f && mBase f < mLimit e) ||
      (mTen e && mTen f && mTbase e < mTbase f + 2 ^ mTlog f && mTbase f < mTbase e + 2 ^ mTlog e))

/-- Two holds need one stack slot or Lantern slot (R232, R343). -/
def State.slotsConflict (s : State) (a b : Hold) : Bool :=
  ((s.holdGrants a).any fun g => (s.holdGrants b).any fun h => g.1 == h.1 && g.2 &&& h.2 != 0) ||
  ((s.holdEntries a).any fun e => (s.holdEntries b).any fun f => entriesConflict e (s.holdSlots a) f (s.holdSlots b))

/-- Receive staging that a hold has on a die (R242). -/
def State.holdStaging (s : State) (h : Hold) (d : Nat) : Nat :=
  ((h.members.filter fun m => m.2.1 == d).map fun m => shareOf (timetableOf (s.imageBytes h.image)) (mProg m.2.2)).sum

/-- Plate-store entries that a hold has on a die (R180). -/
def State.holdPlates (s : State) (h : Hold) (d : Nat) : Nat :=
  ((h.members.filter fun m => m.2.1 == d).map fun m => (imagePlates (s.imageBytes h.image) (mProg m.2.2)).length).sum

/-- Staging of all gangs on a die fits. -/
def State.stagingFits (s : State) (h : Hold) (others : List Hold) : Bool :=
  h.members.all fun m => s.holdStaging h m.2.1 + (others.map fun o => s.holdStaging o m.2.1).sum ≤ 2 ^ 23

/-- The plates of all contexts on a die fit. -/
def State.platesFit (s : State) (h : Hold) (others : List Hold) : Bool :=
  h.members.all fun m =>
    s.holdPlates h m.2.1 + (others.map fun o => s.holdPlates o m.2.1).sum ≤ (if m.2.1 < 4 then 4096 else 2048)

/-- What placed gangs hold, but for one. -/
def State.placedHolds (s : State) (but : Nat) : List Hold := (s.gangs.filter fun g => g.id != but).map fun (g : Gang) => g.hold

/-- A die on which nothing new is placed: at its trip limit, or being taken offline (R306, R370). -/
def State.closedDie (s : State) (d : Nat) : Bool :=
  let t := tget s.therm d default
  t.trip.toInt ≤ t.temp.toInt || (s.offBusy && s.offReq.toNat % 8 == d)

/-- The cold groups of a hold in ascending die, then group. -/
def State.coldGroups (s : State) (h : Hold) : List (Nat × Nat) :=
  (List.range 8).flatMap fun d => (List.range 4).filterMap fun g =>
    if 4 ≤ d ∧ (h.members.any fun m => m.2.1 == d && bit g (mGrp m.2.2)) ∧ !(tget (s.die d).groups g default).powered then some (d, g)
    else none

/-- A hold needs a grant on the stack of a die that is being taken offline (R306). -/
def State.leavingStack (s : State) (h : Hold) : Bool :=
  s.offBusy && (s.holdGrants h).any fun g => g.1 == s.offReq.toNat % 8 && g.2 != 0

/-- The holds that a task of a level must leave alone: those of placed gangs but one, and the claims against it (R288, R294). -/
def State.otherHolds (s : State) (level holder but : Nat) : List Hold :=
  s.placedHolds but ++ (s.claims.filter fun c => c.level ≤ level && c.holder != holder).map fun (c : Claim) => c.hold

/-- A hold lacks dies, groups, windows, grants or timetable phase, for which a claim can be taken (R288). -/
def State.lacks (s : State) (h : Hold) (level holder but : Nat) : Bool :=
  (s.otherHolds level holder but).any fun o => membersConflict h o || s.slotsConflict h o

/-- A gang whose start is not fixed is to power up groups here: its power-up slots come first (R298). -/
def State.powerUndecided (s : State) (but : Nat) : Bool :=
  s.gangs.any fun g => g.id != but && g.state == .placing && g.startAt == 0 && !(s.coldGroups g.hold).isEmpty

/-- The resources of a hold are free for a task of a level (R288, R294), and nothing else keeps it from being placed. -/
def State.fits (s : State) (h : Hold) (level holder but : Nat) : Bool :=
  let others := s.otherHolds level holder but
  !s.placeHold && (h.members.all fun m => !s.closedDie m.2.1) && !s.leavingStack h && !s.lacks h level holder but &&
  s.stagingFits h others && s.platesFit h others && ((s.coldGroups h).isEmpty || !s.powerUndecided but)

/-! ### Timetable checks at placement (R343, R347) -/

/-- Edge hops from the port die of an identity to a die (R332, R347). -/
def portHops (ident d : Nat) : Nat := 1 + (if ident < 7 then min (hops 0 d) (hops 2 d) else min (hops 1 d) (hops 3 d))

/-- The largest flight among the receive fibres of an identity that a fibre mask reaches. -/
def State.flightOf (s : State) (ident fib : Nat) : Nat :=
  (((List.range 8).filter fun f => bit f fib).map fun f => tget (s.lantern ident).flt f 0).foldl max 0

/-- The members here for which frames of a timed transmit entry can be: the participant of its exchange, or any member for SEND
(R341, R347). -/
def entryTargets (xs : List Xch) (e : LanEntry) (ms : List (Nat × Nat × BitVec 128)) : List (Nat × Nat × BitVec 128) :=
  if e.xu = 0 then ms
  else match xs.find? fun x => x.xch + 1 == e.xu with
    | some x => ms.filter fun m => x.parts.contains m.1
    | none => []

/-- A timetable that this package refuses: an identity absent or failed, two participants of one exchange here, an entry of the
far port die, or a delivery delay below the flight toward a member here for which its frames can be (R343, R347). -/
def State.timetableRefused (s : State) (img : List Byte) (r : LaunchRecord) (ms : List (Nat × Nat × BitVec 128)) : Bool :=
  let tt := timetableOf img
  let es := lanEntries tt
  let here := fun (i : Nat) => ms.find? fun m => m.1 == i
  (es.any fun e => r.members.length ≤ e.memb || (match here e.memb with
    | some m => s.identDown e.lan || (e.cls == 0 && !e.receive && ((7 ≤ e.lan) != (m.2.1 % 2 == 1)))
    | none => false) ||
    (e.cls == 0 && !e.receive && e.peer == s.pkg.toNat &&
      (entryTargets (xchRecords tt) e ms).any fun m => e.dly < s.flightOf e.plan e.fib + 20 * portHops e.plan m.2.1 + 48)) ||
  (xchRecords tt).any fun x =>
    1 < (x.parts.filter fun i => (here i).isSome).length

/-! ### Start count and power-up (R297, R298) -/

/-- The ready count of a hold for a placement decided at a count: the latest of its members' (R297). -/
def State.holdReady (s : State) (h : Hold) (decided : Nat) (fresh : Bool) : Nat :=
  (h.members.map fun m =>
    let warm := 4 ≤ m.2.1 && (List.range 4).any fun g => bit g (mGrp m.2.2) && (tget (s.die m.2.1).groups g default).powered
    readyOf (if fresh then s.imageBytes h.image else []) decided m.2.1 m.2.2 warm).foldl max (decided + 256)

/-- The counts at which n cold groups, after others of the gang's J, begin power-up for a start count. -/
def powerBegins (start warmup all before n : Nat) : List Nat :=
  (List.range n).map fun i => start + warmup - 256 * (all - (before + i))

/-- A power-up that the cold groups of a package would begin for a start count lies within 256 counts of one given out there. -/
def powerClash (start warmup all before : Nat) (x : List Nat × Nat) : Bool :=
  (powerBegins start warmup all before x.2).any fun b => x.1.any fun t => (if t ≤ b then b - t else t - b) < 256

/-- The same of some package, in their order: the counts given out there, and its cold groups. -/
def powerClashes (start warmup all : Nat) : Nat → List (List Nat × Nat) → Bool
  | _, [] => false
  | before, x :: xs => powerClash start warmup all before x || powerClashes start warmup all (before + x.2) xs

/-- The least boundary from which on every power-up slot is free on each package (R298). -/
def findStart (pkgs : List (List Nat × Nat)) (warmup tp : Nat) : Nat → Nat → Nat
  | 0, s => s
  | n + 1, s => if powerClashes s warmup (pkgs.map (·.2)).sum 0 pkgs then findStart pkgs warmup tp n (s + tp) else s

/-- The start count of a gang, given its latest ready count, the residue of its start modulo its period, and for each of its
packages the power-up counts given out and the number of its cold groups (R297, R298). J counts the gang's groups on all packages;
the package comes before the die code in their order, a choice (log 79). -/
def startCount (ready decided warmup rest tp : Nat) (pkgs : List (List Nat × Nat)) : Nat :=
  let bound := max ready (decided + 256 * (pkgs.map (·.2)).sum - warmup)
  findStart pkgs warmup tp ((pkgs.map fun p => p.1.length).sum * 160 + 1) (leastCongruent bound rest tp)

/-- The residue of a gang's start count modulo its period: 0, or for a saved gang that of its checkpoint group, so that GBASE
moves by whole periods (R302, R326, log 67). -/
def Gang.startRest (g : Gang) : Nat := if g.saved.isEmpty then 0 else (g.gbase + g.gck) % 2 ^ 64

/-- The cold groups of a gang power up toward its start count (R298). -/
def State.powerFor (s : State) (g : Gang) (start warmup : Nat) : State :=
  let begins := powerBegins start warmup g.coldAll g.coldBefore g.cold.length
  let s := { s with powerUps := (s.powerUps.filter fun b => s.bel < b + 256) ++ begins }
  (g.cold.zip begins).foldl (fun s p =>
    (s.scheduleBel p.2 phStart (.ev (.groupPowerUpBegin p.1.1 p.1.2))).scheduleBel (p.2 + 256) phStart (.ev (.groupPowered p.1.1 p.1.2))) s

/-! ### Placing -/

/-- A gang identifier not in use: the package in [19:10], a number from 1 in [9:0]. -/
def State.newGangId (s : State) : Nat :=
  let used := s.gangs.map (·.id)
  s.pkg.toNat * 1024 + (((List.range 1023).map (· + 1)).find? fun k => !used.contains (s.pkg.toNat * 1024 + k)).getD 0

/-- The gang of a task as it enters its placement; a pre-empted one keeps its state. -/
def State.gangFor (s : State) (t : Task) (h : Hold) (total : Nat) : Gang :=
  let old := t.saved.bind s.gang?
  let g : Gang := match old with
    | some g => g
    | none => { (default : Gang) with id := s.newGangId, task := t.id, bg := t.record.bg, image := h.image, home := s.pkg.toNat }
  { g with state := .placing, members := h.toMembers, others := total - h.members.length,
           tp := periodOf (timetableOf (s.imageBytes h.image)), hold := h, decided := s.bel, startAt := 0,
           cold := s.coldGroups h, coldBefore := 0, coldAll := (s.coldGroups h).length }

/-- A gang takes its place among the gangs. -/
def State.putGang (s : State) (g : Gang) : State := { s with gangs := (s.gangs.filter fun (x : Gang) => x.id != g.id) ++ [g] }

/-- The warm-up that a start honours: a saved gang's groups are powered before it goes on (log 34). -/
def Gang.warmup (g : Gang) (r : LaunchRecord) : Nat := if g.saved.isEmpty then r.warmup else 0

/-- The start count of a gang is fixed: groups power up, members' contexts are prepared, the gang starts at S. -/
def State.fixStart (s : State) (g : Gang) (r : LaunchRecord) (start : Nat) : State :=
  let g := { g with startAt := start, gbase := if g.saved.isEmpty then start else g.gbase }
  let s := (s.putGang g).prepare g r g.saved.isEmpty
  ((s.powerFor g start (g.warmup r)).scheduleBel start phStart (.ev (.gangStart g.id))).tellCircuits g.id

/-- What a successor holds here: the gang's dies, with the entries of its own record (R299). -/
def State.successorHold (s : State) (g : Gang) (r : LaunchRecord) : Hold :=
  { bg := false, image := ((s.imageOf r).map fun (i : Image) => i.handle).getD 0,
    members := g.hold.members.map fun m => (m.1, m.2.1, r.members.getD m.1 0) }

/-- A successor's grants, phase and staging fit, what the gang that named it holds counting as free (R299). So do its bank windows
and tag windows beside the other context of each die (R194, R261): one that meets them waits as for a grant (log 78). -/
def State.successorFits (s : State) (g : Gang) (h : Hold) : Bool :=
  let others := s.placedHolds g.id
  !(others.any fun o => s.slotsConflict h o || membersConflict h o) && s.stagingFits h others

/-- Nothing keeps a successor from its place: it fits, no die is at its trip limit, nor the package at its power limit (R370). -/
def State.successorOpen (s : State) (g : Gang) (h : Hold) : Bool :=
  s.successorFits g h && !s.placeHold && h.members.all fun m => !s.closedDie m.2.1

/-- A die or a stack that a hold needs is offline or is being taken offline (R285, R306). -/
def State.holdLeaves (s : State) (h : Hold) : Bool :=
  s.leavingStack h || (h.members.any fun m => (s.offBusy && m.2.1 == s.offReq.toNat % 8) || s.offline.getLsbD m.2.1) ||
  (s.holdGrants h).any fun g => s.offline.getLsbD g.1 && g.2 != 0

end Sys2Proof.Machine
end

