-- ==== Sys2Proof/Machine/Launch.lean ====
section
/-!
DEFINITION. Launch queues (11 R286–R292, R296): what the dispatcher reads under a queue's ASID, packets and their checks,
graphs and their snapshots, arbitration rounds, claims, and reservations for gangs that span packages.
-/

namespace Sys2Proof.Machine

/-! ### Reading under a queue's ASID (R286) -/

/-- What a read finds: bytes, a fault, or homes outside the package that have not answered. -/
inductive Got where
  | bytes (bs : List Byte)
  | fault (code : Nat)
  | wait (needs : List (Home × Nat))
  deriving DecidableEq, Repr

/-- Two reads, one after the other. -/
def Got.append : Got → Got → Got
  | .bytes a, .bytes b => .bytes (a ++ b)
  | .fault c, _ => .fault c
  | .bytes _, g => g
  | .wait a, .wait b => .wait (a ++ b)
  | .wait a, _ => .wait a

/-- The pieces of a range within aligned granules. -/
def chunksOf (va n : Nat) : List (Nat × Nat) :=
  (List.range (n / 64 + 2)).filterMap fun i =>
    let lo := max va ((va / 64 + i) * 64)
    let hi := min (va + n) ((va / 64 + i + 1) * 64)
    if lo < hi then some (lo, hi - lo) else none

/-- One piece. -/
def State.portChunk (s : State) (q asid : Nat) (c : Nat × Nat) : Got :=
  match s.reachPort asid c.1 true false with
  | .error e => .fault e
  | .ok h =>
    let outside := match h with | .remote _ _ => true | .host _ => true | _ => false
    if outside then
      match s.fetched.find? fun f => f.queue == q && f.home == h && f.size == c.2 with
      | none => .wait [(h, c.2)]
      | some f => match f.data, f.fault with
        | some bs, _ => .bytes bs
        | none, some e => .fault e
        | none, none => .wait []
    else match s.readHome h c.2 with
      | .ok v => .bytes (bytesOfNat c.2 v)
      | .error e => .fault e

/-- A read of n bytes at a translated address of a queue. -/
def State.portRead (s : State) (q asid va n : Nat) : Got :=
  ((chunksOf va n).map (s.portChunk q asid)).foldl Got.append (.bytes [])

/-- Reads at several addresses. -/
def State.portReads (s : State) (q asid : Nat) (rs : List (Nat × Nat)) : Got :=
  (rs.map fun r => s.portRead q asid r.1 r.2).foldl Got.append (.bytes [])

/-- Requests for what a read waits for. -/
def State.portAsk (s : State) (q : Nat) (needs : List (Home × Nat)) : State :=
  needs.eraseDups.foldl (fun s n =>
    let id := s.nextId
    let s := match n.1 with
      | .remote pkg a => s.request portDie (.port q) pkg FrameKind.read a n.2 []
      | .host a => s.hostRead (.port q) a n.2
      | _ => s
    { s with fetched := s.fetched ++ [({ id := id, queue := q, home := n.1, size := n.2, data := none, fault := none } : Fetched)] }) s

/-- What a queue's reads have fetched is forgotten. -/
def State.portForget (s : State) (q : Nat) : State := { s with fetched := s.fetched.filter fun (f : Fetched) => f.queue != q }

/-- Change of a queue. -/
def State.modQueue (s : State) (q : Nat) (f : Queue → Queue) : State :=
  { s with queues := s.queues.map fun y => if y.key = q then f y else y }

/-- A fault met on a queue's header or rings stops it (R286). -/
def State.stopQueue (s : State) (q : Nat) : State := (s.modQueue q fun y => { y with stopped := true }).portForget q

/-! ### Headers and packets (Tables 9-5 to 9-7) -/

def hWix (h : List Byte) : Nat := natAt h 0 8
def hRix (h : List Byte) : Nat := natAt h 8 8
def hLsz (h : List Byte) : Nat := natAt h 16 1
def hPrio (h : List Byte) : Nat := natAt h 18 1
def hRing (h : List Byte) : Nat := natAt h 24 8
def hCring (h : List Byte) : Nat := natAt h 32 8
def hClsz (h : List Byte) : Nat := natAt h 40 1

/-- A header outside its limits (Table 9-5). -/
def headerBad (h : List Byte) : Bool :=
  let kind := natAt h 17 1
  1 < kind || hLsz h < 4 || 16 < hLsz h || 3 < hPrio h || (kind == 0 && hPrio h != 0) || natAt h 19 5 != 0 ||
  hRing h % 64 != 0 || hCring h % 32 != 0 || hClsz h < hLsz h || natOfBytes (h.drop 41) != 0

/-- A ring slot is claimed and its packet has not been written (R281). -/
def State.slotClaimed (s : State) (y : Queue) (slot : Nat) : Bool :=
  (s.reachPort y.asid slot true false).toOption.any fun g => s.claimed.any (s.sameBlock 64 g)

/-- The packet of an index of a queue with a header, if it is there and its write has performed (R247, R281). -/
def State.packetAt (s : State) (y : Queue) (h : List Byte) (k : Nat) : Got :=
  let slot := hRing h + 64 * (k % 2 ^ hLsz h)
  if hWix h ≤ k then .bytes []
  else match s.portRead y.key y.asid slot 64 with
    | .bytes p => .bytes (if natAt p 0 4 = k % 2 ^ 32 ∧ s.slotClaimed y slot = false then p else [])
    | g => g

/-- A queue's header, and the packet that its read index names. -/
def State.headPacket (s : State) (y : Queue) : Got × Got :=
  match s.portRead y.key y.asid y.header 64 with
  | .bytes h => (.bytes h, s.packetAt y h (hRix h))
  | g => (g, .bytes [])

/-- Whether a read has found a packet; none while it waits for an answer. -/
def Got.found : Got → Option Bool
  | .bytes p => some !p.isEmpty
  | .fault _ => some false
  | .wait _ => none

/-- A write of the queue's read index is still on its way. -/
def State.rixPending (s : State) (y : Queue) : Bool :=
  s.pendings.any fun p => p.queue == some y.key && (p.write.map fun (w : DefWrite) => w.addr) == some (y.header / 64 * 64)

/-- A launch packet that breaks R249, or whose barriers R286 refuses. -/
def packetBad (p : List Byte) : Bool :=
  let opc := natAt p 4 1
  let fl := natAt p 5 1
  let wbar := natAt p 32 8
  let abar := natAt p 40 8
  (opc != 0x10 && opc != 0x11) || 4 ≤ fl || natAt p 6 2 != 0 || natAt p 16 16 != 0 || natAt p 8 8 % 64 != 0 ||
  (bit 0 fl && (wbar % 16 != 0 || 2 ^ 63 ≤ wbar)) || (bit 1 fl && (abar % 16 != 0 || 2 ^ 63 ≤ abar))

/-- The launch of a packet. -/
def launchOf (id : Nat) (y : Queue) (h p : List Byte) (arrive : Bool) : Launch :=
  { id := id, queue := y.key, asid := y.asid, vector := y.vector, cring := hCring h, clsz := hClsz h, seq := natAt p 0 4,
    tag := natAt p 48 8, abar := if arrive && bit 1 (natAt p 5 1) then some (natAt p 40 8) else none, arrv := natAt p 56 8,
    level := hPrio h, graph := none, serial := false, snapAt := 0, bytes := 0, completing := false, rix := hRix h }

/-- A launch enters the dispatcher's list. -/
def State.putLaunch (s : State) (l : Launch) : State := { s with launches := s.launches ++ [l] }

/-- A task of a launch. -/
def taskOf (id launch index level : Nat) (r : LaunchRecord) : Task :=
  { (default : Task) with id := id, launch := launch, index := index, record := r, level := level, state := .ready }

/-! ### Trying to place (R294–R296) -/

/-- Outcome of a try. -/
inductive Tried where
  | placed (s : State)
  | ended (status : Nat)
  | blocked (s : State) (h : Hold) (lacks : Bool)
  | asking (s : State) (gang : Nat)

/-- The reservation that a gang's home asks of a package (R296): it names every member, and the package reserves its own. -/
def reservationFor (s : State) (g : Gang) (r : LaunchRecord) (level holder : Nat) (succ : Option Nat) : Reservation :=
  { fromPkg := s.pkg.toNat, gang := g.id, level := level, holder := holder, claim := s.claims.any fun c => c.holder == holder,
    succ := succ, asid := r.asid, digest := r.digest, decided := s.bel, entries := r.members,
    ranks := List.range r.members.length,
    record := BitVec.ofNat 2048 (natOfBytes (bytesOfNat 64 r.digest.toNat ++ (r.args.flatMap fun a => bytesOfNat 8 a.toNat) ++
      bytesOfNat 8 r.seed.toNat ++ bytesOfNat 1 (b2n r.bg + 2 * b2n r.succ) ++ bytesOfNat 3 0 ++ bytesOfNat 4 r.warmup ++
      bytesOfNat 2 r.members.length ++ bytesOfNat 2 r.asid)) }

/-- Every other package of a record is asked to reserve its members (R296). -/
def State.askPackages (s : State) (g : Gang) (r : LaunchRecord) (level holder : Nat) (succ : Option Nat) : State :=
  let pkgs := (recordPkgs r).filter fun p => p != s.pkg.toNat
  { s with reservations := s.reservations ++ pkgs.map fun p => (g.id, p, none),
           control := s.control ++ pkgs.map fun p => Control.reserve p (reservationFor s g r level holder succ) }

/-- The other packages are asked although this one refuses the record, at a case of R285 that comes after the one which they
judge (R285, R296): its own verdict stands among the answers, and it reserves nothing. -/
def State.askRefused (s : State) (t : Task) (i : Image) (holder c : Nat) : State × Nat :=
  let g := s.gangFor t { bg := t.record.bg, image := i.handle, members := [] } t.record.members.length
  let s := ((s.modTask t.id fun t => { t with state := .placing }).putGang g).askPackages g t.record t.level holder none
  let a : ReserveAnswer := { gang := g.id, pkg := s.pkg.toNat, holder := holder, taken := [], ready := none, status := caseStatus c,
                             groups := 0, case_ := c }
  ({ s with reservations := s.reservations ++ [(g.id, s.pkg.toNat, some a)] }, g.id)

/-- A task is tried (R285 cases 3 and 4, R294, R343): placed at this count, ended, blocked, or asked for elsewhere. -/
def State.tryPlace (s : State) (t : Task) (holder : Nat) : Tried :=
  match s.imageOf t.record with
  | none => .ended 6
  | some i =>
    if s.dieAbsent i.bytes t.record then .ended 4
    else match s.assign i.bytes t.record with
      | none => .ended 4
      | some ms =>
        let h : Hold := { bg := t.record.bg, image := i.handle, members := ms }
        if s.timetableRefused i.bytes t.record ms then
          if s.spans t.record then .asking (s.askRefused t i holder 5).1 (s.askRefused t i holder 5).2 else .ended 6
        else if !s.fits h t.level holder (t.saved.getD 0) then .blocked s h (s.lacks h t.level holder (t.saved.getD 0))
        else
          let g := s.gangFor t h t.record.members.length
          let s := s.modTask t.id fun t => { t with state := .placing }
          if g.others = 0 then
            let s := ({ s with claims := s.claims.filter fun (c : Claim) => c.holder != holder }).modTask t.id fun t => { t with blockedAt := none }
            let ready := s.holdReady h s.bel g.saved.isEmpty
            .placed (s.fixStart g t.record (startCount ready s.bel (g.warmup t.record) g.startRest g.tp [(s.powerUps, g.cold.length)]))
          else .asking ((s.putGang g).askPackages g t.record t.level holder none) g.id

/-! ### Rounds (R287–R289) -/

/-- A task's or head's blocked time begins, or ends where it lacks nothing that can be claimed; its claim comes due (R288). -/
def State.blockTask (s : State) (tid : Nat) (lacks : Bool) : State :=
  match s.task? tid with
  | some t => if !lacks then s.modTask tid fun t => { t with blockedAt := none } else if t.blockedAt.isSome then s else
      (s.modTask tid fun t => { t with blockedAt := some s.bel }).schedule (s.now + Config.claimCounts) phEnd (.ev (.resourceClaim (2 * tid)))
  | none => s

/-- The same of a queue's head. -/
def State.blockHead (s : State) (q level : Nat) (h : Hold) (lacks : Bool) : State :=
  if !lacks then s.modQueue q fun y => { y with want := none, blockedAt := none } else
  let since := ((s.queues.find? fun y => y.key == q).bind fun (y : Queue) => y.blockedAt)
  let s := s.modQueue q fun y => { y with want := some { holder := 2 * q + 1, level := level, hold := h }, blockedAt := some (since.getD s.bel) }
  if since.isSome then s else s.schedule (s.now + Config.claimCounts) phEnd (.ev (.resourceClaim (2 * q + 1)))

/-- RESOURCE_CLAIM (R288): a task (even) or head (odd) still blocked takes a claim on what it would use. -/
def execResourceClaim (l : Nat) (s : State) : Res :=
  let claim := fun (c : Claim) => { s with claims := (s.claims.filter fun (x : Claim) => x.holder != c.holder) ++ [c] }
  if l % 2 = 0 then
    match s.task? (l / 2) with
    | some t =>
      match t.blockedAt, s.imageOf t.record with
      | some b, some i =>
        match s.assign i.bytes t.record with
        | some ms => if b + Config.claimCounts ≤ s.bel then
            .next (claim { holder := l, level := t.level, hold := { bg := t.record.bg, image := i.handle, members := ms } })
          else .next s
        | none => .next s
      | _, _ => .next s
    | none => .next s
  else
    match s.queues.find? fun y => y.key == l / 2 with
    | some y =>
      match y.blockedAt, y.want with
      | some b, some c => if b + Config.claimCounts ≤ s.bel then .next (claim c) else .next s
      | _, _ => .next s
    | none => .next s

/-- Ready tasks of a level: pre-empted ones first, then by launch and index. -/
def taskBefore (a b : Task) : Bool :=
  if a.saved.isSome != b.saved.isSome then a.saved.isSome else a.launch < b.launch || (a.launch == b.launch && a.index < b.index)

def insertTask (x : Task) : List Task → List Task
  | [] => [x]
  | y :: ys => if taskBefore x y then x :: y :: ys else y :: insertTask x ys

/-- The gang whose reservations are asked for a task that is no queue's head. -/
def State.askOf (s : State) (t : Task) : Option Gang :=
  if t.state ≠ .placing then none
  else s.gangs.find? fun g => g.task == t.id && g.state == .placing && (s.reservations.any fun r => r.1 == g.id) &&
    !s.queues.any fun y => y.asking == some g.id

/-- The ready tasks of a level, and those for which other packages have been asked, in their order. -/
def State.readyTasks (s : State) (level : Nat) : List Task :=
  (s.tasks.filter fun t => (t.state == .ready || (s.askOf t).isSome) && t.level == level && t.launch != 0).foldr insertTask []

/-- The head of a queue has been disposed of (R289). -/
def State.advanceQueue (s : State) (y : Queue) (rix level : Nat) : State :=
  let s := (s.portForget y.key).modQueue y.key fun x => { x with seen := x.ahead, ahead := none, blockedAt := none, asking := none, want := none }
  let s := { s with rr := tset s.rr level (y.ix + 1), claims := s.claims.filter fun (c : Claim) => c.holder != 2 * y.key + 1 }
  s.portWriteNow y.asid y.key (y.header + 8) (bytesOfNat 8 (rix + 1))

/-- The holder number of a gang's task or head in claims (R288): even for a task, odd for a queue's head. -/
def State.holderOf (s : State) (g : Gang) : Nat :=
  match s.queues.find? fun y => y.asking == some g.id with
  | some y => 2 * y.key + 1
  | none => 2 * g.task

/-- The cold groups of a gang on each of its packages, with the power-up counts given out there, in the order of the packages
(R298). -/
def State.coldOf (s : State) (g : Gang) : List (Nat × List Nat × Nat) :=
  let far := (s.reservations.filter fun r => r.1 == g.id && r.2.1 != s.pkg.toNat).filterMap fun r => r.2.2
  let all := (s.pkg.toNat, s.powerUps, g.cold.length) :: far.map fun (a : ReserveAnswer) => (a.pkg, a.taken, a.groups)
  (List.range 1024).filterMap fun p => all.find? fun x => x.1 == p

/-- Members of a hold and their dies. -/
def Hold.places (h : Hold) : List (Nat × Nat) := h.members.map fun m => (m.1, m.2.1)

/-- Members and dies of a gang on all its packages, as they have been reserved (R295, R296). -/
def State.placesOf (s : State) (g : Gang) : List (Nat × Nat) :=
  g.hold.places ++ (s.reservations.filter fun r => r.1 == g.id).flatMap fun r => (r.2.2.map fun (a : ReserveAnswer) => a.dies).getD []

/-- Cold groups of a gang on the packages before one. -/
def coldBefore (l : List (Nat × List Nat × Nat)) (pkg : Nat) : Nat := ((l.filter fun x => x.1 < pkg).map fun x => x.2.2).sum

/-- The home's decision goes to the packages that it asked, with the gang's cold groups. -/
def State.decideAsk (s : State) (g : Gang) (start : Option Nat) (status : Nat) : State :=
  let cold := s.coldOf g
  let say := (s.reservations.filter fun r => r.1 == g.id && r.2.1 != s.pkg.toNat).map fun r =>
    Control.answer r.2.1 { gang := g.id, pkg := s.pkg.toNat, holder := s.holderOf g, taken := [], ready := start, status := status,
                           groups := (cold.map fun x => x.2.2).sum, before := coldBefore cold r.2.1,
                           dies := s.placesOf g }
  { s with reservations := s.reservations.filter (fun r => r.1 != g.id), control := s.control ++ say }

/-- A gang whose reservations are given up; its task waits, and may take a claim where something lacks that can be claimed (R288),
or its launch ends. -/
def State.releaseAsking (s : State) (g : Gang) (status : Nat) (lacks : Bool) : State :=
  let s := s.decideAsk g none status
  let head := s.queues.find? fun y => y.asking == some g.id
  let keep := !g.saved.isEmpty && status == 0
  let s := if keep then s.modGang g.id fun x => { x with state := .saved, hold := default } else s.dropGang g.id
  match head with
  | some y =>
    if status = 0 then
      let lid := ((s.task? g.task).map fun (t : Task) => t.launch).getD 0
      let level := ((s.task? g.task).map fun (t : Task) => t.level).getD 0
      ({ s with launches := s.launches.filter (fun (l : Launch) => l.id != lid), tasks := s.tasks.filter fun (t : Task) => t.launch != lid }.modQueue
        y.key fun x => { x with asking := none }).blockHead y.key level g.hold lacks
    else
      let l := (((s.task? g.task).bind fun (t : Task) => s.launch? t.launch).map fun (l : Launch) => (l.rix, l.level)).getD (0, 0)
      (s.taskEnded g.task status 0).advanceQueue y l.1 l.2
  | none =>
    if status = 0 then (s.modTask g.task fun t => { t with state := .ready }).blockTask g.task lacks else s.taskEnded g.task status 0

/-- The start of a gang whose packages have all reserved (R296, R297). -/
def State.startAsking (s : State) (g : Gang) (answers : List ReserveAnswer) : State :=
  match s.task? g.task with
  | none => s
  | some t =>
    -- the members elsewhere were counted from the request; the placement is decided now
    let far := (answers.filterMap fun (a : ReserveAnswer) => a.ready).map fun n => n + (s.bel - g.decided)
    let ready := far.foldl max (s.holdReady g.hold s.bel g.saved.isEmpty)
    let cold := s.coldOf g
    let start := startCount ready s.bel (g.warmup t.record) g.startRest g.tp (cold.map fun x => x.2)
    let places := s.placesOf g
    let s := s.decideAsk g (some start) 0
    let s := ({ s with claims := s.claims.filter fun (c : Claim) => c.holder != 2 * t.id }).modTask t.id fun t => { t with blockedAt := none }
    let s := s.fixStart { g with decided := s.bel, coldBefore := coldBefore cold s.pkg.toNat, coldAll := (cold.map fun x => x.2.2).sum,
                                 places := places } t.record start
    match s.queues.find? fun y => y.asking == some g.id, s.launch? t.launch with
    | some y, some l => s.advanceQueue y l.rix l.level
    | _, _ => s

/-- The answers for a gang, once every package asked has answered. -/
def State.answersFor (s : State) (g : Gang) : Option (List ReserveAnswer) :=
  let l := (s.reservations.filter fun r => r.1 == g.id).map fun r => r.2.2
  if l.any Option.isNone then none else some (l.filterMap id)

/-- The refusal that decides among answers: the one at the first case of R285. -/
def firstRefusal (as : List ReserveAnswer) : Option ReserveAnswer :=
  (as.filter fun x => x.ready.isNone && x.status != 0).foldl (fun m x => match m with
    | some y => if x.case_ < y.case_ then some x else some y
    | none => some x) none

/-- A gang whose packages have all answered starts, or is given up: whether its task or head has been disposed of. The checks of
R285 decide in their order, whichever package makes them (R296). -/
def State.finishAsk (s : State) (g : Gang) : State × Bool :=
  match s.answersFor g with
  | none => (s, false)
  | some as =>
    match firstRefusal as with
    | some x => (s.releaseAsking g x.status false, true)
    | none =>
      if as.any fun x => x.ready.isNone then (s.releaseAsking g 0 (as.any fun x => x.ready.isNone && x.lacks), false)
      else (s.startAsking g as, true)

/-- The ready tasks are tried until one is not blocked; a task for which other packages have been asked is disposed of in a round
in which all have answered (R296). -/
def State.tryTasks : List Task → State → State × Bool
  | [], s => (s, false)
  | t :: ts, s =>
    match s.askOf t with
    | some g => match s.finishAsk g with
      | (s, true) => (s, true)
      | (s, false) => State.tryTasks ts s
    | none => match s.tryPlace t (2 * t.id) with
      | .placed s => (s, true)
      | .ended status =>
        let s := match t.saved.bind s.gang? with | some g => s.dropGang g.id | none => s
        (s.taskEnded t.id status 0, true)
      | .asking s _ => State.tryTasks ts s
      | .blocked s _ lacks => State.tryTasks ts (s.blockTask t.id lacks)

/-- A head that completes at once. -/
def State.endHead (s : State) (y : Queue) (h p : List Byte) (arrive : Bool) (rec : Option LaunchRecord) (status cause : Nat) : State :=
  let (id, s) := s.fresh
  let s := s.putLaunch (launchOf id y h p arrive)
  let s := match rec with
    | some r => { s with tasks := s.tasks ++ [{ taskOf s.nextId id 0 (hPrio h) r with state := .complete }], nextId := s.nextId + 1 }
    | none => s
  (s.advanceQueue y (hRix h) (hPrio h)).soon (.ev (.taskComplete id status cause))

/-- A record with its member table. -/
def fillRecord (r : LaunchRecord) (es : List (BitVec 128)) : Option LaunchRecord :=
  if es.any memberBad then none else some { r with members := es }

/-- A record that R284 refuses, for the arrival at its DBAR (R289): none where no barrier object can stand at it. -/
def rawRecord (bs : List Byte) : LaunchRecord :=
  let dbar := natAt bs 160 8
  { (default : LaunchRecord) with dbar := if 2 ^ 63 ≤ dbar ∨ dbar % 16 ≠ 0 then 0 else dbar, darrv := natAt bs 168 8 }

/-- The ABAR of a packet is an address at which a barrier object can stand (R286). -/
def abarGood (p : List Byte) : Bool := natAt p 40 8 % 16 == 0 && natAt p 40 8 < 2 ^ 63

/-- A launch packet of one task (R249, R285). -/
def State.disposeTask (s : State) (y : Queue) (h p : List Byte) : State × Bool :=
  let q := y.key
  match s.portRead q y.asid (natAt p 8 8) 256 with
  | .wait n => (s.portAsk q n, false)
  | .fault c => (s.endHead y h p true none 2 c, true)
  | .bytes bs =>
    match parseRecord bs with
    | none => (s.endHead y h p true (some (rawRecord bs)) 6 0, true)
    | some (r, nmemb, mtab) =>
      match s.portRead q y.asid mtab (16 * nmemb) with
      | .wait n => (s.portAsk q n, false)
      | .fault c => (s.endHead y h p true (some r) 2 c, true)
      | .bytes ms =>
        match fillRecord r (parseMembers nmemb ms) with
        | none => (s.endHead y h p true (some r) 6 0, true)
        | some r =>
          let refused := s.recordCase r
          -- case 4 of a gang that spans packages comes after case 3 as the others judge it
          if refused.any fun c => c < 4 || !s.spans r then (s.endHead y h p true (some r) (caseStatus (refused.getD 0)) 0, true)
          else
            let (lid, s) := s.fresh
            let (tid, s) := s.fresh
            let t := taskOf tid lid 0 (hPrio h) r
            let enter := fun (s : State) => { (s.putLaunch (launchOf lid y h p true)) with tasks := s.tasks ++ [{ t with state := .placing }] }
            let tried : Tried := match refused, s.imageOf r with
              | some c, some i => .asking (s.askRefused t i (2 * q + 1) c).1 (s.askRefused t i (2 * q + 1) c).2
              | _, _ => s.tryPlace t (2 * q + 1)
            match tried with
            | .placed s => ((enter s).advanceQueue y (hRix h) (hPrio h), true)
            | .ended status => (s.endHead y h p true (some r) status 0, true)
            | .blocked s hold lacks => ((s.portForget q).blockHead q (hPrio h) hold lacks, false)
            | .asking s g => ((enter (s.portForget q)).modQueue q fun x => { x with asking := some g }, false)

/-! ### Graphs (R290–R292) -/

/-- The entries of a task table: record address, predecessors, successor rule; none where one breaks Table 11-5. -/
def parseEntries : Nat → Nat → List Byte → Option (List (Nat × List Nat × Option Nat))
  | 0, _, _ => some []
  | n + 1, i, bs =>
    let np := natAt bs 8 2
    let so := natAt bs 10 2
    let ps := (List.range 8).map fun k => natAt bs (16 + 2 * k) 2
    if 8 < np ∨ natAt bs 12 4 ≠ 0 ∨ (ps.drop np).any (· ≠ 0) ∨ (ps.take np).any (fun x => i ≤ x) ∨
       (so ≠ 0xFFFF ∧ (np ≠ 0 ∨ i ≤ so)) then none
    else match parseEntries n (i + 1) (bs.drop 32) with
      | none => none
      | some es => some ((natAt bs 0 8, ps.take np, if so = 0xFFFF then none else some so) :: es)

/-- Consecutive pieces of a byte list. -/
def splitBytes : List Nat → List Byte → List (List Byte)
  | [], _ => []
  | n :: ns, bs => bs.take n :: splitBytes ns (bs.drop n)

/-- The least offset of the snapshot area with room for n bytes (R291). -/
def State.snapRoom (s : State) (n : Nat) : Option Nat :=
  let used := (s.launches.filter fun l => l.bytes != 0).map fun (l : Launch) => (l.snapAt, l.snapAt + l.bytes)
  (0 :: used.map (·.2)).foldl (fun (m : Option Nat) o =>
    if o + n ≤ 2 ^ 30 && !(used.any fun u => u.1 < o + n && o < u.2) then
      (match m with | some x => some (min x o) | none => some o)
    else m) none

/-- Offset of the snapshot area in stack 0 (Table 14-5). -/
def snapArea : Nat := 0xF80000000

/-- A graph launch packet: checks and snapshot (R290, R291). -/
def State.disposeGraph (s : State) (y : Queue) (h p : List Byte) : State × Bool :=
  let q := y.key
  let rec_ := natAt p 8 8
  let no := fun (s : State) (status cause : Nat) => (s.endHead y h p true none status cause, true)
  match s.portRead q y.asid rec_ 64 with
  | .wait n => (s.portAsk q n, false)
  | .fault c => no s 2 c
  | .bytes gr =>
    let ntask := natAt gr 0 4
    let ttab := natAt gr 8 8
    if ntask = 0 ∨ 4096 < ntask ∨ 2 ≤ natAt gr 4 1 ∨ natAt gr 5 3 ≠ 0 ∨ ttab % 64 ≠ 0 ∨ natOfBytes (gr.drop 16) ≠ 0 then no s 6 0
    else match s.portRead q y.asid ttab (32 * ntask) with
      | .wait n => (s.portAsk q n, false)
      | .fault c => no s 2 c
      | .bytes tt =>
        match parseEntries ntask 0 tt with
        | none => no s 6 0
        | some es =>
          if es.any fun e => e.1 % 64 != 0 then no s 6 0
          else match s.portReads q y.asid (es.map fun e => (e.1, 256)) with
            | .wait n => (s.portAsk q n, false)
            | .fault c => no s 2 c
            | .bytes rb =>
              let rs := (splitBytes (List.replicate ntask 256) rb).map parseRecord
              if rs.any Option.isNone then no s 6 0
              else
                let rs := rs.filterMap id
                match s.portReads q y.asid (rs.map fun r => (r.2.2, 16 * r.2.1)) with
                | .wait n => (s.portAsk q n, false)
                | .fault c => no s 2 c
                | .bytes mb =>
                  let full := (rs.zip (splitBytes (rs.map fun r => 16 * r.2.1) mb)).map fun x => fillRecord x.1.1 (parseMembers x.1.2.1 x.2)
                  if full.any fun r => match r with | none => true | some r => (s.checkRecord r).isSome then no s 6 0
                  else
                    let all := gr ++ tt ++ rb ++ mb
                    let size := ceilDiv all.length 64 * 64
                    match s.snapRoom size with
                    | none => (s.portForget q, false)
                    | some off =>
                      let (lid, s) := s.fresh
                      let s := s.modStack 0 fun m => Mem.write m (placeBytes (snapArea + off) all)
                      let l : Launch := { launchOf lid y h p true with
                        graph := some rec_, serial := bit 0 (natAt gr 4 1), snapAt := off, bytes := size }
                      let first := s.nextId
                      let ts := (es.zip (full.filterMap id)).mapIdx fun i x =>
                        { taskOf (first + i) lid i (hPrio h) x.2 with preds := x.1.2.1, succof := x.1.2.2, state := .pending }
                      let s := { s.putLaunch l with tasks := s.tasks ++ ts, nextId := first + ntask }
                      ((s.settleGraph lid).advanceQueue y (hRix h) (hPrio h), true)

/-- When a packet is noticed, given whether it is there: a packet that was not there in the last round is noticed in this round or
the next, within 512 counts (R286, log 69). Where the header or the ring lies outside the package, a round that still waits for
the answer changes nothing. -/
def noticeAt (there : Option Bool) (before : Option Nat) (late : Bool) (now : Nat) : Option Nat :=
  match there with
  | none => before
  | some true => some (before.getD (if late then now + 1 else now))
  | some false => none

/-- A round looks at the head of a queue and at the packet after it (R286). -/
def State.noticeQueue (s : State) (q : Nat) : State :=
  match s.queues.find? fun y => y.key == q with
  | none => s
  | some y =>
    if y.stopped ∨ y.asking.isSome ∨ s.rixPending y then s
    else match s.portRead y.key y.asid y.header 64 with
      | .bytes h =>
        let a := Config.freeBool s.free
        let b := Config.freeBool (s.free + 1)
        let head := (s.packetAt y h (hRix h)).found
        let next := (s.packetAt y h (hRix h + 1)).found
        { s with free := s.free + 2 }.modQueue q fun x =>
          { x with seen := noticeAt head x.seen a s.bel, ahead := noticeAt next x.ahead b s.bel }
      | _ => s

/-- A head that waits on its barrier or on a serial graph is not blocked for lack of anything: no claim comes due (R288). -/
def State.waitHead (s : State) (q : Nat) : State := (s.portForget q).modQueue q fun y => { y with want := none, blockedAt := none }

/-- A queue is visited at a level (R287): whether its head has been disposed of. A head for which other packages have been asked
is disposed of in a round in which all have answered (R296). A serial graph is known by the address of its record alone, whatever
the ASID of its queue, a choice: R292 names the address only (log 77). -/
def State.visitQueue (s : State) (level q : Nat) : State × Bool :=
  match s.queues.find? fun y => y.key == q with
  | none => (s, false)
  | some y =>
    if y.stopped ∨ s.rixPending y then (s, false)
    else match y.asking.bind s.gang? with
    | some g => if ((s.task? g.task).map fun (t : Task) => t.level) = some level then s.finishAsk g else (s, false)
    | none => match s.headPacket y with
      | (.wait n, _) => (s.portAsk q n, false)
      | (.fault _, _) => (s.stopQueue q, false)
      | (.bytes h, g) =>
        if hPrio h % 4 ≠ level then (s, false)
        else match g with
          | .wait n => (s.portAsk q n, false)
          | .fault _ => (s.stopQueue q, false)
          | .bytes p =>
            if p.isEmpty then (s.portForget q, false)
            else if !y.seen.any fun n => n ≤ s.bel then (s.portForget q, false)
            else
              if packetBad p then (s.endHead y h p (abarGood p) none 6 0, true)
              else
                let go := fun (s : State) =>
                  if natAt p 4 1 = 0x10 then s.disposeTask y h p
                  else if s.launches.any fun l => l.graph == some (natAt p 8 8) && l.serial then (s.waitHead q, false)
                  else s.disposeGraph y h p
                if bit 0 (natAt p 5 1) then
                  match s.portRead q y.asid (natAt p 32 8) 8 with
                  | .wait n => (s.portAsk q n, false)
                  | .fault c => (s.endHead y h p true none 2 c, true)
                  | .bytes w => if natOfBytes w = 0 then go s else (s.waitHead q, false)
                else go s

/-- Queues are visited until one disposes of its head. -/
def State.visitQueues (level : Nat) : List Nat → State → State × Bool
  | [], s => (s, false)
  | q :: qs, s =>
    match s.visitQueue level q with
    | (s, true) => (s, true)
    | (s, false) => State.visitQueues level qs s

/-- The launch queues in the order of a level's round-robin. -/
def State.queueOrder (s : State) (start : Nat) (launch : Bool) : List Nat :=
  let ixs := (List.range 256).filter fun i => s.queues.any fun y => y.ix == i && y.launch == launch
  ((ixs.filter fun i => start ≤ i) ++ ixs.filter fun i => i < start).map fun i => 2 * i + b2n launch

/-- The levels in turn. -/
def State.roundLevels : List Nat → State → State
  | [], s => s
  | l :: ls, s =>
    match State.tryTasks (s.readyTasks l) s with
    | (s, true) => s
    | (s, false) =>
      match State.visitQueues l (s.queueOrder (tget s.rr l 0) true) s with
      | (s, true) => s
      | (s, false) => State.roundLevels ls s

/-- LAUNCH_ROUND (R287): at most one launch starts or is disposed of; the copy engines look at their queues (R286). -/
def execLaunchRound (s : State) : Res :=
  if !s.ready then .next s
  else
    let copies := (s.queueOrder s.rrCopy false).map fun q => Micro.ev (.copyPacketStart q)
    let s := (s.queueOrder 0 true).foldl State.noticeQueue s
    .next ((State.roundLevels [0, 1, 2, 3] s).soonAll copies)

/-! ### Gangs that span packages (R296) -/

/-- The launch record of a reservation, with the member entries in their places. -/
def reservedRecord (r : Reservation) : LaunchRecord :=
  let bs := bytesOfNat 256 r.record.toNat
  let n := natAt bs 144 2
  { digest := r.digest, args := (List.range 8).map fun i => BitVec.ofNat 64 (natAt bs (64 + 8 * i) 8),
    seed := BitVec.ofNat 64 (natAt bs 128 8), bg := bit 0 (natAt bs 136 1), succ := false, warmup := natAt bs 140 4, asid := r.asid, dbar := 0,
    darrv := 0,
    members := (List.range n).map fun i => match (r.ranks.zip r.entries).find? fun x => x.1 == i with
      | some x => x.2
      | none => BitVec.allOnes 128 }

/-- The number of another package's task or head in the claims here (R288, log 66). -/
def farHolder (pkg holder : Nat) : Nat := 2 ^ 64 * (pkg + 1) + holder

/-- The answer to a request: a reservation, or a refusal with its reason. -/
def State.answerReserve (s : State) (r : Reservation) (ready : Option Nat) (status groups case_ : Nat) (lacks : Bool) : State :=
  { s with control := s.control ++ [.answer r.fromPkg
    { gang := r.gang, pkg := s.pkg.toNat, holder := r.holder, taken := s.powerUps, ready := ready, status := status, groups := groups,
      case_ := case_, lacks := lacks, dies := ((s.gang? r.gang).map fun g => g.hold.places).getD [] }] }

/-- A refusal at a case of R285, or after them for the timetable. -/
def State.refuseReserve (s : State) (r : Reservation) (c : Nat) : State := s.answerReserve r none (caseStatus c) 0 c false

/-- The members of an ended gang here are asked for the successor that they have named (R299, log 68). -/
def State.reserveSuccessor (s : State) (r : Reservation) (n : Nat) : State :=
  let rec_ := reservedRecord r
  match s.gang? r.gang with
  | none => s.answerReserve r none 5 0 0 false
  | some g =>
    let h := s.successorHold g rec_
    if g.state ≠ .ended then s.answerReserve r none 0 0 0 false
    else if !(s.inherits g rec_) || g.members.any fun m => (s.ctx m.die m.ctx).succ != some n then s.answerReserve r none 5 0 0 false
    else if s.holdLeaves h then s.answerReserve r none 4 0 3 false
    else if !s.successorOpen g h then s.answerReserve r none 0 0 0 false
    else
      let (tid, s) := s.fresh
      let s := { s with tasks := s.tasks ++ [{ taskOf tid 0 n r.level rec_ with state := .placing }] }
      (s.modGang g.id fun x => { x with succTask := some tid, hold := h }).answerReserve r (some s.bel) 0 0 0 false

/-- RESERVE_REQUEST (R296): the members that name this package are reserved under R294 and R295, and the ready count is
answered, or the refusal; a gang that was saved here is the one that is placed again (R302). A package whose clock has lost lock
takes no part (R336). -/
def execReserveRequest (r : Reservation) (s : State) : Res :=
  let rec_ := reservedRecord r
  if !s.belfryOn then .next s
  else match r.succ with
  | some n => .next (s.reserveSuccessor r n)
  | none => match s.imageOf rec_ with
    | none => .next (s.refuseReserve r 1)
    | some i =>
      if s.dieAbsent i.bytes rec_ then .next (s.refuseReserve r 3)
      else match s.assign i.bytes rec_ with
        | none => .next (s.refuseReserve r 4)
        | some ms =>
          let h : Hold := { bg := rec_.bg, image := i.handle, members := ms }
          let me := farHolder r.fromPkg r.holder
          if s.timetableRefused i.bytes rec_ ms then .next (s.refuseReserve r 5)
          else if !s.ready ∨ !s.fits h r.level me r.gang then
            let c : Claim := { holder := me, level := r.level, hold := h }
            let lacks := s.lacks h r.level me r.gang
            let s := if r.claim && lacks then
              { s with claims := (s.claims.filter fun (x : Claim) => x.holder != me) ++ [c] } else s
            .next (s.answerReserve r none 0 0 0 lacks)
          else
            let (tid, s) := s.fresh
            let saved := (s.gangs.find? fun g => g.id == r.gang && g.state == .saved).map fun (g : Gang) => g.id
            let t := { taskOf tid 0 0 r.level rec_ with state := .placing, saved := saved }
            let g : Gang := { s.gangFor t h rec_.members.length with id := r.gang, task := tid, home := r.fromPkg, decided := r.decided }
            let s := { s with tasks := s.tasks ++ [t], claims := s.claims.filter fun (x : Claim) => x.holder != me }.putGang g
            .next (s.answerReserve r (some (s.holdReady h r.decided g.saved.isEmpty)) 0 g.cold.length 0 false)

/-- The home of a gang whose members have all ended with EXITS has every answer (R299): the successor's start is fixed at the next
period boundary, the gang having ended once its home knows it (log 68), or asked for again there, or refused; a die or stack that it
needs and that leaves ends it with DIE-ABSENT (R306). -/
def State.finishSuccessor (s : State) (g : Gang) : State :=
  match s.answersFor g, g.succTask.bind s.task? with
  | some as, some u =>
    let at_ := leastCongruent (s.bel + 1) 0 (s.recordPeriod u.record)
    if as.any fun x => x.ready.isNone && x.status == 5 then
      let s := (s.decideAsk g none 5).freeGang g
      (((s.dropGang g.id).modTask g.task fun t => { t with state := .running }).modTask u.id fun t => { t with state := .pending }).taskEnded g.task 5 0
    else if s.holdLeaves g.hold || as.any fun x => x.ready.isNone && x.status != 0 then
      (((s.decideAsk g none 4).freeGang g).dropGang g.id).taskEnded u.id 4 0
    else if !s.successorOpen g g.hold || as.any fun x => x.ready.isNone then
      (s.decideAsk g none 0).scheduleBel at_ phStart (.ev (.successorStart g.id))
    else
      ((s.decideAsk g (some at_) 0).modGang g.id fun x => { x with resumeAt := some at_, places := s.placesOf g }).scheduleBel at_ phStart
        (.ev (.successorStart g.id))
  | _, _ => s

/-- A member package learns what becomes of a gang that has ended with EXITS; where the word comes after the start count, its members
begin in the next count (log 68). -/
def State.decidedSuccessor (s : State) (g : Gang) (a : ReserveAnswer) : State :=
  match a.ready with
  | some at_ => (s.modGang g.id fun x => { x with resumeAt := some at_, places := a.dies }).scheduleBel (max at_ (s.bel + 1)) phStart
      (.ev (.successorStart g.id))
  | none =>
    let s := { s with tasks := s.tasks.filter fun (t : Task) => !(t.launch == 0 && some t.id == g.succTask) }
    if a.status = 0 then s.modGang g.id fun x => { x with succTask := none } else (s.freeGang g).dropGang g.id

/-- The successor of a gang begins in its place, with J = 0 and nothing cleared or loaded (R48, R299); on a die that a request takes
offline after its start was fixed, it is to be pre-empted like any gang there (R306). -/
def State.succeedGang (s : State) (g : Gang) (u : Task) (h : Hold) : State :=
  let s := s.freeGang g
  let fresh := s.gangFor u h u.record.members.length
  let n : Gang := { fresh with state := .running, startAt := s.bel, gbase := g.resumeAt.getD s.bel, home := g.home,
                               others := g.others, offline := g.offline, places := g.places,
                               id := if g.others = 0 then fresh.id else g.id }
  let s := ((s.dropGang g.id).putGang n).prepare n u.record false
  let s := h.members.foldl (fun s m => s.modDie m.2.1 fun x =>
    { x with groups := (List.range 4).foldl (fun gs k => if bit k (mGrp m.2.2) then tmod gs k fun (y : TileGroup) =>
               { y with bits := y.bits.map fun (b : TileBits) => { b with busy := false, cnt := 0, mma := false } } else gs) x.groups,
             tags := if mTen m.2.2 then x.tags.filter fun p => !(4 * mTbase m.2.2 ≤ p.1 && p.1 < 4 * (mTbase m.2.2 + 2 ^ mTlog m.2.2))
               else x.tags }) s
  ((s.beginMembers n).modTask u.id fun t => { t with state := .running }).tellCircuits n.id

/-- SUCCESSOR_START (R48, R299): at a period boundary of the successor at which its grants, phase and staging fit, it starts in
place of the gang that named it, on other packages at a count that all have been told (log 68). A die that is being taken offline
takes nothing new (R306); a die at its trip limit, or the power limit, makes it wait (R370). -/
def execSuccessorStart (gid : Nat) (s : State) : Res :=
  match s.gang? gid with
  | none => .next s
  | some g =>
    match g.succTask.bind s.task? with
    | none => .next s
    | some u =>
      let h := s.successorHold g u.record
      let again := s.scheduleBel (leastCongruent (s.bel + 1) 0 (s.recordPeriod u.record)) phStart (.ev (.successorStart gid))
      if g.state ≠ .ended then .next s
      else if g.resumeAt.any fun n => n ≤ s.bel then .next (s.succeedGang g u h)
      else if g.resumeAt.isSome then .next s
      else if s.holdLeaves h then .next ((((s.tellEnd g 4).freeGang g).dropGang gid).taskEnded u.id 4 0)
      else if !s.successorOpen g h then .next again
      else if g.others = 0 then .next (s.succeedGang g u h)
      else .next ((s.modGang gid fun x => { x with hold := h }).askPackages g u.record u.level (2 * u.id) (some u.index))

/-- RESERVE_REPLY (R296): at the gang's home an answer is noted; at a member package it is the home's decision. -/
def execReserveReply (a : ReserveAnswer) (s : State) : Res :=
  match s.gang? a.gang with
  | none => .next s
  | some g =>
    if g.home = s.pkg.toNat then
      let s := { s with reservations := s.reservations.map fun (r : Nat × Nat × Option ReserveAnswer) =>
        if r.1 = g.id ∧ r.2.1 = a.pkg then (r.1, r.2.1, some a) else r }
      .next (if g.state = .ended then s.finishSuccessor g else s)
    else if g.state = .ended then .next (s.decidedSuccessor g a)
    else if g.state ≠ .placing ∨ g.startAt ≠ 0 then .next s
    else match a.ready, s.task? g.task with
      | some start, some t => .next (s.fixStart { g with coldBefore := a.before, coldAll := a.groups, places := a.dies } t.record start)
      | _, _ =>
        let s := if a.status = 0 then s else { s with claims := s.claims.filter fun (c : Claim) => c.holder != farHolder g.home a.holder }
        .next (if g.saved.isEmpty || a.status != 0 then s.dropGang g.id else s.modGang g.id fun x => { x with state := .saved, hold := default })

end Sys2Proof.Machine
end

