-- ==== Sys2Proof/Machine/Copies.lean ====
section
/-!
DEFINITION. The copy engines (09 R248, R250, 11 R286): copy packets, their granules, their completions.
-/

namespace Sys2Proof.Machine

/-- Change of the copy in progress of a queue. -/
def State.modCopy (s : State) (q : Nat) (f : Copy → Copy) : State :=
  { s with copies := s.copies.map fun y => if y.queue = q then f y else y }

/-- A copy packet that breaks Table 9-6, or whose barriers R286 refuses. -/
def copyBad (p : List Byte) : Bool :=
  let opc := natAt p 4 1
  let fl := natAt p 5 1
  let len := natAt p 24 8
  let wbar := natAt p 32 8
  let abar := natAt p 40 8
  (opc != 1 && opc != 2) || 4 ≤ fl || natAt p 6 2 != 0 || natAt p 56 8 != 0 || natAt p 16 8 % 64 != 0 || len = 0 || len % 64 != 0 ||
  (bit 0 fl && (wbar % 16 != 0 || 2 ^ 63 ≤ wbar)) || (bit 1 fl && (abar % 16 != 0 || 2 ^ 63 ≤ abar))

/-- The queue of a copy engine's work. -/
def State.queue? (s : State) (q : Nat) : Option Queue := s.queues.find? fun y => y.key == q

/-- A granule of the copy performs at a free later count. -/
def State.planGranule (s : State) (q k : Nat) : State :=
  let (n, s) := (Config.freeNat s.free, { s with free := s.free + 1 })
  s.schedule (s.now + 1 + n) phEdge (.ev (.copyGranulePerform q k))

/-- The copy of a packet begins: RIX advances (R289), a fill has its pattern, a copy reads its source granule by granule. -/
def State.beginCopy (s : State) (y : Queue) (h p : List Byte) : State :=
  let q := y.key
  let n := natAt p 24 8 / 64
  let pattern := (List.range 8).flatMap fun _ => bytesOfNat 8 (natAt p 8 8)
  let c : Copy := { queue := q, rix := hRix h, seq := natAt p 0 4, srcAt := natAt p 8 8, dst := natAt p 16 8, len := natAt p 24 8,
                    abar := if bit 1 (natAt p 5 1) then some (natAt p 40 8) else none, tag := natAt p 48 8,
                    src := List.replicate n (if natAt p 4 1 = 2 then some pattern else none), performed := 0, stage := 0, status := 1,
                    cause := 0 }
  let s := (s.portForget q).modQueue q fun x => { x with seen := none }
  let s := { s with copies := s.copies ++ [c], rrCopy := y.ix + 1 }.portWriteNow y.asid q (y.header + 8) (bytesOfNat 8 (hRix h + 1))
  s.planGranule q 0

/-- A packet that is refused completes at once. -/
def State.refuseCopy (s : State) (y : Queue) (h p : List Byte) (status cause : Nat) : State :=
  let q := y.key
  let c : Copy := { (default : Copy) with queue := q, rix := hRix h, seq := natAt p 0 4, tag := natAt p 48 8, stage := 1, status := status,
                                          cause := cause }
  let s := (s.portForget q).modQueue q fun x => { x with seen := none }
  ({ s with copies := s.copies ++ [c], rrCopy := y.ix + 1 }.portWriteNow y.asid q (y.header + 8) (bytesOfNat 8 (hRix h + 1))).soon
    (.ev (.copyComplete q))

/-- COPY_PACKET_START (R250): the head of a copy queue whose earlier copy has completed starts, once its WBAR reads zero. -/
def execCopyPacketStart (q : Nat) (s : State) : Res :=
  match s.queue? q with
  | none => .next s
  | some y =>
    if y.stopped ∨ y.launch ∨ (s.copies.any fun c => c.queue == q) ∨ s.rixPending y then .next s
    else match s.headPacket y with
      | (.wait n, _) => .next (s.portAsk q n)
      | (.fault _, _) => .next (s.stopQueue q)
      | (.bytes _, .wait n) => .next (s.portAsk q n)
      | (.bytes _, .fault _) => .next (s.stopQueue q)
      | (.bytes h, .bytes p) =>
        if p.isEmpty then .next (s.portForget q)
        else if y.seen.isNone ∧ Config.freeBool s.free then
          .next ((({ s with free := s.free + 1 } : State).portForget q).modQueue q fun x => { x with seen := some s.bel })
        else
          let s := { s with free := s.free + 1 }.modQueue q fun x => { x with seen := some (x.seen.getD s.bel) }
          if copyBad p then .next (s.refuseCopy y h p 6 0)
          else if bit 0 (natAt p 5 1) then
            match s.portRead q y.asid (natAt p 32 8) 8 with
            | .wait n => .next (s.portAsk q n)
            | .fault c => .next (s.refuseCopy y h p 2 c)
            | .bytes w => if natOfBytes w = 0 then .next (s.beginCopy y h p) else .next (s.portForget q)
          else .next (s.beginCopy y h p)

/-- The copy ends with a fault; what it has performed stays (R250). -/
def State.copyFault (s : State) (q code : Nat) : State :=
  let lost := code == Cause.remotePath
  (s.modCopy q fun c => { c with stage := 1, status := if lost then 3 else 2, cause := if lost then 0 else code }).soon (.ev (.copyComplete q))

/-- The homes of a source granule of a copy. -/
def State.sourceHomes (s : State) (y : Queue) (c : Copy) (i : Nat) : List Home :=
  (chunksOf (c.srcAt + 64 * i) 64).filterMap fun x => (s.reachPort y.asid x.1 true false).toOption

/-- Unread source granules that the write of a place would change are read before it (R250); each other one is
read when its own destination granule performs (log 21). The second part is what their reads wait for. -/
def State.saveSource (s : State) (y : Queue) (c : Copy) (h : Home) : Copy × List (Home × Nat) :=
  let unread := (List.range (c.len / 64)).filter fun i =>
    c.performed < i && (c.src.getD i none).isNone && (s.sourceHomes y c i).any (s.sameBlock 64 h)
  unread.foldl (fun a i => match s.portRead c.queue y.asid (c.srcAt + 64 * i) 64 with
    | .bytes b => ({ a.1 with src := a.1.src.set i (some b) }, a.2)
    | .wait n => (a.1, a.2 ++ n)
    | .fault _ => a) (c, [])

/-- A destination granule at its home is written whole; the next follows it, or the completion. -/
def State.putGranule (s : State) (y : Queue) (c : Copy) (k va : Nat) (h : Home) (bs : List Byte) : State :=
  let q := y.key
  let s := (s.portForget q).modCopy q fun _ => { c with performed := k + 1 }
  let next := if c.len ≤ 64 * (k + 1) then Micro.ev (.copyComplete q) else Micro.ev (.copyGranulePerform q (k + 1))
  match h with
  | .remote _ _ =>
    (granuleWrites false false false va bs).foldl (fun s w =>
      let (id, s) := s.fresh
      let p : Pending := { portPending y.asid q [] [next] with id := id, write := some w }
      { s with pendings := s.pendings ++ [p] }.performWrite p w) s
  | .host a => (s.hostWrite a bs).soon next
  | h => if c.len ≤ 64 * (k + 1) then (s.writeHome h bs).soon next else (s.writeHome h bs).planGranule q (k + 1)

/-- COPY_GRANULE_PERFORM (R250): a destination granule performs whole, with the source bytes as they stood before the copy wrote;
the next follows it. -/
def execCopyGranulePerform (q k : Nat) (s : State) : Res :=
  match s.queue? q, s.copies.find? fun c => c.queue == q with
  | some y, some c =>
    if c.stage ≠ 0 ∨ c.performed ≠ k then .next s
    else if c.len ≤ 64 * k then .next (s.soon (.ev (.copyComplete q)))
    else
      let (got, from_) := match c.src.getD k none with
        | some b => (Got.bytes b, [])
        | none => (s.portRead q y.asid (c.srcAt + 64 * k) 64, s.sourceHomes y c k)
      match got with
      | .fault code => .next (s.copyFault q code)
      | .wait n => .next ((s.portAsk q n).planGranule q k)
      | .bytes bs =>
        let va := (c.dst + 64 * k) % 2 ^ 64
        match s.reachPort y.asid va false true with
        | .error code => .next (s.copyFault q code)
        | .ok h => .next (s.elastically (h :: from_) (.ev (.copyGranulePerform q k)) fun s =>
            match s.saveSource y c h with
            | (c, []) => s.putGranule y c k va h bs
            | (_, n) => (s.portAsk q n).planGranule q k)
  | _, _ => .next s

/-- COPY_COMPLETE (R250): after the last granule the arrival of LEN at ABAR, then the completion record, STATUS last; then the
queue's next packet may start. -/
def execCopyComplete (q : Nat) (s : State) : Res :=
  match s.queue? q, s.copies.find? fun c => c.queue == q with
  | some y, some c =>
    match c.stage with
    | 0 =>
      match c.abar with
      | some a => .next ((s.modCopy q fun c => { c with stage := 1 }).portArrive y.asid q [] a c.len [.ev (.copyComplete q)])
      | none => .next ((s.modCopy q fun c => { c with stage := 1 }).soon (.ev (.copyComplete q)))
    | 1 =>
      match s.portRead q y.asid y.header 64 with
      | .wait n => .next ((s.portAsk q n).schedule (s.now + 1) phEnd (.ev (.copyComplete q)))
      | .fault _ => .next ({ s with copies := s.copies.filter fun (x : Copy) => x.queue != q }.stopQueue q)
      | .bytes h =>
        let s := (s.portForget q).modCopy q fun c => { c with stage := 2 }
        .next (s.portRecord y.asid q (hCring h) (hClsz h) c.seq c.tag (64 * c.performed) c.cause c.status []
          ((match y.vector with | some v => [.vector v] | none => []) ++ [.ev (.copyComplete q)]))
    | _ => .next { s with copies := s.copies.filter fun (x : Copy) => x.queue != q }
  | _, _ => .next s

end Sys2Proof.Machine
end

