-- ==== Sys2Proof/Machine/Homes.lean ====
section
/-!
DEFINITION. Elastic frames at their home, on their way, and their answers (12 R327, 13 R349, R350, R354; layouts: log 9).
-/

namespace Sys2Proof.Machine

/-! ### Serving a request (R354) -/

/-- The answer to a request: a cause code (0: none) and data. -/
def State.replyTo (s : State) (f : Frame) (code : Nat) (data : List Byte) : State :=
  s.answer { kind := FrameKind.reply, hop := 0, srcPkg := s.pkg.toNat, srcDie := f.dstDie, dstPkg := f.srcPkg, dstDie := f.srcDie,
             chan := f.chan, seq := 0, addr := 0, gang := 0, op := code, data := data } Instr.readReply

/-- ELASTIC_READ (R354): the bytes of a domain address of this package. -/
def execElasticRead (f : Frame) (s : State) : Res :=
  s.inDomain fun s => match s.domainHome f.addr with
  | .error code => .next (s.replyTo f code [])
  | .ok h => .next (s.elastically [h] (.ev (.elasticRead f)) fun s => match s.readHome h f.op with
    | .error code => s.replyTo f code []
    | .ok v => s.replyTo f 0 (bytesOfNat f.op v))

/-- The n data flits of a long write frame from flit i on perform one after the other, as far as bursts can take place and up to
one that its home refuses; then the answer leaves. -/
def State.writeFlits (s : State) (f : Frame) (i : Nat) : Nat → State
  | 0 => s.replyTo f 0 []
  | n + 1 =>
    match s.domainHome (f.addr + 64 * i) with
    | .error code => s.replyTo f code []
    | .ok h =>
      if !h.inside then s.replyTo f Cause.addressRange []
      else match s.elasticTurn [h] with
        | none => s.laterOn (.flits f i)
        | some s => State.writeFlits (s.writeHomeMasked h (natOfBytes ((f.data.drop (64 * i)).take 64)) (2 ^ 64 - 1) 64) f (i + 1) n

/-- ELASTIC_WRITE (R354): the bytes that its mask names perform at a domain address of this package. -/
def execElasticWrite (f : Frame) (s : State) : Res :=
  s.inDomain fun s => match s.domainHome f.addr with
  | .error code => .next (s.replyTo f code [])
  | .ok h =>
    if !h.inside then .next (s.replyTo f Cause.addressRange [])
    else if f.data.length ≤ 64 then
      .next (s.elastically [h] (.ev (.elasticWrite f)) fun s => (s.writeHomeMasked h (natOfBytes f.data) f.op 64).replyTo f 0 [])
    else .next (s.writeFlits f 0 f.dataFlits)

/-- The operation of an atomic code. -/
def atomOfCode (c : Nat) : AtomOp := match c with | 0 => .add | 1 => .inc | 2 => .cas | _ => .xchg

/-- An atomic, claim, arrival or cell update at a home of this package, with its answer. -/
def State.serveAtomic (s : State) (h : Home) (f : Frame) : Except Nat (State × List Byte) :=
  let size := f.op / 2 ^ 8 % 2 ^ 8
  match f.op % 2 ^ 8 with
  | 4 => match s.claimAt h with
    | .ok (s, v, ring, lsz) => .ok (s, bytesOfNat 8 v ++ bytesOfNat 8 ring ++ bytesOfNat 1 lsz)
    | .error c => .error c
  | 5 => match s.arriveHome h (natOfBytes f.data) with
    | .ok s => .ok (s, [])
    | .error c => .error c
  | 6 => match s.readHome h 4 with
    | .ok old =>
      let r := scatSum (fpValue .f32 old) (fpValue .f32 (natOfBytes f.data))
      .ok (s.writeHome h (bytesOfNat 4 r.bits), bytesOfNat 1 (b2n (fpValue .f32 r.bits).isNaN + 2 * b2n (r.flags &&& flagOF != 0)))
    | .error c => .error c
  | 7 => match s.readHome h 16 with
    | .ok old => .ok (s.writeHome h (bytesOfNat 16 ((old + natOfBytes f.data) % 2 ^ 128)), [])
    | .error c => .error c
  | k =>
    match s.atomAt h (atomOfCode k) size (natOfBytes (f.data.take 8)) (natOfBytes ((f.data.drop 8).take 8)) with
    | .ok (s, old) => .ok (s, bytesOfNat 8 old)
    | .error c => .error c

/-- ELASTIC_ATOMIC (R354): indivisibly at a domain address of this package. -/
def execElasticAtomic (f : Frame) (s : State) : Res :=
  s.inDomain fun s => match s.domainHome f.addr with
  | .error code => .next (s.replyTo f code [])
  | .ok h => .next (s.elastically [h] (.ev (.elasticAtomic f)) fun s => match s.serveAtomic h f with
    | .error code => s.replyTo f code []
    | .ok (s, data) => s.replyTo f 0 data)

/-! ### The answer at the requester -/

/-- What an answer brings: data, or a cause code with its TRAPINFO, if the cause has one of its own. -/
abbrev Answer := Except (Nat × Option Nat) (List Byte)

/-- An answer reaches a started request. -/
def State.answerReq (s : State) (d c id : Nat) (r : Answer) : State :=
  match (s.ctx d c).req? id with
  | none => s
  | some q => match r with
    | .error e => s.reqPoison d c id e.1 (e.2.getD q.addr.toNat)
    | .ok bs => (s.modReq d c id fun q => { q with value := some (natOfBytes (bs.take q.size)) }).doneReq d c id

/-- An answer reaches a granule of an RLD. -/
def State.answerGran (s : State) (d c id k : Nat) (r : Answer) : State :=
  match (s.ctx d c).req? id with
  | none => s
  | some q => match r with
    | .error e => s.reqPoison d c id e.1 (e.2.getD ((q.gran? k).map (·.addr) |>.getD q.addr.toNat))
    | .ok bs =>
      let s := s.modGran d c id k fun g => { g with data := some (natOfBytes (bs.take 64)) }
      let (j, s) := (Config.freeNat s.free, { s with free := s.free + 1 })
      s.schedule (s.now + j) phEdge (.ev (.rldGranuleLand d c id k))

/-- An answer reaches elements of a DQ entry. -/
def State.answerElem (s : State) (d c id : Nat) (gs : List Nat) (r : Answer) : State :=
  let src := ((s.ctx d c).arch.dqEntry? id).map fun (e : DqEntry) => e.src
  gs.foldl (fun s g => s.elemGot d c id g (match r with
    | .error e => .error (ixTrap e.1 (e.2.getD ((src.map fun (q : AqEntry) => q.addrOf g).getD 0)))
    | .ok bs => .ok (natOfBytes bs))) s

/-- An answer reaches a released write: it has performed, with the flags of a float cell; or its fault is kept. -/
def State.answerWrite (s : State) (id : Nat) (r : Answer) : State :=
  match s.pendings.find? fun p => p.id == id with
  | none => s
  | some p =>
    let addr := match p.write, p.arrival, p.scat with
      | some w, _, _ => w.addr
      | none, some a, _ => a.addr.toNat
      | none, none, e :: _ => e.addr
      | none, none, [] => 0
    match r with
    | .error e => s.pendingFault p p.home e.1 (e.2.getD addr)
    | .ok bs =>
      let s := match p.scat, bs with
        | e :: _, b :: _ =>
          if (s.ctx p.die p.ctx).gang = p.gang then
            s.scatFlags p.die p.ctx e.region { value := 0, sat := false, nanv := b.getLsbD 0, ovf := b.getLsbD 1 }
          else s
        | _, _ => s
      s.performed id

/-- An answer reaches a WAITB that polls a word elsewhere (R130). -/
def State.answerWait (s : State) (d c eid : Nat) (r : Answer) : State :=
  if (s.ctx d c).waitReq ≠ some eid then s
  else match r with
    | .error e => s.modCtx d c fun x =>
        { x with waitReq := none, waitFault := some e }
    | .ok bs =>
      let (k, s) := (Config.freeNat s.free, { s with free := s.free + 1 })
      s.modCtx d c fun x => { x with waitReq := none, waitReply := some (natOfBytes (bs.take 8), s.bel + 64 + k) }

/-- An answer reaches a sent atomic or claim (R124). -/
def State.answerAtomic (s : State) (d c id : Nat) (r : Answer) : Res :=
  let s := s.modSent d c id fun q => match r with
    | .error e => { q with poison := some { code := e.1, info := e.2.getD q.addr.toNat, cls := q.cls, clus := none } }
    | .ok bs => { q with value := some (natOfBytes (bs.take 8)), aux := (natOfBytes ((bs.drop 8).take 8), natOfBytes ((bs.drop 16).take 1)) }
  execAtomicValueReturn d c id s

/-- An answer reaches a read of the dispatcher or a copy engine. -/
def State.answerPort (s : State) (eid : Nat) (r : Answer) : State :=
  { s with fetched := s.fetched.map fun (f : Fetched) =>
      if f.id = eid then (match r with
        | .ok bs => { f with data := some bs }
        | .error e => { f with fault := some e.1 })
      else f }

/-- An answer reaches whoever waits for it. -/
def State.deliver (s : State) (e : Elastic) (r : Answer) : Res :=
  match e.who with
  | .req d c id => .next (s.answerReq d c id r)
  | .gran d c id k => .next (s.answerGran d c id k r)
  | .elem d c id gs => .next (s.answerElem d c id gs r)
  | .write id => .next (s.answerWrite id r)
  | .writes ids => .next (ids.foldl (fun s id => s.answerWrite id r) s)
  | .wait d c => .next (s.answerWait d c e.id r)
  | .atomic d c id => s.answerAtomic d c id r
  | .port _ => .next (s.answerPort e.id r)

/-- READ_REPLY (R349): data, an acknowledgement, or a fault met at the home. -/
def execReadReply (f : Frame) (s : State) : Res :=
  s.fromDomain f fun s => match s.takeElastic f.chan with
  | none => .next s
  | some (e, s) => s.deliver e (if f.op = 0 then .ok f.data else .error (f.op, none))

/-- STATUS_FRAME (R350): PATH-LOST, with the peer package and the hop in TRAPINFO (Table 12-3). -/
def execStatusFrame (f : Frame) (s : State) : Res :=
  s.fromDomain f fun s => match s.takeElastic f.chan with
  | none => .next s
  | some (e, s) => s.deliver e (.error (Cause.remotePath, some (f.addr % 2 ^ 16)))

/-- PATH_LOST_TIMEOUT (R350): no reply within 2^22 counts: the destination package and hop 63. -/
def execPathLostTimeout (id : Nat) (s : State) : Res :=
  match s.takeElastic id with
  | none => .next s
  | some (e, s) => s.deliver e (.error (Cause.remotePath, some (e.pkg % 2 ^ 10 + 63 * 2 ^ 10)))

/-- HOST_READ_COMPLETION (R327): data, or a refusal, which is an address-range fault. -/
def execHostReadCompletion (id : Nat) (data : Option (List Byte)) (s : State) : Res :=
  match s.takeElastic id with
  | none => .next s
  | some (e, s) => s.deliver e (match data with | some bs => .ok bs | none => .error (Cause.addressRange, none))

/-! ### Forwarding (R349, R350) -/

/-- A status frame of this package to a requester. -/
def State.refusePath (s : State) (f : Frame) : State :=
  let s := s.leaveBuffer { f with hop := f.hop + 1 }
  if f.isRequest then s.answer (pathLost f s.pkg.toNat f.hop) Instr.statusFrame else s

/-- ELASTIC_FORWARD (R349): a frame for another package goes on with HOP + 1, or its requester learns PATH-LOST. -/
def execElasticForward (f : Frame) (s : State) : Res :=
  s.inDomain fun s => match s.forwardEntry f.dstPkg with
  | none => .next (s.refusePath f)
  | some e => if 15 ≤ f.hop then .next (s.refusePath f) else .next (s.enqueueFrame e { f with hop := f.hop + 1 })

/-- The event of a frame that reaches its package, by its kind (Table 13-7). -/
def frameEvent (f : Frame) : Option Instr :=
  match f.kind with
  | 1 => some (.timedFrameArrival f)
  | 2 => some (.exchangeFrameArrival f)
  | 3 => some (.elasticRead f)
  | 4 => some (.elasticWrite f)
  | 5 => some (.elasticAtomic f)
  | 6 => some (.readReply f)
  | 7 => some (.rowRequest f)
  | 8 => some (.rowReply f)
  | 9 => some (.statusFrame f)
  | _ => none

end Sys2Proof.Machine
end

