-- ==== Sys2Proof/Machine/Mailbox.lean ====
section
/-!
DEFINITION. The mailbox commands (14 R365, Table 14-6), with the completion of an invalidation and of a pin removal (12 R328,
R329). MARGi is the i-th listed argument; addresses without an ASID are stack-physical (log 53).
-/

namespace Sys2Proof.Machine

/-! ### Arguments -/

/-- MARGn as a number. -/
def State.arg (s : State) (n : Nat) : Nat := (tget s.marg n 0).toNat

/-- A stack-physical range within one stack and outside the reserved region. -/
def physOk (a n : Nat) : Bool := a + n ≤ 2 ^ 39 && bits 35 0 a + n ≤ 2 ^ 36 && !(bits 38 36 a == 0 && 0xF00000000 < bits 35 0 a + n)

/-- The home of a stack-physical address. -/
def physHome (a : Nat) : Home := .stack (bits 38 36 a) (bits 35 0 a)

/-- n bytes at a stack-physical address; none where a frame is lost or poisoned. -/
def State.physRead (s : State) (a n : Nat) : Option (List Byte) :=
  (chunksOf a n).foldl (fun (m : Option (List Byte)) c => match m, s.readHome (physHome c.1) c.2 with
    | some bs, .ok v => some (bs ++ bytesOfNat c.2 v)
    | _, _ => none) (some [])

/-- Bytes written at a stack-physical address. -/
def State.physWrite (s : State) (a : Nat) (bs : List Byte) : State :=
  (chunksOf a bs.length).foldl (fun s c => s.writeHome (physHome c.1) ((bs.drop (c.1 - a)).take c.2)) s

/-- The command ends: 0 done, 1 bad argument, 2 refused. -/
def State.finish (s : State) (status value : Nat) : Res := .next (s.mailDone status value)

/-- The command ends with a bad argument unless a condition holds. -/
def State.unlessBad (s : State) (bad : Bool) (f : State → State) : Res := if bad then s.finish 1 0 else (f s).finish 0 0

/-! ### Queues (R286) -/

/-- The key under which QREG reads a header. -/
def registerKey : Nat := 1024

/-- The lowest free index of a kind. -/
def State.freeIndex (s : State) (launch : Bool) : Option Nat :=
  (List.range 256).find? fun i => !s.queues.any fun y => y.ix == i && y.launch == launch

/-- QREG: the header is read under the ASID; KIND comes from it; VALUE is the index. -/
def execQreg (s : State) : Res :=
  let a := s.arg 0
  let v := s.arg 1 % 2 ^ 8
  let asid := s.arg 2 % 2 ^ 12
  if a % 64 ≠ 0 ∨ ¬(v = 0xFF ∨ (8 ≤ v ∧ v ≤ 63)) then s.finish 1 0
  else match s.portRead registerKey asid a 64 with
    | .wait n => .next ((s.portAsk registerKey n).schedule (s.now + 1) phStart (.ev .qreg))
    | .fault _ => (s.portForget registerKey).finish 1 0
    | .bytes h =>
      let s := s.portForget registerKey
      let launch := natAt h 17 1 == 1
      match headerBad h, s.freeIndex launch with
      | true, _ => s.finish 1 0
      | false, none => s.finish 2 0
      | false, some i =>
        let y : Queue := { (default : Queue) with ix := i, launch := launch, header := a, asid := asid,
                                                  vector := if v = 0xFF then none else some v }
        { s with queues := s.queues ++ [y] }.finish 0 i

/-- QDEREG: refused while WIX differs from RIX. -/
def execQdereg (s : State) : Res :=
  match s.queues.find? fun y => y.ix == s.arg 0 && b2n y.launch == s.arg 1 with
  | none => s.finish 1 0
  | some y => match s.portRead registerKey y.asid y.header 64 with
    | .wait n => .next ((s.portAsk registerKey n).schedule (s.now + 1) phStart (.ev .qdereg))
    | g =>
      let s := s.portForget registerKey
      let busy : Bool := match g with | .bytes h => hWix h != hRix h | _ => false
      if busy then s.finish 2 0
      else ({ s with queues := s.queues.filter fun (x : Queue) => x.key != y.key } : State).finish 0 0

/-! ### Translation (R327–R329) -/

/-- ASIDROOT: the root is 0, or 2 MiB aligned, in a stack and outside the reserved region. -/
def execAsidroot (s : State) : Res :=
  let r := s.arg 1
  s.unlessBad (2 ^ 12 ≤ s.arg 0 || (r != 0 && (r % 2 ^ 21 != 0 || !physOk r (2 ^ 21)))) fun s =>
    { s with roots := (s.arg 0, BitVec.ofNat 64 r) :: s.roots.filter fun (x : Nat × Word) => x.1 != s.arg 0 }

/-- A leaf entry of an ASID meets a range. -/
def Leaf.meets (l : Leaf) (asid base len : Nat) : Bool := l.asid == asid && l.page < base + len && base < l.page + l.size

/-- INVAL: the slices drop the entries at once, so that later accesses walk again. -/
def execInval (s : State) : Res :=
  let asid := s.arg 0
  let base := s.arg 1
  let len := s.arg 2
  if 2 ^ 12 ≤ asid then s.finish 1 0
  else
    let s := { s with dies := s.dies.map fun (x : Die) => { x with slices := x.slices.filter fun l => !l.meets asid base len } }
    let (k, s) := (Config.freeNat s.free, { s with free := s.free + 1 })
    .next (({ s with invalFrom := s.nextId } : State).schedule (s.now + k) phEnd (.ev (.invalidationComplete asid base len)))

/-- A released write, arrival or scatter update under an ASID lies in a range. -/
def Pending.meets (p : Pending) (asid : Nat) (within : Nat → Nat → Bool) : Bool :=
  p.asid == asid &&
  ((p.write.any fun (w : DefWrite) => within w.addr 64) || (p.arrival.any fun (a : DefArrival) => within a.addr.toNat 16) ||
    p.scat.any fun e => within e.addr 16)

/-- An element of a DQ entry is on its way: at a translated address of a range, or, for a row, anywhere. -/
def DqEntry.meets (e : DqEntry) (within : Nat → Nat → Bool) : Bool :=
  e.status == .wait && (if e.src.tk = 1 then !e.waiting.isEmpty else e.waiting.any fun g => within (e.src.addrOf g) e.src.size)

/-- An atomic that a context sent under an ASID before a number was given out has not returned; it may be of a gang that is gone
(R124). -/
def Ctx.openAtomic (x : Ctx) (asid before : Nat) (within : Nat → Nat → Bool) : Bool :=
  x.sentAtomics.any fun r => r.asid == asid && !r.ended && r.id < before && within r.addr.toNat r.size

/-- An access of a context that began before a number was given out has not performed: a request, an element of DQ, a poll of
WAITB. -/
def Ctx.openAccess (x : Ctx) (before : Nat) (within : Nat → Nat → Bool) : Bool :=
  (x.reqs.any fun r => !r.ended && r.id < before && within r.addr.toNat r.size) ||
  (x.arch.dq.any fun e => e.id < before && e.meets within) || x.waitReq.any fun id => id < before

/-- An access under an ASID to a range, begun before a number was given out, has not performed; a read of the dispatcher or a
copy engine elsewhere counts wherever it goes. -/
def State.openAccess (s : State) (asid base len : Nat) : Bool :=
  let within := fun (a n : Nat) => decide (a < base + len && base < a + n)
  (s.pendings.any fun p => p.id < s.invalFrom && p.meets asid within) ||
  (s.fetched.any fun f => f.id < s.invalFrom && f.data.isNone && f.fault.isNone &&
    s.queues.any fun y => y.key == f.queue && y.asid == asid) ||
  (List.range 8).any fun d => (List.range 3).any fun c =>
    let x := s.ctx d c
    (x.asid == asid && x.openAccess s.invalFrom within) || x.openAtomic asid s.invalFrom within

/-- INVALIDATION_COMPLETE (R328): once every access that used an old entry has performed. -/
def execInvalidationComplete (asid base len : Nat) (s : State) : Res :=
  if s.openAccess asid base len then .next (s.schedule (s.now + 1) phEnd (.ev (.invalidationComplete asid base len)))
  else s.finish 0 0

/-- A pin entry is in use by a TDMA of a placed gang. -/
def State.pinHeld (s : State) (d : Nat) (l : Leaf) : Bool :=
  (List.range 3).any fun c =>
    let x := s.ctx d c
    x.run != .absent && x.asid == l.asid &&
      ((x.reqs.any fun r => (r.kind == .tdmaIn || r.kind == .tdmaOut) && !r.ended && l.page < r.addr.toNat + r.size && r.addr.toNat < l.page + l.size) ||
       x.deferred.any fun w => w.tdma && l.page < w.addr + 64 && w.addr < l.page + l.size)

/-- A released TDMA write uses a pin entry. -/
def State.pinBusy (s : State) (d : Nat) (l : Leaf) : Bool :=
  s.pendings.any fun p => p.die == d && p.asid == l.asid && match p.write with
    | some w => w.tdma && l.page < w.addr + 64 && w.addr < l.page + l.size
    | none => false

/-- The entry of a die's pin table. -/
def State.pinAt (s : State) (d e : Nat) : Option Leaf := ((s.die d).pins.find? fun p => p.1 == e).map (·.2)

/-- PIN: arguments die code, entry, ASID, page address, page size, output, and RD, WR, valid in bits 0 to 2 (log 53). -/
def execPin (s : State) : Res :=
  let d := s.arg 0
  let e := s.arg 1
  let fl := s.arg 6
  let l : Leaf := { asid := s.arg 2, page := s.arg 3, size := s.arg 4, tgt := 0, out := s.arg 5, rd := bit 0 fl, wr := bit 1 fl }
  let valid := bit 2 fl
  let badLeaf := (l.size != 2 ^ 16 && l.size != 2 ^ 21 && l.size != 2 ^ 30) || l.page % l.size != 0 || 2 ^ 57 < l.page + l.size ||
    l.out % l.size != 0 || !physOk l.out l.size
  if !s.diePresent d ∨ 512 ≤ e ∨ 2 ^ 12 ≤ l.asid ∨ 8 ≤ fl ∨ (valid ∧ badLeaf) then s.finish 1 0
  else match s.pinAt d e with
    | some old =>
      if s.pinHeld d old then s.finish 2 0
      else if valid then
        (s.modDie d fun x => { x with pins := (e, l) :: x.pins.filter fun p => p.1 != e, unpins := x.unpins.filter (· != e) }).finish 0 0
      else ((s.modDie d fun x => { x with unpins := e :: x.unpins }).soon (.ev (.pinRemoval d e))).finish 0 0
    | none => (if valid then s.modDie d fun x => { x with pins := (e, l) :: x.pins } else s).finish 0 0

/-- PIN_REMOVAL (R329): once every transfer that used the entry has completed. -/
def execPinRemoval (d e : Nat) (s : State) : Res :=
  match s.pinAt d e with
  | none => .next s
  | some l =>
    if !(s.die d).unpins.contains e then .next s
    else if s.pinHeld d l || s.pinBusy d l then .next (s.schedule (s.now + 1) phEnd (.ev (.pinRemoval d e)))
    else .next (s.modDie d fun x => { x with pins := x.pins.filter fun p => p.1 != e, unpins := x.unpins.filter (· != e) })

/-! ### Tables of the fabric (R190, R343, R349) -/

/-- ROWSRV: a row-server entry of a V-die. -/
def execRowsrv (s : State) : Res :=
  let d := s.arg 0
  let z := s.arg 4
  s.unlessBad (4 ≤ d || !s.diePresent d || 64 ≤ s.arg 1 || !(z == 1 || z == 2 || z == 4 || z == 8) || 2 ≤ s.arg 6) fun s =>
    let e : RowEntry := { base := s.arg 2, stride := s.arg 3, size := z, limit := s.arg 5, valid := s.arg 6 == 1 }
    s.modDie d fun x => { x with rows := (s.arg 1, e) :: x.rows.filter fun p => p.1 != s.arg 1 }

/-- FWD: a forwarding entry. -/
def execFwd (s : State) : Res :=
  s.unlessBad (1024 ≤ s.arg 0 || 2 ≤ s.arg 1 || 1024 ≤ s.arg 2 || 2 ^ 14 ≤ s.arg 3) fun s =>
    let rest := s.fwd.filter fun e => e.pkg != s.arg 0
    { s with fwd := if s.arg 1 = 1 then ({ pkg := s.arg 0, nextHop := s.arg 2, mask := s.arg 3 } : FwdEntry) :: rest else rest }

/-- An entry that a base timetable may not hold (R341, R343). -/
def baseEntryBad (ident n : Nat) : Bool :=
  let e := lanEntry 0 n
  bits 51 51 n != 0 || bits 63 60 n != 0 || bits 79 78 n != 0 || bits 95 93 n != 0 || (e.cls != 1 && e.cls != 2) || e.lan != ident ||
  e.phase != 0 || 65536 ≤ e.start + e.run || (e.cls == 2 && e.peer != 0) || e.xu != 0 || e.dly != 0 || 13 < e.plan || e.plan == 6 || e.plan == 13

/-- Two entries share a slot and a fibre in one direction. -/
def entriesShare (e f : LanEntry) : Bool :=
  e.receive == f.receive && e.fib &&& f.fib != 0 && e.start ≤ f.start + f.run && f.start ≤ e.start + e.run

/-- Some two of a list share. -/
def anyShare : List LanEntry → Bool
  | [] => false
  | e :: es => es.any (entriesShare e) || anyShare es

/-- BASETT: identity, entry address, count; it installs at the next count that is a multiple of 2^22. -/
def execBasett (s : State) : Res :=
  let i := s.arg 0
  let n := s.arg 2
  if 14 ≤ i ∨ !physOk (s.arg 1) (16 * n) then s.finish 1 0
  else match s.physRead (s.arg 1) (16 * n) with
    | none => s.finish 1 0
    | some bs =>
      let es := (List.range n).map fun k => natAt bs (16 * k) 16
      if es.any (baseEntryBad i) || anyShare (es.map (lanEntry 0)) then s.finish 1 0
      else
        let s := { s with newTT := (i, es.map (BitVec.ofNat 128)) :: s.newTT.filter fun (x : Nat × List (BitVec 128)) => x.1 != i }
        (s.scheduleBel (leastCongruent (s.bel + 1) 0 (2 ^ 22)) phStart (.ev (.baseTimetableInstall i))).finish 0 0

/-! ### Images (R318, R365, R367) -/

/-- The sealed image with the digest at a stack-physical address. -/
def State.imageAt (s : State) (a : Nat) : Option Image :=
  if !physOk a 64 then none
  else match s.physRead a 64 with
    | none => none
    | some bs => s.images.find? fun i => i.digest == BitVec.ofNat 512 (natOfBytes bs)

/-- Extension of a measurement register with a digest (R367). -/
def State.extendMeas (s : State) (n : Nat) (d : BitVec 512) : State :=
  { s with meas := tmod s.meas n fun old => BitVec.ofNat 512 (natOfBytes (shake256 (bytesOfNat 64 old.toNat ++ bytesOfNat 64 d.toNat) 64)) }

/-- HANDLER: a zero digest unregisters; a registration extends MEAS5 for a V-die and MEAS6 for an M-die (log 53). -/
def execHandler (s : State) : Res :=
  let d := s.arg 0
  let a := s.arg 1
  if !s.diePresent d ∨ !physOk a 64 then s.finish 1 0
  else
    let rest := s.handlers.filter fun h => h.1 != d
    match s.physRead a 64, s.imageAt a with
    | none, _ => s.finish 1 0
    | some bs, img =>
      if natOfBytes bs = 0 then ({ s with handlers := rest } : State).finish 0 0
      else match img with
        | none => s.finish 1 0
        | some i =>
          if !bit 0 (natAt i.bytes 6 1) then s.finish 1 0
          else ({ s with handlers := (d, i.handle) :: rest } : State).extendMeas (if d < 4 then 5 else 6) i.digest |>.finish 0 0

/-- The key under which UNSEAL reads queues. -/
def unsealKey : Nat := 1025

/-- A read followed by another that needs its bytes; what faults names nothing. -/
def Got.next (g : Got) (f : List Byte → Got) : Got :=
  match g with
  | .bytes bs => f bs
  | .fault _ => .bytes []
  | g => g

/-- The digest that a launch record names. -/
def State.digestAt (s : State) (asid a : Nat) : Got := (s.portRead unsealKey asid a 64).next fun bs => .bytes (bs.take 64)

/-- The digests that the records of a packet name, one after the other: of one launch, or of the tasks of a graph. -/
def State.packetDigests (s : State) (asid : Nat) (p : List Byte) : Got :=
  match natAt p 4 1 with
  | 0x10 => s.digestAt asid (natAt p 8 8)
  | 0x11 => (s.portRead unsealKey asid (natAt p 8 8) 16).next fun g =>
    ((List.range (min (natAt g 0 4) 4096)).map fun k =>
      (s.portRead unsealKey asid (natAt g 8 8 + 32 * k) 8).next fun r => s.digestAt asid (natOfBytes r)).foldl Got.append (.bytes [])
  | _ => .bytes []

/-- The digests that the records of a queue's waiting packets name. -/
def State.queuedDigests (s : State) (y : Queue) : Got :=
  (s.portRead unsealKey y.asid y.header 64).next fun h =>
    ((List.range (min (hWix h - hRix h) (2 ^ hLsz h))).map fun i =>
      (s.portRead unsealKey y.asid (hRing h + 64 * ((hRix h + i) % 2 ^ hLsz h)) 64).next (s.packetDigests y.asid)).foldl
      Got.append (.bytes [])

/-- A list of digests holds one. -/
def digestIn (d : BitVec 512) (bs : List Byte) : Bool := (List.range (bs.length / 64)).any fun i => natAt bs (64 * i) 64 == d.toNat

/-- A placed gang or a snapshot names an image: the snapshot of a graph names those of all its tasks until its launch ends (R291). -/
def State.imageNamed (s : State) (i : Image) : Bool :=
  (s.gangs.any fun g => g.image == i.handle) ||
  (s.tasks.any fun t => t.record.digest == i.digest &&
    ((t.state != .complete && t.state != .skipped) || (s.launch? t.launch).any fun l => l.graph.isSome))

/-- UNSEAL: refused while a placed gang, a snapshot or a queued launch names the image; what of the queues lies outside the
package is read first. -/
def execUnseal (s : State) : Res :=
  match s.imageAt (s.arg 0) with
  | none => s.finish 1 0
  | some i =>
    if s.imageNamed i then s.finish 2 0
    else match ((s.queues.filter fun y => y.launch).map s.queuedDigests).foldl Got.append (.bytes []) with
    | .wait n => .next ((s.portAsk unsealKey n).schedule (s.now + 1) phStart (.ev .unseal))
    | .fault _ => (s.portForget unsealKey).finish 2 0
    | .bytes ds =>
      let s := s.portForget unsealKey
      if digestIn i.digest ds then s.finish 2 0
      else
        let images := s.images.filter fun (x : Image) => x.handle != i.handle
        let handlers := s.handlers.filter fun (h : Nat × Nat) => h.2 != i.handle
        ({ s with images := images, handlers := handlers } : State).finish 0 0

/-- DIEPRES (Table 14-4). -/
def State.diePresWord (s : State) : Word :=
  BitVec.ofNat 64 (s.pres.toNat + s.svc.toNat * 2 ^ 10 + s.retired.toNat * 2 ^ 20 + s.offline.toNat * 2 ^ 30 + s.degraded.toNat * 2 ^ 40)

/-- The signed part of a report; the version words take at most 4 KiB (log 53). -/
def State.reportBody (s : State) (nonce : List Byte) : List Byte :=
  nonce ++ bytesOfNat 8 s.pkg.toNat ++ bytesOfNat 8 s.diePresWord.toNat ++ (s.meas.toList.flatMap fun m => bytesOfNat 64 m.toNat) ++
    (Config.firmwareVersions s.firmware).take 4096

/-- ATTEST: the report, then the signature over its digest (R367). -/
def execAttest (s : State) : Res :=
  let a := s.arg 1
  if !physOk (s.arg 0) 32 then s.finish 1 0
  else match s.physRead (s.arg 0) 32 with
    | none => s.finish 1 0
    | some nonce =>
      let body := s.reportBody nonce
      let sig := (List.range 4627).map fun i => (Config.deviceSignature (shake256 body 64)).getD i 0
      if !physOk a (body.length + 4627) then s.finish 1 0
      else (s.physWrite a (body ++ sig)).finish 0 0

/-- FWSTAGE: firmware verifies the image as stage 1 would, which no rule gives in full; a verified image goes to flash, any other
is refused (log 4). -/
def execFwstage (s : State) : Res :=
  let n := s.arg 1
  if n = 0 ∨ !physOk (s.arg 0) n then s.finish 1 0
  else match s.physRead (s.arg 0) n with
    | none => s.finish 1 0
    | some bs =>
      let ok := Config.freeBool s.free
      let s := { s with free := s.free + 1 }
      if ok then ({ s with flash := bs } : State).finish 0 0 else s.finish 2 0

/-! ### Gangs (R302, R309) -/

/-- PREEMPT: it acts at the gang's next commit, and the command ends when the state is saved. -/
def execPreempt (s : State) : Res :=
  let a := s.arg 1
  let n := s.arg 2
  match s.gang? (s.arg 0) with
  | none => s.finish 1 0
  | some g =>
    if !physOk a n then s.finish 1 0
    else match g.state with
      | .running => .next (s.modGang g.id fun x => { x with preempt := some (a, n) })
      | .rollback => .next (s.modGang g.id fun x => { x with preempt := some (a, n) })
      | .placing => .next (s.modGang g.id fun x => { x with preempt := some (a, n) })
      | _ => s.finish 2 0

/-- STOP: the gang ends at its next commit count. -/
def execStop (s : State) : Res :=
  match s.gang? (s.arg 0) with
  | none => s.finish 1 0
  | some g => (s.modGang g.id fun x => { x with stop := true }).finish 0 0

/-! ### Queue pages (R361) -/

/-- QPAGE: a page of BAR4 onto a frame outside the reserved region. -/
def execQpage (s : State) : Res :=
  let f := s.arg 1
  s.unlessBad (1024 ≤ s.arg 0 || f % 2 ^ 16 != 0 || !physOk f (2 ^ 16)) fun s =>
    { s with qpages := (s.arg 0, f) :: s.qpages.filter fun (p : Nat × Nat) => p.1 != s.arg 0 }

end Sys2Proof.Machine
end

