-- ==== Sys2Proof/Machine/HostPort.lean ====
section
/-!
DEFINITION. The host's windows (14 R359–R364, R368, R371), function-level reset and D3hot (R360), telemetry (R370), power-on reset
and boot (01 R50, 13 R335, R339, 14 R366–R369).
-/

namespace Sys2Proof.Machine

/-! ### BAR0 (Tables 14-3, 14-4, 14-8) -/

/-- DEVSTAT. -/
def State.devstat (s : State) : Word :=
  BitVec.ofNat 64 (b2n s.ready + s.stage.toNat * 2 + s.berr.toNat * 2 ^ 8 + s.pkg.toNat * 2 ^ 16)

/-- A telemetry register TEMPn. -/
def Thermal.word (t : Thermal) : Word := BitVec.ofNat 64 (t.temp.toNat + t.warn.toNat * 2 ^ 16 + t.trip.toNat * 2 ^ 32)

/-- The 8-byte register at an offset, as the host reads it; offsets not listed read zero. -/
def State.register (s : State) (o : Nat) : Word :=
  if o = 0x08 then s.devstat
  else if o = 0x10 then s.diePresWord
  else if o = 0x18 then s.bar2base.setWidth 64
  else if 0x1000 ≤ o ∧ o < 0x1200 then (tget s.meas ((o - 0x1000) / 64) 0).extractLsb' (8 * (o % 64)) 64
  else if 0x2008 ≤ o ∧ o ≤ 0x2040 then tget s.marg ((o - 0x2008) / 8) 0
  else if o = 0x2048 then (s.mres &&& ~~~(1 : Word)) ||| BitVec.ofNat 64 (b2n s.mcmdNow.isSome)
  else if o = 0x3000 then s.psuba
  else if o = 0x3008 then s.psubl
  else if o = 0x3010 then s.pstat.setWidth 64
  else if o = 0x3018 then s.pres64
  else if o = 0x4008 then s.offStat
  else if 0x5000 ≤ o ∧ o < 0x5050 then (tget s.therm ((o - 0x5000) / 8) default).word
  else if o = 0x5100 then s.mpwr.setWidth 64
  else if o = 0x5108 then s.plim.setWidth 64
  else if o = 0x5110 then BitVec.ofNat 64 (b2n s.psts)
  else if o = 0x5118 then s.dumpIx
  else if 0x6000 ≤ o ∧ o < 0x6A00 ∧ o % 0x100 < 0x80 then
    let p := tget (tget s.perf ((o - 0x6000) / 0x100) default) (o % 0x40 / 8) default
    if o % 0x100 < 0x40 then p.sel.setWidth 64 else p.val
  else if 0x8000 ≤ o ∧ o < 0x8700 ∧ o % 0x80 < 0x40 then
    BitVec.ofNat 64 (tget (s.lantern ((o - 0x8000) / 0x80)).flt (o % 0x80 / 8) 0)
  else if 0x10000 ≤ o ∧ o < 0x10400 then BitVec.ofNat 64 (Mem.nat s.msixTable (o - 0x10000) 8)
  else if o = 0x11000 then s.msixPend
  else 0

/-- A BAR0 access that is not a naturally aligned one of 4 or 8 bytes is unsupported (R362). -/
def barOk (off size : Nat) : Bool := (size == 4 || size == 8) && off % size == 0 && off + size ≤ 2 ^ 24

/-- What a host read of BAR0 returns; none for Unsupported Request. -/
def State.barRead (s : State) (off size : Nat) : Option Nat :=
  if barOk off size then some ((s.register (off / 8 * 8)).toNat / 2 ^ (8 * (off % 8)) % 2 ^ (8 * size)) else none

/-- The mailbox command of a code (Table 14-6). -/
def mailCommand (code : Nat) : Option Instr :=
  match code with
  | 0x01 => some .qreg | 0x02 => some .qdereg | 0x03 => some .asidroot | 0x04 => some .inval | 0x05 => some .pin
  | 0x06 => some .rowsrv | 0x07 => some .fwd | 0x08 => some .basett | 0x09 => some .handler | 0x0A => some .preempt
  | 0x0B => some .stop | 0x0C => some .attest | 0x0D => some .unseal | 0x0E => some .qpage | 0x0F => some .fwstage
  | _ => none

/-- A write of MCMD (R365): ignored with OVR while a command is under way. -/
def State.writeMcmd (s : State) (code : Nat) : State :=
  if s.mcmdNow.isSome then { s with mres := s.mres ||| 2 }
  else
    let s := { s with mcmdNow := some code }
    match mailCommand code with
    | some i => s.soon (.ev i)
    | none => s.mailDone 3 0

/-- Vectors that wait and are no longer masked are sent (R363). -/
def State.flushMsix (s : State) : State :=
  (List.range 64).foldl (fun s v =>
    if s.msixPend.getLsbD v && !s.vectorMasked v then
      { s with msixPend := s.msixPend &&& ~~~((1 : BitVec 64) <<< v) }.msix (some v)
    else s) s

/-- A PCSEL value with other bits set (R371). -/
def pcselBad (v : Word) : Bool := v.toNat / 2 ^ 11 != 0

/-- A write of a performance counter's block. -/
def State.writePerf (s : State) (o : Nat) (v : Word) : State :=
  let d := (o - 0x6000) / 0x100
  let i := o % 0x40 / 8
  if o % 0x100 < 0x40 then
    if pcselBad v then s else { s with perf := tmod s.perf d fun c => tmod c i fun p => { p with sel := v.setWidth 11 } }
  else { s with perf := tmod s.perf d fun c => tmod c i fun p => { p with val := v } }

/-- A write of the 8-byte register at an offset: its new value `v`, the bits written `w`, and whether the low half is among
them. Read-only registers and unlisted offsets ignore it. -/
def State.writeRegister (s : State) (o : Nat) (v w : Word) (low : Bool) : State :=
  if o = 0x18 then { s with bar2base := v.setWidth 9 }
  else if o = 0x2000 then (if low then s.writeMcmd (w.toNat % 256) else s)
  else if 0x2008 ≤ o ∧ o ≤ 0x2040 then { s with marg := tset s.marg ((o - 0x2008) / 8) v }
  else if o = 0x2048 then { s with mres := s.mres &&& ~~~(w &&& 2) }
  else if o = 0x3000 then { s with psuba := v }
  else if o = 0x3008 then (if low then s.soon (.ev (.proofingSubmit v)) else { s with psubl := v })
  else if o = 0x3010 then { s with pstat := s.pstat &&& ~~~((w &&& 2).setWidth 2) }
  else if o = 0x4000 then s.soon (.ev (.offlineRequest v))
  else if 0x5000 ≤ o ∧ o < 0x5050 then
    { s with therm := tmod s.therm ((o - 0x5000) / 8) fun t =>
      { t with warn := v.extractLsb' 16 16, trip := if 919 < (v.extractLsb' 32 16).toInt then 919 else v.extractLsb' 32 16 } }
  else if o = 0x5108 then { s with plim := v.setWidth 16 }
  else if o = 0x5110 then { s with psts := s.psts && !w.getLsbD 0 }
  else if 0x6000 ≤ o ∧ o < 0x6A00 ∧ o % 0x100 < 0x80 then s.writePerf o v
  else if 0x10000 ≤ o ∧ o < 0x10400 then { s with msixTable := Mem.setNat s.msixTable (o - 0x10000) 8 v.toNat }.flushMsix
  else s

/-- A write of BAR0 (R362): one of 4 bytes leaves the other half as it reads. -/
def State.writeBar0 (s : State) (off size : Nat) (v : Word) : Res :=
  if !barOk off size then .next { s with hostOut := s.hostOut ++ [.unsupported] }
  else
    let o := off / 8 * 8
    let mask : Word := if size = 8 then BitVec.allOnes 64 else if off % 8 = 0 then 0xFFFFFFFF else 0xFFFFFFFF00000000
    let w : Word := (if off % 8 = 0 then v else v <<< 32) &&& mask
    .next (s.writeRegister o ((s.register o &&& ~~~mask) ||| w) w (off % 8 == 0))

/-- A write of the Resizable BAR control of BAR2: bits [13:8] hold the size as a power of two in MiB; only 1 GiB to 512 GiB are
supported (R361; log 71). -/
def State.resizeBar (s : State) (v : Word) : State :=
  let n := bits 13 8 v.toNat
  if 10 ≤ n ∧ n ≤ 19 then { s with bar2size := BitVec.ofNat 4 (n - 10) } else s

/-- Past the 16 MiB of BAR0 the event names what the host writes in the function's configuration space (log 71): the Resizable BAR
control of BAR2, and the message control of MSI-X. -/
def resizableBar : Nat := 2 ^ 24
def msixControl : Nat := 2 ^ 24 + 8

/-- REGISTER_WRITE (R359, R362): a host write of BAR0, or of a control of the configuration space: the size of BAR2, or MSI-X Enable
in bit 15 and Function Mask in bit 14. -/
def execRegisterWrite (off size : Nat) (v : Word) (s : State) : Res :=
  if off = resizableBar then .next (s.resizeBar v)
  else if off = msixControl then .next ({ s with msixOn := bit 15 v.toNat, msixAll := bit 14 v.toNat } : State).flushMsix
  else s.writeBar0 off size v

/-! ### BAR2 and BAR4 (R361, R364, R275) -/

/-- The stack-physical address of a window offset; none where BASE does not fit the window's size. -/
def State.windowAddr (s : State) (w : Nat) : Option Nat :=
  if s.bar2base.toNat % 2 ^ s.bar2size.toNat ≠ 0 then none else some ((w + 2 ^ 30 * s.bar2base.toNat) % 2 ^ 39)

/-- An offset in the window. -/
def State.inBar2 (s : State) (off n : Nat) : Bool := off + n ≤ 2 ^ 30 * 2 ^ s.bar2size.toNat

/-- A place that host reads reach: outside the reserved region, or in the snapshot area or the dump ring. -/
def hostReadable (a : Nat) : Bool :=
  !reservedPhys (bits 38 36 a) (bits 35 0 a) || (0xF80000000 ≤ bits 35 0 a && bits 35 0 a < 0xFE0000000)

/-- Granules that an access of the host still touches, and one more for its end. -/
def HostAccess.fuel : HostAccess → Nat
  | .say _ => 1
  | .read _ n _ => n / 64 + 3
  | .write _ bs => bs.length / 64 + 3

/-- One granule of the host's first access: a read at its home, answered once it is whole; a write, dropped and reported in the
reserved region (R364). None where there is no access or its burst cannot take place in this count (R230, R231). -/
def State.hostGranule (s : State) : Option State :=
  match s.hostQ with
  | [] => none
  | .say o :: rest => some { s with hostQ := rest, hostOut := s.hostOut ++ [o] }
  | .read a n got :: rest =>
    let k := Nat.min n (64 - a % 64)
    if n = 0 then some { s with hostQ := rest, hostOut := s.hostOut ++ [.reply got] }
    else (s.elasticTurn [physHome a]).map fun s => match s.readHome (physHome a) k with
      | .ok v => { s with hostQ := .read (a + k) (n - k) (got ++ bytesOfNat k v) :: rest }
      | .error _ => { s with hostQ := rest, hostOut := s.hostOut ++ [.unsupported] }
  | .write a bs :: rest =>
    let k := Nat.min bs.length (64 - a % 64)
    if bs.length = 0 then some { s with hostQ := rest }
    else if reservedPhys (bits 38 36 a) (bits 35 0 a) then
      some { s with hostQ := .write (a + k) (bs.drop k) :: rest, hostOut := s.hostOut ++ [.aer a] }
    else (s.elasticTurn [physHome a]).map fun s =>
      { s.writeHome (physHome a) (bs.take k) with hostQ := .write (a + k) (bs.drop k) :: rest }

/-- The host's accesses go on as far as bursts can take place in this count, and again at a free later one. -/
def State.hostGoes (s : State) : Nat → State
  | 0 => s
  | n + 1 =>
    match s.hostGranule with
    | some s => s.hostGoes n
    | none => if s.hostQ.isEmpty then s else s.laterOn .hostNext

/-- The host's accesses go on, one after another (R275). -/
def State.hostNext (s : State) : State := s.hostGoes ((s.hostQ.map HostAccess.fuel).sum + 1)

/-- An access of the host: it performs after those received before it. -/
def State.hostAsk (s : State) (x : HostAccess) : State :=
  let t : State := { s with hostQ := s.hostQ ++ [x] }
  if s.hostQ.isEmpty then t.hostNext else t

/-- HOST_BAR2_READ (R275, R361): bytes at the home, zero under a BASE that does not fit, or Unsupported Request. -/
def execHostBar2Read (off size : Nat) (s : State) : Res :=
  if !s.inBar2 off size then .next (s.hostAsk (.say .unsupported))
  else match s.windowAddr off with
    | none => .next (s.hostAsk (.say (.reply (List.replicate size 0))))
    | some a =>
      .next (s.hostAsk (if (chunksOf a size).all fun c => hostReadable c.1 then .read a size [] else .say .unsupported))

/-- HOST_BAR2_WRITE (R275, R361, R364). -/
def execHostBar2Write (off : Nat) (data : List Byte) (s : State) : Res :=
  if !s.inBar2 off data.length then .next (s.hostAsk (.say .unsupported))
  else match s.windowAddr off with
    | none => .next s
    | some a => .next (s.hostAsk (.write a data))

/-- HOST_BAR4_ACCESS (R361): a read or a write of a queue page; an unmapped page reads zero and drops writes. -/
def execHostBar4Access (off size : Nat) (data : Option (List Byte)) (s : State) : Res :=
  let n := match data with | some bs => bs.length | none => size
  if 2 ^ 26 < off + n ∨ 2 ^ 16 < off % 2 ^ 16 + n then .next (s.hostAsk (.say .unsupported))
  else match s.qpages.find? fun p => p.1 == off / 2 ^ 16, data with
    | none, none => .next (s.hostAsk (.say (.reply (List.replicate size 0))))
    | none, some _ => .next s
    | some p, none => .next (s.hostAsk (.read (p.2 + off % 2 ^ 16) size []))
    | some p, some bs => .next (s.hostAsk (.write (p.2 + off % 2 ^ 16) bs))

/-! ### Function-level reset (R360) -/

/-- A die with its bank wall, weight buffer, tiles and latches cleared and its tables empty. -/
def Die.wiped (x : Die) : Die :=
  { Die.empty with groups := x.groups.map TileGroup.cleared }

/-- Counts before the deadline of a function-level reset from which on what the queues still have to write performs wherever its burst
finds a slot (log 60, DESIGN CHOICE). -/
def lastWrites : Nat := 2 ^ 16

/-- What performs a pending write or arrival. -/
def Pending.event (p : Pending) : Micro :=
  .ev (if p.arrival.isSome then .barrierArrivalUpdate p.id else .deferredWritePerform p.id)

/-- The clearing, once the completion records of the aborted tasks have performed, so that READY returns in time: queues, tables of
the mailbox, dies. No record is left at the deadline: in the counts before it they perform. -/
def State.clearAll (s : State) (n : Nat) : State :=
  let left := s.pendings.filter fun p => p.queue.isSome
  if !left.isEmpty ∧ s.now + 1 < n then
    let s := s.schedule (s.now + 1) phEnd (Micro.clear n)
    if n ≤ s.now + lastWrites then s.soonAll ((left.filter fun p => !p.sent).map Pending.event) else s
  else
    let (k, s) := s.freeBelow (n + 1 - s.now)
    let s := { s with
      queues := [], copies := [], fetched := [], launches := [], tasks := [], gangs := [], claims := [], reservations := [],
      handlers := [], roots := [], fwd := [], baseTT := [], newTT := [], qpages := [], sends := [], colls := [],
      dies := s.dies.map Die.wiped }
    s.schedule (s.now + k) phEnd (.ev .readyReturn)

/-- The effects that a function-level reset and an entry to D3hot share: gangs and BG tasks are aborted, those saved among them, tasks
of graphs that were ready and have no gang end with them, then all is cleared. -/
def State.functionReset (s : State) : State :=
  let aborts := s.gangs.map fun g => Micro.ev (.gangAbort g.id .outside)
  let idle := (s.tasks.filter fun t => t.state == .ready && ((s.launch? t.launch).any fun y => y.graph.isSome) &&
    !s.gangs.any fun g => g.task == t.id).map fun (t : Task) => t.id
  idle.foldl (fun s t => s.taskEnded t 7 0) ({ s with ready := false }.soonAll (aborts ++ [Micro.clear (s.now + 2 ^ 24)]))

/-- FUNCTION_LEVEL_RESET (R360). -/
def execFunctionLevelReset (s : State) : Res := .next s.functionReset

/-- D3HOT_ENTRY (R360). -/
def execD3hotEntry (s : State) : Res := .next s.functionReset

/-- READY_RETURN (R360): the dispatcher accepts launches again. -/
def execReadyReturn (s : State) : Res := .next { s with ready := s.stage == 3 && s.berr == 0 && s.belfryOn }

/-! ### Power and temperature (R370) -/

/-- Gangs with a context on a die. -/
def State.gangsOn (s : State) (d : Nat) : List Nat :=
  (s.gangs.filter fun g => g.state != .saved && g.members.any fun m => m.die == d).map fun (g : Gang) => g.id

/-- The measures of a window are recorded. -/
def State.takeMeasures (s : State) (m : Measures) : State :=
  { s with mpwr := BitVec.ofNat 16 m.power
           therm := Vector.ofFn fun i => { tget s.therm i.val default with temp := BitVec.ofInt 16 (m.temps.getD i.val 0) } }

/-- What firmware measures in a window: each value is the world's (log 4). -/
def State.freeMeasures (s : State) : Measures × State :=
  ({ temps := (List.range 10).map fun i => (BitVec.ofNat 16 (Config.freeNat (s.free + i))).toInt, power := Config.freeNat (s.free + 10) },
   { s with free := s.free + 11 })

/-- The power limit: OVER and vector 3 in a window above it; placing stops after 16 windows above it in a row and resumes after 16
below it. -/
def State.powerLimit (s : State) : State :=
  let lim := min s.plim.toNat 2800
  let s := if lim < s.mpwr.toNat then { s with psts := true }.msix (some 3) else s
  let run := if (if s.placeHold then decide (s.mpwr.toNat < lim) else decide (lim < s.mpwr.toNat)) then s.overWindows + 1 else 0
  if 16 ≤ run then { s with placeHold := !s.placeHold, overWindows := 0 } else { s with overWindows := run }

/-- The thermal limits of one die code: the warning sends vector 3; 115 °C ends what runs on the die and takes it out of service
until it reads below its warning limit. -/
def State.thermalLimit (s : State) (d : Nat) : State :=
  let t := tget s.therm d default
  let one : BitVec 10 := (1 : BitVec 10) <<< d
  let s := if t.warn.toInt ≤ t.temp.toInt then s.msix (some 3) else s
  if 920 ≤ t.temp.toInt then
    { s with shutDown := s.shutDown ||| one, svc := s.svc &&& ~~~one }.soonAll
      ((s.gangsOn d).map fun g => .ev (.gangAbort g .outside))
  else if s.shutDown.getLsbD d && t.temp.toInt < t.warn.toInt then
    { s with shutDown := s.shutDown &&& ~~~one, svc := s.svc ||| (one &&& s.pres &&& ~~~s.retired &&& ~~~s.offline) }.modDie d fun x =>
      { x with bank := [], wbuf := [], tags := [], groups := Die.empty.groups }
  else s

/-- TELEMETRY_WINDOW (R370). -/
def execTelemetryWindow (m : Measures) (s : State) : Res :=
  .next ((List.range 10).foldl State.thermalLimit (s.takeMeasures m).powerLimit)

/-! ### Power-on reset and boot (R50, R335, R339, R366, R367) -/

/-- The working physical Lanterns of a port die, lowest first. -/
def workingLanterns (pres : BitVec 10) (port : Nat) : List Nat :=
  if pres.getLsbD (8 + port) then ((List.range 7).map fun j => 7 * port + j).filter fun i => Config.lanternsPresent.getLsbD i else []

/-- The Lantern of an identity after bring-up: identities 0–5 and 7–12 active, the next working Lantern the hot spare. -/
def boundLantern (pres : BitVec 10) (flt : List Nat) (i : Nat) : Lantern :=
  let f := Vector.ofFn fun (k : Fin 8) => flt.getD (8 * i + k.val) 0
  match (workingLanterns pres (i / 7))[i % 7]? with
  | none => { (default : Lantern) with flt := f }
  | some e =>
    if i % 7 = 6 then { (default : Lantern) with engine := some e, ls := 1, flt := f }
    else { (default : Lantern) with engine := some e, ls := 2, woken := BitVec.allOnes 64, flt := f }

/-- The digests of the first n firmwares that boot verifies extend MEAS0 to MEAS4. -/
def State.measure (s : State) (n : Nat) : State :=
  (List.range n).foldl (fun s i => s.extendMeas i (Config.firmwareDigest s.firmware i)) s

/-- Firmwares that have been verified when a check of a stage fails after some have passed in it (Table 14-7). -/
def bootMeasured (stage passed : Nat) : Nat :=
  match stage with
  | 0 => 0
  | 1 => 1
  | 2 => 2 + min passed 2
  | _ => 5

/-- The root of the domain, the lowest present package, sends the epoch value V stamped at its own count, and loads it there
(R335). -/
def State.rootEpoch (s : State) : State :=
  if s.domain.all fun p => s.pkg.toNat ≤ p then
    let v := Config.freeNat s.free
    let s := { s with free := s.free + 1, control := s.control ++ [Control.epoch v] }
    s.soon (.epoch v)
  else s

/-- POWER_ON_RESET (R50, R366): the state of reset; the boot stages of the firmware in flash in order up to the first failing check,
whose code is not 0, or to domain initialisation, in which BELFRY waits for its epoch (EPOCH_ARRIVAL). -/
def execPowerOnReset (b : BootInputs) (s : State) : Res :=
  let r := { State.reset with now := s.now, nextId := s.nextId, free := s.free, flash := s.flash, firmware := s.flash,
                              hostOut := s.hostOut, outbox := s.outbox, control := s.control }
  match b.failStage with
  | some (st, passed, code) =>
    .next (({ r with stage := BitVec.ofNat 3 (st % 4), berr := BitVec.ofNat 8 (1 + code % 255) }.measure
      (bootMeasured (st % 4) passed)).msix (some 6))
  | none =>
    .next ({ r with stage := 3, pkg := b.pkg, domain := b.domain, svc := r.pres, flights := b.flt }.measure 5).rootEpoch

end Sys2Proof.Machine
end

