-- ==== Sys2Proof/Machine/Departure.lean ====
section
/-!
DEFINITION. What the Lanterns send, count by count (13 R338, R344, R346, R348, R349, R351): the slots that carry a queued flit, the
bytes of a count over the woken groups, link sequences, the replay ring, replay after a NACK.
-/

namespace Sys2Proof.Machine

/-- An identity that carries traffic. -/
def Lantern.active (l : Lantern) : Bool := l.ls == 2 || l.ls == 3 || l.ls == 4 || l.ls == 5

/-- The groups that an entry names: bit 8f + g. -/
def LanEntry.groups (e : LanEntry) : BitVec 64 :=
  BitVec.ofNat 64 ((List.range 8).map fun f => if bit f e.fib then e.wgm % 256 * 2 ^ (8 * f) else 0).sum

/-! ### A count of a queue -/

/-- The flits of a lane of a queue take the bytes of a count in their order, up to the first that is not at the port die yet: what is
left of the bytes, the queue afterwards, and the flits whose last byte leaves. -/
def runLane (lane here : TxFlit → Bool) : Nat → List TxFlit → Nat × List TxFlit × List TxFlit
  | cap, [] => (cap, [], [])
  | cap, x :: xs =>
    if !lane x then
      let r := runLane lane here cap xs
      (r.1, x :: r.2.1, r.2.2)
    else if cap = 0 || !here x then (cap, x :: xs, [])
    else if x.left ≤ cap then
      let r := runLane lane here (cap - x.left) xs
      (r.1, r.2.1, x :: r.2.2)
    else (0, { x with left := x.left - cap } :: xs, [])

/-- Bytes of a timed run in a count: its exact width, once all its groups are in lock (R344). -/
def Lantern.timedRate (l : Lantern) (e : LanEntry) : Nat :=
  if e.groups &&& ~~~l.woken = 0 then 20 * popCount 8 e.wgm * popCount 8 e.fib else 0

/-- The period in slots and the entry that carry timed flits. -/
def State.runEntry (s : State) (r : Nat × Nat) : Option (Nat × LanEntry) :=
  match s.gang? r.1 with
  | none => none
  | some g => ((lanEntries (s.timetable g)).find? fun e => e.ix == r.2).map fun e => (s.gangSlots g, e)

/-- The fibres over which an identity faces a far end in a slot, timed or elastic (R351). -/
def State.facingFibres (s : State) (i peer slot : Nat) : Nat :=
  (s.heldEntries i).foldl (fun n p =>
    if !p.2.2.receive && p.2.2.cls ≤ 1 && p.2.2.peer == peer && p.2.2.holds p.2.1 slot then n ||| p.2.2.fib else n)
    (s.elasticFibres i peer slot)

/-- A flit may leave toward a far end in this count. -/
def TxFlit.due (x : TxFlit) (peer count : Nat) : Bool := x.peer == peer && x.from_ ≤ count

/-- The bytes of a flit are at its port die: an edge brings them 20 counts after they entered it (R332). -/
def State.atPort (s : State) (x : TxFlit) : Bool :=
  match x.need with
  | none => true
  | some (id, n) => s.sends.any fun y => y.id == id && n ≤ y.sentBy (y.path.length - 1) (s.bel - Config.edgeLatency)

/-- A flit that only its timed run carries, and one that elastic slots carry (R346, R348). -/
def TxFlit.inRun (x : TxFlit) : Bool := x.timed && x.seq.isNone && !x.any
def TxFlit.inElastic (x : TxFlit) : Bool := (!x.timed || x.seq.isSome) && !x.any

/-- The lanes of an identity toward a far end in one count: what a failover left in any slot, then the timed runs, then elastic
slots. -/
def State.lanes (s : State) (i peer : Nat) : Nat × List TxFlit × List TxFlit :=
  let slot := s.bel / 64
  let l := s.lantern i
  let held := l.txq.any fun x => x.due peer s.bel && x.any
  let a := runLane (fun x => x.due peer s.bel && x.any) s.atPort (if held then l.rate (s.facingFibres i peer slot) 255 else 1280) l.txq
  let runs := ((l.txq.filter fun x => x.due peer s.bel && x.inRun).filterMap fun x => x.run).eraseDups
  let t := runs.foldl (fun (acc : Nat × List TxFlit × List TxFlit) r => match s.runEntry r with
    | none => acc
    | some (p, e) =>
      let c := if e.holds p slot then Nat.min acc.1 (l.timedRate e) else 0
      let b := runLane (fun x => x.due peer s.bel && x.inRun && x.run == some r) s.atPort c acc.2.1
      (acc.1 - (c - b.1), b.2.1, acc.2.2 ++ b.2.2)) a
  let b := runLane (fun x => x.due peer s.bel && x.inElastic) s.atPort (Nat.min t.1 (l.rate (s.elasticFibres i peer slot) 255)) t.2.1
  (b.1, b.2.1, t.2.2 ++ b.2.2)

/-! ### Flits that have left (R338) -/

/-- The frame that a flit's last byte completes: of a SEND, which is over; of a collective, its bytes as its source granules are read
by now. -/
def State.resolveTail (s : State) (t : Option TxTail) : Option Frame × State :=
  match t with
  | none => (none, s)
  | some (.frame f) => (some f, s)
  | some (.send id) =>
    ((s.sends.find? fun y => y.id == id).map fun y => y.frame s y.arrive, { s with sends := s.sends.filter fun y => y.id != id })
  | some (.share id q num at_ pkg) => s.shareFrame id q num pkg at_

/-- A flit enters the replay ring, which keeps the newest. -/
def Lantern.keep (l : Lantern) (x : RingFlit) : Lantern :=
  let r := l.ring ++ [x]
  { l with ring := r.drop (r.length - Config.replayRing), txSeq := (l.txSeq + 1) % 2 ^ 32 }

/-- A flit of the ring waits to leave again, with the link sequence it has. -/
def RingFlit.again (x : RingFlit) (any : Bool) : TxFlit :=
  { job := x.flit.frame, timed := x.flit.timed, peer := x.peer, run := none, any := any, from_ := 0, left := 64, seq := some x.seq,
    coll := none, tail := x.flit.done.map .frame }

/-- A flit that has left while a replay toward its far end is under way, which the far end drops, joins the replay (R348). -/
def Lantern.follow (l : Lantern) (r : RingFlit) : Lantern :=
  let replay := fun (y : TxFlit) => y.peer == r.peer && y.seq.isSome
  if l.txq.any replay then { l with txq := l.txq.filter replay ++ r.again false :: l.txq.filter fun y => !replay y } else l

/-- The last byte of a flit has left: it takes the next link sequence, or has the one it had; a replay is counted; light that the
failed engine no longer sends is lost. -/
def State.flitOut (s : State) (i : Nat) (x : TxFlit) : State :=
  let (done, s) := s.resolveTail x.tail
  let fl : Flit := { frame := x.job, timed := x.timed, crcOk := true, done := done }
  let seq := x.seq.getD (s.lantern i).txSeq
  let s := if (s.lantern i).dark then s else { s with outbox := s.outbox ++ [(i, seq, s.bel, fl)] }
  match x.seq with
  | some _ =>
    (s.modLantern i fun l => { l with ring := l.ring.map fun r => if r.seq = seq then { r with at_ := s.now } else r }).perfEvent
      (portOf i) 0x0C none 1
  | none =>
    let r : RingFlit := { seq := seq, at_ := s.now, peer := x.peer, flit := fl }
    let s := s.modLantern i fun l => (l.keep r).follow r
    match done with
    | some f => if 3 ≤ f.kind then s.leaveBuffer f else s
    | none => s

/-- A sender or participant that has stopped sends no more of its frames (R315). -/
def State.stillSends (s : State) (x : TxFlit) : Bool :=
  (x.need.all fun n => s.sends.any fun y => y.id == n.1) &&
  match x.coll with
  | none => true
  | some r => match s.colls.find? fun y => y.req == r with
    | some y => (s.ctx y.die y.ctx).run != .stopped
    | none => false

/-- An identity's count toward one far end; replayed flits are ahead of those with a new link sequence. -/
def State.transmitTo (s : State) (i peer : Nat) : State :=
  let r := s.lanes i peer
  (r.2.2.filter (·.seq.isSome) ++ r.2.2.filter (·.seq.isNone)).foldl (fun s x => s.flitOut i x) (s.modLantern i fun l => { l with txq := r.2.1 })

/-- An identity's count. -/
def State.transmitOn (s : State) (i : Nat) : State :=
  if !(s.lantern i).active || (s.lantern i).txq.isEmpty then s
  else
    let s := s.modLantern i fun l => { l with txq := l.txq.filter s.stillSends }
    ((s.lantern i).txq.map (·.peer)).eraseDups.foldl (fun s p => s.transmitTo i p) s

/-- What the Lanterns send in a count; nothing while the package is out of the domain (R336). -/
def State.transmit (s : State) : State := if s.belfryOn then (List.range 14).foldl State.transmitOn s else s

/-! ### Replay (R348) -/

/-- The elastic stream of an identity begins anew: every request outstanding on it ends with PATH-LOST, the peer and hop 0, and
its frame no longer waits. The far end goes on with what it receives next (log 84, DESIGN CHOICE). -/
def State.resetStream (s : State) (i : Nat) : State :=
  let lost := s.elastic.filterMap fun (e : Elastic) => match e.via with
    | some v => if v.1 = i then some (e.id, v.2) else none
    | none => none
  let jobs := (s.lantern i).txq.filterMap fun x => match x.tail with
    | some (.frame f) => if f.isRequest && f.srcPkg == s.pkg.toNat && lost.any fun e => e.1 == f.chan then some x.job else none
    | _ => none
  (s.modLantern i fun l => { l with ring := l.ring.filter fun r => r.flit.timed, txq := l.txq.filter fun x => !jobs.contains x.job }).soonAll
    (lost.map fun e => .ev (.statusFrame (pathLost { (default : Frame) with chan := e.1, srcPkg := s.pkg.toNat } e.2 0)))

end Sys2Proof.Machine
end

