-- ==== Sys2Proof/Machine/Lanterns.lean ====
section
/-!
DEFINITION. Lanterns (09 R255, R256, 13 R337–R353): LSTATUS, parking and waking by request, threshold and timetable, failover
to the hot spare, the base timetables, and reception.
-/

namespace Sys2Proof.Machine

/-! ### LSTATUS (Table 1-15) -/

/-- The code of an identity in service. -/
def Lantern.code (l : Lantern) : BitVec 4 :=
  if l.locking ≠ 0 then 5 else if l.woken = BitVec.allOnes 64 then 2 else if l.woken = 0 then 4 else 3

/-- A changed field of LSTATUS sends vector 5 (R363). -/
def State.setLs (s : State) (i : Nat) (c : BitVec 4) : State :=
  if (s.lantern i).ls = c then s else (s.modLantern i fun l => { l with ls := c }).msix (some 5)

/-- The code follows the groups of an identity in service. -/
def State.relight (s : State) (i : Nat) : State := if (s.lantern i).active then s.setLs i (s.lantern i).code else s

/-! ### Groups of wavelengths (R255, R344, R353) -/

/-- The union of masks. -/
def unionMask (l : List (BitVec 64)) : BitVec 64 := l.foldl (· ||| ·) 0

/-- A timed transmit entry. -/
def LanEntry.timedOut (e : LanEntry) : Bool := e.cls == 0 && !e.receive

/-- Groups that only the timetable parks and wakes (R255). -/
def State.timedGroups (s : State) (i : Nat) : BitVec 64 :=
  unionMask (((s.heldEntries i).filter fun p => p.2.2.timedOut).map fun p => p.2.2.groups)

/-- Groups begin to wake. A requested wake locks by the end of the 1,920th count (R353), that of a timed run by the start of
its first slot (R344). -/
def State.wakeGroups (s : State) (i : Nat) (m : BitVec 64) (request : Bool) : State :=
  let l := s.lantern i
  let new := m &&& ~~~l.woken &&& ~~~l.locking
  let s := s.modLantern i fun l =>
    { l with locking := l.locking ||| new, parkNext := l.parkNext &&& ~~~m,
             lockedByWake := if request then l.lockedByWake ||| new else l.lockedByWake }
  if new = 0 then s else (s.schedule (s.now + 1920) (if request then phEnd else phStart) (.ev (.groupLocked i new))).relight i

/-- Groups are parked; one that is locking once it has locked (R353). -/
def State.parkGroups (s : State) (i : Nat) (m : BitVec 64) : State :=
  (s.modLantern i fun l =>
    { l with woken := l.woken &&& ~~~m, parkNext := l.parkNext ||| (m &&& l.locking), lockedByWake := l.lockedByWake &&& ~~~m }).relight i

/-- GROUP_LOCKED (R353, R338): the groups carry units from the next count on. -/
def execGroupLocked (ident : Nat) (mask : BitVec 64) (s : State) : Res :=
  let m := mask &&& (s.lantern ident).locking
  .next ((s.modLantern ident fun l =>
    { l with woken := l.woken ||| (m &&& ~~~l.parkNext), locking := l.locking &&& ~~~m, parkNext := l.parkNext &&& ~~~m }).relight ident)

/-- One request at its port die (R255): groups of timed slots are left alone. -/
def State.actLantern (s : State) (r : LanternReq) : State :=
  let m := r.mask &&& ~~~s.timedGroups r.ident
  if s.identDown r.ident then s
  else match r.wake, r.arm with
    | false, _ => s.parkGroups r.ident m
    | true, none => s.wakeGroups r.ident m true
    | true, some thr => (s.modLantern r.ident fun l => { l with armed := some (m, thr) }).armedCheck r.ident

/-- LANTERN_REQUEST_ACT (R255): the requests for one Lantern that act in this count, in order of die code. -/
def execLanternRequestAct (id : Nat) (s : State) : Res :=
  match s.lanternReqs.find? fun r => r.id == id with
  | none => .next s
  | some r =>
    let due := s.lanternReqs.filter fun x => x.ident == r.ident && x.at_ == s.now
    let s := { s with lanternReqs := s.lanternReqs.filter fun (x : LanternReq) => x.id != id && !(x.ident == r.ident && x.at_ == s.now) }
    .next (((List.range 8).flatMap fun d => due.filter fun x => x.die == d).foldl State.actLantern s)

/-- ARMED_WAKE (R353). -/
def execArmedWake (ident : Nat) (s : State) : Res :=
  let m := (s.lantern ident).firing
  .next ((s.modLantern ident fun l => { l with firing := 0 }).wakeGroups ident (m &&& ~~~s.timedGroups ident) true)

/-- TIMETABLE_WAKE (R344). -/
def execTimetableWake (ident : Nat) (mask : BitVec 64) (s : State) : Res := .next (s.wakeGroups ident mask false)

/-- TIMETABLE_PARK (R344). -/
def execTimetablePark (ident : Nat) (mask : BitVec 64) (s : State) : Res := .next (s.parkGroups ident mask)

/-- The first absolute slot from a slot on in which a run of a gang's entry begins or, in the slot itself, is under way, in
the phase that is then in force: an entry of the present phase up to the next period boundary, one of the next phase from it on. -/
def Gang.runFrom (g : Gang) (period : Nat) (e : LanEntry) (slot : Nat) : Option Nat :=
  let first := max slot (g.startAt / 64)
  let x := if e.holds period first then first else first + (e.start + period - first % period) % period
  let boundary := (slot / period + 1) * period
  let next := g.nextPhase.getD g.phase
  if e.phase = g.phase ∧ (x < boundary ∨ next = g.phase) then some x
  else if e.phase = next then some (max (boundary + e.start) first)
  else none

/-- Groups that a timed run needs which is under way or begins within 30 slots (R344). -/
def State.neededGroups (s : State) (i slot : Nat) : BitVec 64 :=
  unionMask ((s.gangs.filter Gang.holdsSlots).flatMap fun g => (s.gangEntries g i).filterMap fun e =>
    match g.runFrom (s.gangSlots g) e slot with
    | some x => if e.timedOut && x ≤ slot + 30 then some e.groups else none
    | none => none)

/-- The timed runs that are under way in a slot. -/
def State.runsIn (s : State) (i slot : Nat) : List LanEntry :=
  ((s.heldEntries i).filter fun p => p.2.2.timedOut && p.2.2.holds p.2.1 slot &&
    (s.gang? p.1).any fun g => g.startAt ≤ s.bel).map fun p => p.2.2

/-- All groups of the fibres that an entry names. -/
def LanEntry.fibreGroups (e : LanEntry) : BitVec 64 := { e with wgm := 255 }.groups

/-- Groups that an entry within the next 32 slots names. -/
def State.namedGroups (s : State) (i slot : Nat) : BitVec 64 :=
  let gangs := (s.gangs.filter Gang.holdsSlots).flatMap fun g => (s.gangEntries g i).filterMap fun e =>
    match g.runFrom (s.gangSlots g) e slot with
    | some x => if !e.receive && x < slot + 32 then some e.groups else none
    | none => none
  unionMask (gangs ++ ((s.baseEntries i).filter fun e => !e.receive && e.next 65536 slot < slot + 32).map LanEntry.groups)

/-- The groups of an identity at the start of a slot: those of timed runs that begin within 30 slots wake; a run under way has exactly
its width, and the other groups of its fibres are parked; those of a run that has ended are parked, but for those that an entry
within 32 slots names and those that an LWAKE woke (R344). -/
def State.slotGroups (s : State) (i : Nat) : State :=
  let l := s.lantern i
  let slot := s.bel / 64
  let runs := s.runsIn i slot
  let now_ := unionMask (runs.map LanEntry.groups)
  let wide := unionMask (runs.map LanEntry.fibreGroups) &&& ~~~now_ &&& (l.woken ||| (l.locking &&& ~~~l.parkNext))
  let need := s.neededGroups i slot &&& ~~~l.woken &&& ~~~l.locking
  let ended := l.timedUse &&& ~~~now_
  let idle := ended &&& l.woken &&& ~~~(s.namedGroups i slot) &&& ~~~l.lockedByWake
  let s := s.modLantern i fun l => { l with timedUse := now_ }
  if !l.active then s
  else s.soonAll ((if need != 0 then [.ev (.timetableWake i need)] else []) ++
    (if (idle ||| wide) != 0 then [.ev (.timetablePark i (idle ||| wide))] else []))

/-! ### The start of a slot (R343, R344) -/

/-- A queued elastic frame looks for a way again (R352): another identity of its mask, or the end of its request. -/
def State.reroute (s : State) (f : Frame) : State :=
  match s.forwardEntry f.dstPkg with
  | some e => s.enqueueFrame e f
  | none => if f.srcPkg = s.pkg.toNat then s.sendOut f else (s.leaveBuffer f).refusePath f

/-- What happens at the start of a slot: frames that found no elastic slot look again, groups wake and park. -/
def State.slotStart (s : State) : State :=
  let waiting := s.waitingOut
  let s := waiting.foldl State.reroute { s with waitingOut := [] }
  (List.range 14).foldl State.slotGroups s

/-! ### Failover (R351, R352) -/

/-- The hot spare's identity of an identity's port die. -/
def spareOf (ident : Nat) : Nat := if ident < 7 then 6 else 13

/-- The elastic frames that an identity still has to carry: those whose last flit was lost with the light of its engine, and those
that wait, some of them to be replayed. -/
def State.unsent (s : State) (i : Nat) : List Frame :=
  let l := s.lantern i
  let lost := l.ring.filterMap fun r => if l.dark && l.faultAt.any fun e => e ≤ r.at_ then r.flit.done else none
  let waits := l.txq.filterMap fun x => match x.tail with
    | some (.frame f) => some f
    | _ => none
  ((lost ++ waits).filter fun f => 3 ≤ f.kind).eraseDups

/-- An identity fails for good: its elastic frames look for another way, its timed frames are lost (R352). -/
def State.failIdent (s : State) (i : Nat) : State :=
  let fs := s.unsent i
  let s := { s with sends := s.sends.filter fun x => x.dstPkg == s.pkg.toNat || x.ident != i }
  let s := (s.modLantern i fun l =>
    { l with faultAt := none, resumeAt := none, dark := false, txq := [], woken := 0, locking := 0, armed := none, firing := 0,
             parkNext := 0, engine := none }).setLs i 7
  fs.foldl State.reroute s

/-- NACK (R348): from the named flit on, or from an earlier one that waits already, the flits toward the same far end leave
again out of the ring before all others; where the flit is no longer there, the elastic stream begins anew. The elastic frames of an
identity that has failed meanwhile look for another way (R352). -/
def execNack (ident lseq : Nat) (s : State) : Res :=
  let l := s.lantern ident
  if !s.belfryOn then .next s
  else if s.identDown ident then
    let fs := ((l.ring.dropWhile fun r => r.seq != lseq).filterMap fun r => r.flit.done).filter fun f => 3 ≤ f.kind
    .next (fs.foldl State.reroute (s.modLantern ident fun l => { l with ring := [] }))
  else match l.ring.find? fun r => r.seq == lseq with
    | none => .next (s.resetStream ident)
    | some x =>
      let waits := fun (y : RingFlit) => l.txq.any fun q => q.seq == some y.seq
      let again := (l.ring.filter fun y => y.peer == x.peer).dropWhile fun y => !(y.seq == lseq || waits y)
      let rest := l.txq.filter fun q => !(again.any fun y => q.seq == some y.seq && !q.any)
      let first := (again.filter fun y => !(rest.any fun q => q.seq == some y.seq)).map fun y => y.again false
      .next ((s.modLantern ident fun l => { l with txq := first ++ rest }).armedCheck ident)

/-- The far ends of an identity's circuits, transmit and receive: package and identity. -/
def State.farEnds (s : State) (i : Nat) : List (Nat × Nat) :=
  (((s.heldEntries i).map (·.2.2) ++ s.baseEntries i).filter fun e => e.cls ≤ 1).map (fun e => (e.peer, e.plan)) |>.eraseDups

/-- The fault of an active Lantern is detected: the identity goes to the hot spare, which resumes within 2,400 counts of the
fault, the circuit switches and the far ends are told, and a flit under way starts again; or the identity has failed. -/
def State.detectFault (s : State) (i : Nat) : State :=
  match (s.lantern i).faultAt with
  | none => s
  | some e =>
    let sp := s.lantern (spareOf i)
    if sp.ls ≠ 1 ∨ sp.engine.isNone then s.failIdent i
    else
      let (k, s) := s.freeBelow (e + 2401 - s.now)
      let told := (s.farEnds i).map fun p => Control.moved i p.1 p.2
      let s := { s.setLs i 6 with control := s.control ++ Control.switchover i (spareOf i) :: told }
      let s := s.modLantern i fun l =>
        { l with engine := sp.engine, resumeAt := some (s.now + k), txq := l.txq.map fun x => { x with left := 64 } }
      let s := s.modLantern (spareOf i) fun x => { x with engine := none }
      s.schedule (s.now + k) phStart (.ev (.failoverResume i))

/-- LANTERN_FAULT (R351): the fault of an active Lantern, detected within 64 counts, whether on its transmit or its receive path; a
fault on the spare, idle or while it takes over. -/
def execLanternFault (ident : Nat) (s : State) : Res :=
  let l := s.lantern ident
  if l.ls = 6 then .next ((s.failIdent ident).setLs (spareOf ident) 7)
  else if l.ls = 1 then
    match (List.range 14).find? fun i => spareOf i == ident && (s.lantern i).ls == 6 with
    | some i => .next ((s.failIdent i).setLs ident 7)
    | none => .next ((s.modLantern ident fun l => { l with engine := none }).setLs ident 7)
  else if l.active && l.faultAt.isNone then
    let dark := Config.freeBool s.free
    let (k, s) := ({ s with free := s.free + 1 } : State).freeBelow 65
    .next ((s.modLantern ident fun l => { l with faultAt := some s.now, dark := dark }).schedule (s.now + k) phStart (.detect ident))
  else .next s

/-- The flits that a failover replays, in order of their link sequence: from the first one on that was sent at or after E − 64, or
that waits for the replay of a NACK (R351). -/
def Lantern.replayed (l : Lantern) (e : Nat) : List RingFlit :=
  l.ring.dropWhile fun r => !(e ≤ r.at_ + 64 || l.txq.any fun x => x.seq == some r.seq)

/-- FAILOVER_RESUME (R351): the identity is on the spare. The replayed flits leave, and the queued flits follow, in every slot toward
their far end, and count toward an armed threshold (R353); the spare's identity shows the failed engine. -/
def execFailoverResume (ident : Nat) (s : State) : Res :=
  let l := s.lantern ident
  match l.faultAt with
  | none => .next s
  | some e =>
    if l.ls ≠ 6 ∨ l.resumeAt ≠ some s.now then .next s
    else
      let again := (l.replayed e).map fun r => r.again true
      let rest := (l.txq.filter fun x => !(x.seq.isSome && again.any fun y => y.seq == x.seq)).map fun x => { x with any := true }
      let s := s.modLantern ident fun l => { l with faultAt := none, resumeAt := none, dark := false, txq := again ++ rest }
      .next (((s.setLs ident (s.lantern ident).code).setLs (spareOf ident) 7).armedCheck ident)

/-! ### Timetables (R256, R343) -/

/-- PHASE_SWITCH (R256): at the gang's period boundary. -/
def execPhaseSwitch (g : Nat) (s : State) : Res :=
  .next ((s.modGang g fun x => { x with phase := x.nextPhase.getD x.phase, nextPhase := none }).tellCircuits g)

/-- BASE_TIMETABLE_INSTALL (R343). -/
def execBaseTimetableInstall (ident : Nat) (s : State) : Res :=
  match s.newTT.find? fun b => b.1 == ident with
  | none => .next s
  | some b => .next { s with
      baseTT := b :: s.baseTT.filter fun (x : Nat × List (BitVec 128)) => x.1 != ident
      newTT := s.newTT.filter fun (x : Nat × List (BitVec 128)) => x.1 != ident }

/-! ### Reception (R338, R348) -/

/-- Bytes of elastic flits that an identity's receive buffer holds (R348). -/
def elasticBuffer : Nat := 2 ^ 20

/-- A frame has come whole: it is delivered over the edges, 20 counts each, and there at the start of the count after (R347, R349), or
forwarded out of the buffer that holds it. -/
def State.frameCame (s : State) (ident : Nat) (f : Frame) : State :=
  if f.dstPkg = s.pkg.toNat then
    let s := if 3 ≤ f.kind then s.modLantern ident fun l => { l with rxBytes := l.rxBytes - 64 * f.flits } else s
    match frameEvent { f with port := some (portOf ident) } with
    | none => s
    | some i =>
      let way := f.way (portOf ident)
      let n := 1 + 20 * way.length
      s.schedule (s.now + n + s.lateBy way (s.bel + n)) phStart (.ev i)
  else if f.kind < 3 then s
  else { s with transit := s.transit ++ [(ident, { f with hop := f.hop + 1 })] }.soon (.ev (.elasticForward f))

/-- A flit is taken in its order. A timed frame of which one cannot be decoded is discarded whole (R347). -/
def State.acceptFlit (s : State) (ident : Nat) (f : Flit) : State :=
  let bad := (s.lantern ident).rxBad.contains f.frame || !f.crcOk
  let s := s.modLantern ident fun l =>
    { l with rxSeq := (l.rxSeq + 1) % 2 ^ 32, rxBytes := if f.timed then l.rxBytes else l.rxBytes + 64,
             rxBad := if f.timed && bad && f.done.isNone then f.frame :: l.rxBad.filter (· != f.frame)
                      else if f.timed then l.rxBad.filter (· != f.frame) else l.rxBad }
  match f.done with
  | some g => if f.timed && bad then s else s.frameCame ident g
  | none => s

/-- A link sequence is so far beyond the one awaited that the flit awaited is in no replay ring any more: the far end's stream has
begun anew (R348; log 84, DESIGN CHOICE). -/
def Lantern.beyondRing (l : Lantern) (lseq : Nat) : Bool :=
  let n := (lseq + 2 ^ 32 - l.rxSeq) % 2 ^ 32
  Config.replayRing ≤ n && n < 2 ^ 31

/-- FLIT_RECEIVE (R338, R348): a flit whose LSEQ is not the next is dropped; an elastic flit without room, or one that fails its
CRC, is discarded with all that follow until the replay, which a NACK asks for; a timed flit that fails goes with its frame
(R347). -/
def execFlitReceive (ident lseq : Nat) (f : Flit) (s : State) : Res :=
  let l := s.lantern ident
  if !s.belfryOn ∨ s.identDown ident ∨ l.ls = 1 ∨ !(lseq == l.rxSeq || l.beyondRing lseq) then .next s
  else
    let s := if lseq = l.rxSeq then s else s.modLantern ident fun l => { l with rxSeq := lseq }
    if !f.timed && (!f.crcOk || elasticBuffer < l.rxBytes + 64) then
      .next { s with control := s.control ++ [.nack ident lseq] }
    else .next (s.acceptFlit ident f)

end Sys2Proof.Machine
end

