-- ==== Sys2Proof/Machine/Links.lean ====
section
/-!
DEFINITION. What the links and the reference clock do to the package from outside (13 R334–R336): resent edge flits, an edge out
of service, the domain epoch, the loss of lock.
-/

namespace Sys2Proof.Machine

/-! ### Edges (R334) -/

/-- The compute dies at the ends of an edge: 0–2 and 3–5 along the rows, 6–9 between them by column, 10–13 from V0, V2, V1, V3
to their port dies. -/
def edgeEnds (e : Nat) : List Nat :=
  if e < 6 then [dieAt (e / 3) (e % 3), dieAt (e / 3) (e % 3 + 1)]
  else if e < 10 then [dieAt 0 (e - 6), dieAt 1 (e - 6)]
  else match e with | 10 => [0] | 11 => [2] | 12 => [1] | _ => [3]

/-- Dated work moves later. -/
def State.delayDated (s : State) (n : Nat) (p : Dated → Bool) : State :=
  { s with calendar := s.calendar.map fun (e : Dated) => if p e then { e with at_ := e.at_ + n } else e }

/-- The edges that a frame which is still to arrive may have before it: of a SEND within the package the last one, of a frame
that came over a Lantern all from its port die on. -/
def State.edgesLeft (s : State) (f : Frame) : List Nat :=
  match f.port with
  | some p => f.way p
  | none =>
    if f.kind = 1 ∧ f.srcPkg = s.pkg.toNat ∧ f.dstPkg = s.pkg.toNat then ((dirPath f.srcDie f.dstDie).getLast?).toList else []

/-- The frame that an event brings to its die. -/
def arrivingFrame : Micro → Option Frame
  | .ev (.timedFrameArrival f) | .ev (.exchangeFrameArrival f) | .ev (.elasticRead f) | .ev (.elasticWrite f) | .ev (.elasticAtomic f)
  | .ev (.readReply f) | .ev (.rowRequest f) | .ev (.rowReply f) => some f
  | _ => none

/-- The scalar access that an event completes: die, context and request. -/
def completedScalar : Micro → Option (Nat × Nat × Nat)
  | .done d c id | .ev (.atomicValueReturn d c id) => some (d, c, id)
  | _ => none

/-- The BELFRY count of dated work. -/
def State.belOf (s : State) (x : Dated) : Nat := s.bel + (x.at_ - s.now)

/-- Network frames on a directed edge arrive 8 counts late. -/
def State.delayNet (s : State) (e : Nat) : State :=
  (List.range 8).foldl (fun s d =>
    let hit := ((s.die d).nframes.filter fun f => s.bel ≤ f.arrive && (dirPath f.fromDie d).contains e).map fun (f : NFrame) => f.id
    let later := fun (f : NFrame) => if hit.contains f.id then { f with arrive := f.arrive + 8 } else f
    let s := s.modDie d fun x => { x with nframes := x.nframes.map later }
    s.delayDated 8 fun (x : Dated) => match x.what with
      | .ev (.nsendFrameArrival k id) => k == d && hit.contains id
      | _ => false) s

/-- Bytes of SEND frames on a directed edge, and frames whose last bytes are on it, arrive 8 counts late. -/
def State.delaySends (s : State) (e : Nat) : State :=
  let shift := fun (p : Nat × Nat) => if s.bel ≤ p.1 + Config.edgeLatency then (p.1 + 8, p.2) else p
  let later := fun (x : SendState) => match x.path.idxOf? e with
    | some j => { x with flow := x.flow.modify j fun (l : List (Nat × Nat)) => l.map shift }
    | none => x
  { s with sends := s.sends.map later }.delayDated 8 fun (x : Dated) =>
    (arrivingFrame x.what).any fun f => s.heldUp (s.edgesLeft f) (s.belOf x) e

/-- A granule of a TDMA dir=in whose bytes a directed edge holds up lands 8 counts late; RETRY is set where its promise is missed
(R236). -/
def State.delayGranules (s : State) (d c e : Nat) : State :=
  (s.ctx d c).reqs.foldl (fun s r => r.grans.foldl (fun s g =>
    match g.slot with
    | some b => if !g.done && s.heldUp (dirPath b.1 d) g.due e then s.lateGran d c r g b (g.due + 8) else s
    | none => s) s) s

/-- A released granule of a TDMA dir=out that a directed edge holds up performs 8 counts late. -/
def State.delayWrites (s : State) (e : Nat) : State :=
  (s.pendings.filter fun p => p.slot.any fun t => !p.sent && s.heldUp (dirPath p.die t.1) p.due e).foldl (fun s p =>
    { s with pendings := s.pendings.map fun (q : Pending) => if q.id = p.id then { q with due := p.due + 8 } else q }.scheduleBel
      (p.due + 8) phEdge (.ev (.deferredWritePerform p.id))) s

/-- The die at whose stack or bank wall a home of the package lies. -/
def State.homeDie (s : State) (h : Home) : Option Nat :=
  match h with
  | .stack n off => (s.placeOf n off).toOption.map (·.1)
  | .bank k _ => some k
  | _ => none

/-- A scalar access of a context whose request or reply a directed edge holds up completes 8 counts late. -/
def State.delayScalars (s : State) (d c e : Nat) : State :=
  let away := ((s.ctx d c).reqs ++ (s.ctx d c).sentAtomics).filterMap fun (r : Req) => (r.home.bind s.homeDie).map fun n => (r.id, n)
  s.delayDated 8 fun (x : Dated) => (completedScalar x.what).any fun k =>
    k.1 == d && k.2.1 == c && away.any fun p => p.1 == k.2.2 && s.heldUp (roundTrip d p.2) (s.belOf x) e

/-- EDGE_CRC_FAIL (R334): a flit of a directed edge (14 is added toward the lower column or row) is sent again 8 counts later,
and all that queues behind it is 8 counts late; a flit that fails twice takes the edge out of service and aborts every gang
with a member on either die. -/
def execEdgeCrcFail (e : Nat) (again : Bool) (s : State) : Res :=
  if again then
    let ends := edgeEnds (e % 14)
    let hit := s.gangs.filter fun g => g.state != .saved && g.members.any fun m => ends.contains m.die
    .next (({ s with edges := s.edges &&& ~~~((1 : BitVec 14) <<< (e % 14)) } : State).soonAll
      (hit.map fun (g : Gang) => .ev (.gangAbort g.id .outside)))
  else
    let s := ((s.delayNet e).delaySends e).delayWrites e
    let s := (List.range 8).foldl (fun s d => (List.range 3).foldl (fun s c => (s.delayGranules d c e).delayScalars d c e) s) s
    .next { s with edgeLate := (e, s.bel + 8) :: s.edgeLate.filter fun l => l.1 != e }

/-! ### Belfry time (R335, R336) -/

/-- The Lantern of an identity is bound and brought up; a code that changes sends vector 5 (R339, R363). -/
def State.bringUp (s : State) (i : Nat) : State :=
  let l := boundLantern s.pres s.flights i
  if (s.lantern i).engine.isSome ∨ 1 < (s.lantern i).ls.toNat then s
  else (s.modLantern i fun o => { l with ls := o.ls }).setLs i l.ls

/-- Initialisation begins the link sequences of an identity at zero (R338); what waited to be replayed leaves as new, and its receive
buffer holds what it still forwards. -/
def State.beginLinks (s : State) (i : Nat) : State :=
  let held := ((s.transit.filter fun t => t.1 == i).map fun t => 64 * t.2.flits).sum
  s.modLantern i fun l =>
    { l with txSeq := 0, rxSeq := 0, ring := [], rxBad := [], rxBytes := held,
             txq := (l.txq.filter fun x => !(x.timed && x.seq.isSome)).map fun (x : TxFlit) =>
               if x.timed then x else { x with seq := none, from_ := 0 } }

/-- EPOCH_ARRIVAL (R335): BELFRY takes the root's epoch and the measured delay, and runs from then on; the link sequences begin, the
flights are measured and the Lanterns that are not in service yet are brought up; a booted package takes part again. -/
def execEpochArrival (v delay : Nat) (s : State) : Res :=
  .next ((List.range 14).foldl (fun s i => (s.beginLinks i).bringUp i)
    { s with belfry := BitVec.ofNat 64 (v + delay), belfryOn := true, ready := s.stage == 3 && s.berr == 0 })

/-- CLOCK_LOCK_LOSS (R336): every gang with a context on the package is aborted, and the package takes part in nothing until
the domain is initialised again. -/
def execClockLockLoss (s : State) : Res :=
  let hit := s.gangs.filter fun g => g.state != .saved
  .next (({ s with ready := false, belfryOn := false } : State).soonAll (hit.map fun (g : Gang) => .ev (.gangAbort g.id .outside)))

end Sys2Proof.Machine
end

