-- ==== Sys2Proof/Machine/Offline.lean ====
section
/-!
DEFINITION. Taking a compute die offline (11 R305, R306, Table 11-8).
-/

namespace Sys2Proof.Machine

/-! ### The frame map -/

/-- Frames of 64 KiB in a stack. -/
def stackFrames : Nat := 2 ^ 20

/-- The lowest frame in a mask. -/
def lowestUsed (m : Nat) : Option Nat := (List.range stackFrames).find? fun f => bit f m

/-- A frame of a stack to which another may move: not in use, and not of the reserved region (R364). -/
def unusedFrame (n m f : Nat) : Bool := !bit f m && !reservedPhys n (f * 65536)

/-- Frames of a mask, and frames of a stack not in its mask, counted. -/
def usedCount (m : Nat) : Nat := ((List.range stackFrames).filter fun f => bit f m).length
def unusedCount (n m : Nat) : Nat := ((List.range stackFrames).filter (unusedFrame n m)).length

/-- A stack in service: its die is not offline; the stack of a harvested or of a retired die stays in service (R1, R325). -/
def State.stackInService (s : State) (n : Nat) : Bool := !s.offline.getLsbD n

/-- Frames of a stack to which earlier remap entries lead. -/
def State.remapTargets (s : State) (n : Nat) : Nat :=
  s.remap.foldl (fun (m : Nat) (r : Nat × Nat × Nat × Nat) => if r.2.2.1 = n then m ||| 2 ^ r.2.2.2 else m) 0

/-- The frames in use of each stack, from the frame map at an address. -/
def State.frameMasks (s : State) (a : Nat) : Option (List Nat) :=
  if !physOk a (2 ^ 20) then none
  else (s.physRead a (2 ^ 20)).map fun bs =>
    (List.range 8).map fun n => natOfBytes ((bs.drop (2 ^ 17 * n)).take (2 ^ 17)) ||| s.remapTargets n

/-- The lowest unused frame of the lowest-numbered other stack in service. -/
def State.newFrame (s : State) (d : Nat) (masks : List Nat) : Option (Nat × Nat) :=
  (List.range 8).findSome? fun n =>
    if n ≠ d ∧ s.stackInService n then ((List.range stackFrames).find? (unusedFrame n (masks.getD n 0))).map fun f => (n, f) else none

/-! ### The request -/

/-- The request under way: its die. -/
def State.offDie (s : State) : Nat := s.offReq.toNat % 8

/-- A request ends with a code and the bits above it, and vector 2. -/
def State.offEnd (s : State) (code high : Nat) : State := { s with offStat := BitVec.ofNat 64 (code + high) }.msix (some 2)

/-- Gangs and BG tasks that run on a die or hold a grant on its stack; one that has ended counts once its successor's start is
fixed. -/
def State.gangsNeeding (s : State) (d : Nat) : List Gang :=
  s.gangs.filter fun g => g.state != .saved && (g.state != .ended || g.resumeAt.isSome) && g.state != .aborted &&
    (g.members.any (fun m => m.die == d) || (s.holdGrants g.hold).any fun x => x.1 == d && x.2 != 0)

/-- OFFLINE_REQUEST (R306): refused, without room, or busy with the gangs of the die to be pre-empted. -/
def execOfflineRequest (v : Word) (s : State) : Res :=
  let d := v.toNat % 8
  if s.offBusy ∨ d = 0 ∨ !s.diePresent d ∨ s.offline.getLsbD d then .next (s.offEnd 5 0)
  else match s.frameMasks (v.toNat / 2 ^ 16 * 2 ^ 16) with
    | none => .next (s.offEnd 5 0)
    | some masks =>
      let used := usedCount (masks.getD d 0)
      let room := (((List.range 8).filter fun n => n != d && s.stackInService n).map fun n =>
        unusedCount n (masks.getD n 0)).sum
      if room < used ∧ !v.getLsbD 3 then
        .next ({ s with degraded := s.degraded ||| ((1 : BitVec 10) <<< d) }.offEnd 3 8)
      else
        let ids := (s.gangsNeeding d).map fun (g : Gang) => g.id
        let s := { s with offBusy := true, offReq := v, offStat := 1, offMap := masks }
        let s := ids.foldl (fun s g => s.modGang g fun x => { x with offline := true }) s
        .next (s.schedule (s.now + 1) phEnd (.ev .frameMove))

/-! ### Moving a frame -/

/-- An address in a frame. -/
def inFrame (f a : Nat) : Bool := a / 65536 == f

/-- The bytes and the poison of a frame move to another frame, which loses what it held. -/
def State.copyFrame (s : State) (d f n g : Nat) : State :=
  let bytes := (s.stack d).filter fun c => inFrame f c.1
  let s := s.modStack n fun m => Mem.write (m.filter fun c => !inFrame g c.1) (bytes.map fun c => (c.1 % 65536 + 65536 * g, c.2))
  { s with poison := (s.poison.filter fun p => !(p.1 == n && inFrame g p.2)).map fun (p : Nat × Nat) =>
      if p.1 = d ∧ inFrame f p.2 then (n, p.2 % 65536 + 65536 * g) else p }

/-- The remap entries after a frame has moved: the entry of the address that led there, or a new one. -/
def movedRemap (l : List (Nat × Nat × Nat × Nat)) (d f n g : Nat) : List (Nat × Nat × Nat × Nat) :=
  if l.any fun r => r.2.2 == (d, f) then l.map fun (r : Nat × Nat × Nat × Nat) => if r.2.2 = (d, f) then (r.1, r.2.1, n, g) else r
  else l ++ [(d, f, n, g)]

/-- FRAME_MOVE (R306): once no gang needs the die, the lowest used frame of its stack moves to a new home; with none to move, or
none to move to, the request ends. -/
def execFrameMove (s : State) : Res :=
  let d := s.offDie
  if !s.offBusy then .next s
  else if !(s.gangsNeeding d).isEmpty then .next (s.schedule (s.now + 1) phEnd (.ev .frameMove))
  else match lowestUsed (s.offMap.getD d 0), s.newFrame d s.offMap with
    | some f, some (n, g) =>
      let s := s.copyFrame d f n g
      let s := { s with
        remap := movedRemap s.remap d f n g
        offMap := (s.offMap.set d (s.offMap.getD d 0 ^^^ 2 ^ f)).set n (s.offMap.getD n 0 ||| 2 ^ g) }
      .next (s.schedule (s.now + 1) phEnd (.ev .frameMove))
    | _, _ => .next (s.soon (.ev .offlineDone))

/-! ### The end -/

/-- The address that a frame of a stack stands for: that of the remap entry that leads there, or its own. -/
def frameAddress (l : List (Nat × Nat × Nat × Nat)) (d f : Nat) : Nat × Nat :=
  match l.find? fun r => r.2.2 == (d, f) with
  | some r => (r.1, r.2.1)
  | none => (d, f)

/-- OFFLINE_DONE (R306): the frames left over are lost; the die and its stack are offline; a forced request ends with code 4. -/
def execOfflineDone (s : State) : Res :=
  let d := s.offDie
  let one : BitVec 10 := (1 : BitVec 10) <<< d
  let left := (List.range stackFrames).filter fun f => bit f (s.offMap.getD d 0)
  let s := { s with
    lostFrames := s.lostFrames ++ left.map fun f => frameAddress s.remap d f
    offBusy := false
    offline := s.offline ||| one
    svc := s.svc &&& ~~~one }
  .next (s.offEnd (if s.offReq.getLsbD 3 then 4 else 2) (left.length % 2 ^ 20 * 16))

end Sys2Proof.Machine
end

