-- ==== Sys2Proof/Machine/Paths.lean ====
section
/-!
DEFINITION. The proofing engine's analysis of every path through a die program (02 R64, R65, 01 R37, R39, R43, 03 R86, 05
R126): collisions, results in flight at an indirect branch, guarded regions, network occupancy, static bank addresses; the length
of regions (12 R307); and the duplicate maps (12 R322). Choices: log 54.
-/

namespace Sys2Proof.Machine

/-- A slot of a group as proofing scans it: the offset of its bundle and its instruction. -/
structure CodeSlot where
  bundle : Nat
  instr : Instr

/-- The class index of a scanned slot. -/
def CodeSlot.cls (s : CodeSlot) : Nat := match s.instr.hdr with | some h => h.cls.toNat | none => 0

/-- An issue group as proofing scans it: its offset, that of the next group, its steps (R34), whether it is a checkpoint group, its slots
that pass the checks of their own fields, and every slot with an assigned opcode. -/
structure CodeGroup where
  off : Nat
  next : Nat
  steps : Nat
  ck : Bool
  slots : List CodeSlot
  read : List CodeSlot

/-- A die program under proofing. -/
structure Program where
  kind : DieKind
  groups : List CodeGroup
  entry : Nat
  plates : List (Nat × Plate4)
  rbase : Nat
  rlimit : Nat
  /-- its FG contexts insert idle steps (R301); a handler image has none -/
  fg : Bool

/-- A failure within a code segment: offset of the bundle, code, slot. -/
structure CodeFail where
  off : Nat
  why : Reject
  slot : Nat

/-- A known value: the word, and whether it is a literal (an LI, an LIH over one, or a zero of the start) rather than computed. -/
abbrev Value := Word × Bool

/-- A result in flight: the steps until it lands, its destination with registers by physical number, whether the rotation between
its issue and the present one is unknown, whether its slot was guarded, the bytes of a vector register or the bank range that it
writes, its value if known, and the bundle of an RSCAN or RSEG whose latch it is (R168). -/
structure Flight where
  rem : Nat
  dest : Dest
  loose : Bool
  guarded : Bool
  mask : Nat
  range : Option (Int × Int)
  val : Option Value
  scan : Option Nat
  deriving DecidableEq

/-- What the analysis carries along a path: the next group, the results in flight, VRB (known, or relative to the last point where
it was not), the mode if known, the scalar registers whose value is known (64 stands for LC), the steps left of A-operand streams by
group and of a store's hold on NW, and the non-empty groups since the last idle step (R301). -/
structure PathState where
  at_ : Nat
  flights : List Flight
  abs : Bool
  vrb : BitVec 5
  mode : Option Bool
  known : List (Nat × Value)
  streams : List (Nat × Nat)
  nw : Nat
  run : Nat
  deriving DecidableEq

/-! ### Static bank addresses -/

/-- What is known of a scalar register, or of LC. -/
def PathState.find (p : PathState) (n : Nat) : Option Value := (p.known.find? fun k => k.1 == n).map (·.2)

/-- The value of a scalar register, if the path gives it. -/
def PathState.value (p : PathState) (n : BitVec 6) : Option Word := (p.find n.toNat).map (·.1)

/-- The value that an instruction gives its scalar destination: a literal of LI or LIH, a sum of ADDI. -/
def PathState.constant (p : PathState) : Instr → Option Value
  | .li h o => some (wordOfInt (o.value h), true)
  | .lih _ o => (p.find o.d.toNat).map fun v => (o.imm ++ v.1.setWidth 32, v.2)
  | .addi h o => (p.value o.x).map fun v => (v + wordOfInt (o.value h), false)
  | _ => none

/-- What is known of one register changes. -/
def setKnown (l : List (Nat × Value)) (n : Nat) (v : Option Value) : List (Nat × Value) :=
  let rest := l.filter fun k => k.1 != n
  match v with
  | none => rest
  | some v => (rest.takeWhile fun k => k.1 < n) ++ (n, v) :: rest.dropWhile fun k => k.1 < n

/-- Computed values are forgotten: where a path turns back and the number of turns is not known. -/
def PathState.forget (p : PathState) : PathState := { p with known := p.known.filter fun k => k.2.2 }

/-- The greatest LC whose loop is followed turn by turn. -/
def loopLimit : Nat := 4096

/-- A plate that the image defines. -/
def Program.plate? (m : Program) (n : Nat) : Option Plate4 := (m.plates.find? fun p => p.1 == n).map (·.2)

/-- The least range that holds two. -/
def hull (x y : Int × Int) : Int × Int := (min x.1 y.1, max x.2 y.2)

/-- n bytes from an address. -/
def natRange (a n : Nat) : Int × Int := ((a : Int), (a + n : Int))

/-- The bytes from the lowest to the highest that an access through a plate touches, for a known base. -/
def Program.netRange (m : Program) (pl : Nat) (base : Option Int) : Option (Int × Int) :=
  match m.plate? pl, base with
  | some p, some b =>
    let r := plateRoute m.kind p
    (r.columns.map fun c => 4 * ((b + r.row c) * r.ncol + c)).foldl
      (fun (m : Option (Int × Int)) a => match m with
        | none => some (a, a + 4)
        | some x => some (hull x (a, a + 4))) none
  | _, _ => none

/-- The bytes from the lowest to the highest of n accesses through a plate, each `rstep` rows after the one before. -/
def Program.stepsRange (m : Program) (pl : Nat) (base : Int) (rstep n : Nat) : Option (Int × Int) :=
  match m.netRange pl (some base), m.netRange pl (some (base + ((n - 1) * rstep : Nat))) with
  | some x, some y => some (hull x y)
  | _, _ => none

/-- The base row of a network word, if its register is known. -/
def PathState.netBase (p : PathState) (b : BitVec 6) (roff : Int) : Option Int := (p.value b).map fun v => sx v + roff

/-- The range of a scalar bank access of a known address (R119). -/
def PathState.scalarRange (p : PathState) (h : Hdr) (o : RI) : Option (Int × Int) :=
  (p.value o.x).map fun b =>
    let a : Int := (b + wordOfInt (o.value h)).toNat
    (a, a + 2 ^ (o.fn.toNat % 4))

/-- n bytes in the linear view from a known register's address. -/
def PathState.linearRange (p : PathState) (b : BitVec 6) (n : Nat) : Option (Int × Int) :=
  (p.value b).map fun v => natRange v.toNat n

/-- The bank range of an atomic, a WAITB or a barrier at a known bank address; one whose upper bits are set lies outside every
window (R120). -/
def PathState.bankRange (p : PathState) (x : BitVec 6) (n : Nat) : Option (Int × Int) :=
  match p.value x with
  | none => none
  | some v =>
    if !bit 63 v.toNat then none
    else
      let a : Int := (bankAddr v).getD (2 ^ 28)
      some (a, a + n)

/-- The bank range of a transfer: at least 64 bytes where the length is not known (R237, R238). -/
def PathState.transferRange (p : PathState) (o : Xfer) : Option (Int × Int) :=
  p.linearRange o.d (((p.value o.y).map BitVec.toNat).getD 64)

/-- The plate and the base row of the companion of a group's store, if known (R222). -/
def PathState.companion (p : PathState) (g : List CodeSlot) : Option (Nat × Int) :=
  g.findSome? fun s => match s.instr with
    | .nwrTile h o => (p.netBase o.b (o.value h)).map fun b => (o.pl.toNat, b)
    | _ => none

/-- The ranges that a tile stream reads: its rows, and its stipple list (R212, R213). -/
def Program.streamRanges (m : Program) (p : PathState) (h : Hdr) (o : Tile) : List (Int × Int) :=
  match p.value o.b with
  | none => []
  | some v =>
    let d := aStream v.toNat
    let steps := if o.fa.width = 4 ∧ o.fb.width = 4 then (o.n.toNat + 2) / 2 else o.n.toNat + 1
    (m.stepsRange d.pl (d.row + (if o.sp then 0 else h.wide)) d.rstep steps).toList ++
    (if o.cap = 0 then [] else [natRange (64 * d.ladr) (4 * o.cap.toNat)])

/-- The ranges that a tile store writes where its descriptor is known: its rows through the companion, and the scale entries of an
MQST (R222, R224). -/
def Program.storeRanges (m : Program) (p : PathState) (g : List CodeSlot) (o : TileSt) (q : Bool) : List (Int × Int) :=
  match p.value o.b with
  | none => []
  | some v =>
    let d := storeDesc v.toNat
    let rows := storeRows o
    (match p.companion g with
     | some c => (m.stepsRange c.1 c.2 d.rstep (16 * (o.nrg.toNat + 1))).toList
     | none => []) ++
    (if q then [hull (natRange (1024 * d.sadr + 8 * rows.headD 0) 8) (natRange (1024 * d.sadr + 512 * 15 + 8 * rows.getLastD 0) 8)]
     else [])

/-- The static bank ranges of an instruction: those that the window check meets, and the one within which its bank write lies if it
is known (R43, R64). -/
def Program.ranges (m : Program) (p : PathState) (g : List CodeSlot) : Instr → List (Int × Int) × Option (Int × Int)
  | .lds h o => ((p.scalarRange h o).toList, none)
  | .sts h o => ([], p.scalarRange h o)
  | .nrd h o | .nsend h o | .mwb h o => ((m.netRange o.pl.toNat (p.netBase o.b (o.value h))).toList, none)
  | .nwr h o | .nfill h o | .nrecv h o => ([], m.netRange o.pl.toNat (p.netBase o.b (o.value h)))
  | .ncopy h o => ((m.netRange o.pl.toNat (p.netBase o.b (o.value h))).toList,
      m.netRange (o.pl.toNat + 1) (p.netBase o.d (o.value h)))
  | .mscld h o => (((p.value o.b).map fun b =>
      let a : Int := (b + wordOfInt (o.value h)).toNat
      (a, a + 2 * (o.n.toNat + 1))).toList, none)
  | .mma h o | .mmaz h o | .mmaF64 h o => (m.streamRanges p h o, none)
  | .mst _ o =>
    match m.storeRanges p g o false with
    | [r] => ([], some r)
    | rs => (rs, none)
  | .mqst _ o => (m.storeRanges p g o true, none)
  | .aadd _ o | .ainc _ o | .acas _ o | .axchg _ o => ((p.bankRange o.x (if bit 0 o.fn.toNat then 8 else 4)).toList, none)
  | .waitb _ o => ((p.bankRange o.x 8).toList, none)
  | .barinit _ o | .bararr _ o => ((p.bankRange o.x 16).toList, none)
  | .tdmaIn _ o | .tdmaOut _ o | .rld _ o | .rst _ o | .send _ o | .recv _ o => ((p.transferRange o).toList, none)
  | .cqpost _ o => ((p.linearRange o.y 64).toList, none)
  | .xpose _ o => ((p.linearRange o.d 192).toList ++ (p.linearRange o.x 1).toList ++ (p.linearRange o.y 1).toList, none)
  | .xred _ o =>
    let n := ((p.value o.y).map BitVec.toNat).getD 64
    ((p.linearRange o.d n).toList ++ (p.linearRange o.x n).toList, none)
  | _ => ([], none)

/-- A range leaves the declared bank region. -/
def Program.outside (m : Program) (r : Int × Int) : Bool := r.1 < m.rbase || m.rlimit < r.2

/-! ### Collisions (R37, R64) -/

/-- The bytes of a cluster's register that a plate's present ports cover (R182). -/
def portMask (r : Route) (c : Nat) : Nat :=
  (List.range 32).foldl (fun m w => if r.pen (32 * c + w) then m + 15 * 2 ^ (4 * w) else m) 0

/-- The bytes of a vector register that a result writes at most. -/
def Program.resultMask (m : Program) (i : Instr) (c : Nat) : Nat :=
  match i with
  | .nrd _ o => match m.plate? o.pl.toNat with
    | some p => portMask (plateRoute m.kind p) c
    | none => 2 ^ 128 - 1
  | .vcvt _ o =>
    let ws := ((cvtSource o.sub).map Fmt.width).getD 64
    let wd := o.fmt.width
    if wd ≤ ws then
      let len := 128 * wd / ws
      (2 ^ len - 1) * 2 ^ (len * o.y.toNat)
    else 2 ^ 128 - 1
  | _ => 2 ^ 128 - 1

/-- Two results may write one byte of one vector register, one predicate, or one other register. Where the rotation between their
issues is not known, any two rotating destinations of a file meet, whatever their bytes (R64). -/
def Flight.meets (a b : Flight) : Bool :=
  let loose := a.loose || b.loose
  match a.dest, b.dest with
  | .v c n, .v d k => c == d && ((n == k && a.mask &&& b.mask != 0) || (loose && 32 ≤ n && 32 ≤ k))
  | .p c n, .p d k => c == d && (n == k || (loose && 8 ≤ n && 8 ≤ k))
  | .bank, .bank => match a.range, b.range with
    | some x, some y => x.1 < y.2 && y.1 < x.2
    | _, _ => true
  | .other, _ => false
  | x, y => x == y

/-- Two unguarded results that land in one step and meet collide. -/
def Flight.collides (a b : Flight) : Bool := !a.guarded && !b.guarded && a.rem == b.rem && a.meets b

/-- A destination under the rotation of the present step (R24). -/
def physicalDest (vrb : BitVec 5) : Dest → Dest
  | .v c n => .v c (physV vrb n)
  | .p c n => .p c (physP vrb n)
  | d => d

/-- The results that an instruction starts. -/
def Program.starts (m : Program) (p : PathState) (g : List CodeSlot) (s : CodeSlot) : List Flight :=
  let i := s.instr
  i.results.map fun r =>
    { rem := r.1, dest := physicalDest p.vrb r.2, loose := false, guarded := !i.unguarded,
      mask := match r.2 with | .v c _ => m.resultMask i c | _ => 1,
      range := (m.ranges p g i).2,
      val := p.constant i,
      scan := match i, r.2 with
        | .rscan _ _, .a _ | .rseg _ _, .a _ => some s.bundle
        | _, _ => none }

/-- The stage predicate that a LOOP writes, under the new rotation (R127). -/
def loopFlights (vrb : BitVec 5) (guarded : Bool) : List Flight :=
  (List.range 8).map fun c =>
    { rem := 0, dest := .p c (physP vrb 8), loose := false, guarded := guarded, mask := 1, range := none, val := none, scan := none }

/-- The failures of RSCAN and RSEG words whose latch is also that of another RD result landing in the same step, guarded or not:
each at its own bundle (R168). -/
def Flight.latchFails (a b : Flight) : List CodeFail :=
  if a.rem == b.rem && a.dest == b.dest then (a.scan.toList ++ b.scan.toList).map fun o => ⟨o, .reservedValue, 10⟩ else []

/-- Results added one by one, with a failure for each that collides. -/
def addFlights (s : CodeSlot) (new : List Flight) (x : List Flight × List CodeFail) : List Flight × List CodeFail :=
  new.foldl (fun x f =>
    (x.1 ++ [f], x.2 ++ (if x.1.any f.collides then [⟨s.bundle, .collision, s.cls⟩] else []) ++ x.1.flatMap f.latchFails)) x

/-! ### A group on a path -/

/-- What a landing leaves known of the scalar registers. -/
def learn (volatile : List Nat) (known : List (Nat × Value)) (f : Flight) : List (Nat × Value) :=
  match f.dest with
  | .s n => setKnown known n (if f.guarded ∨ volatile.contains n then none else f.val)
  | _ => known

/-- The path state after n steps. -/
def PathState.advance (p : PathState) (volatile : List Nat) (n : Nat) : PathState :=
  { p with
    known := (List.range n).foldl (fun k r => (p.flights.filter fun f => f.rem == r).foldl (learn volatile) k) p.known
    flights := (p.flights.filter fun f => n ≤ f.rem).map fun (f : Flight) => { f with rem := f.rem - n }
    streams := (p.streams.filter fun s => n < s.2).map fun (s : Nat × Nat) => (s.1, s.2 - n)
    nw := p.nw - n }

/-- Scalar registers that a promise may write at any time. -/
def Program.volatile (m : Program) : List Nat := m.groups.flatMap fun g => g.slots.flatMap fun s => s.instr.promisedS

/-- The failures of a guarded region's structure that a slot earns (R39). -/
def guardFails (mode : Option Bool) (s : CodeSlot) : List CodeFail :=
  let bad := match s.instr, mode with
    | .guardEnter _ _, some true => true
    | .guardLeave _ _, some false => true
    | i, some true => i.endsRegion || i.exposedOnly
    | _, _ => false
  if bad then [⟨s.bundle, .guardedRegion, s.cls⟩] else []

/-- The failures of network occupancy that a slot earns (Table 3-10): an NA word under a stream, a stream on a busy quarter or
beside an NA word, an NW word while a store holds its quarter. DESIGN CHOICE of log 54 (unsafe): an NCOPY, whose issue step
occupies NW as well, is no NW slot word and passes while a store holds its quarter. -/
def occupancyFails (m : Program) (p : PathState) (g : CodeGroup) (s : CodeSlot) : List CodeFail :=
  if m.kind = .v then []
  else
    let streams := g.slots.any fun t => t.instr.streamSteps.isSome
    let na := s.cls == 12 && (!p.streams.isEmpty || streams)
    let again := s.instr.streamSteps.isSome && p.streams.any fun x => x.1 + 2 == s.cls
    (if na || again then [⟨s.bundle, .maskOverlap, 12⟩] else []) ++
    (if s.cls = 14 ∧ p.nw ≠ 0 then [⟨s.bundle, .maskOverlap, 14⟩] else [])

/-- The change of VRB by a WRSR: absolute where both values are known, else the results in flight lose their relation to it. -/
def PathState.setVrb (p : PathState) (v : Option Word) : PathState :=
  match v, p.abs with
  | some w, true => { p with vrb := w.setWidth 5 }
  | some w, false => { p with vrb := w.setWidth 5, abs := true, flights := p.flights.map fun (f : Flight) => { f with loose := true } }
  | none, _ => { p with vrb := 0, abs := false, flights := p.flights.map fun (f : Flight) => { f with loose := true } }

/-- The modes that may hold after a slot. A GUARD that is itself guarded may act or not, and each is a path of its own (log 54). -/
def modesAfter (mode : Option Bool) (s : CodeSlot) : List (Option Bool) :=
  let go := fun (h : Hdr) (m : Bool) => if h.g = 0 ∨ mode = some m then [some m] else [some m, mode]
  match s.instr with
  | .guardEnter h _ => go h true
  | .guardLeave h _ => go h false
  | _ => [mode]

/-- The path states of a group under each mode that may hold after it; at most one of its slots is a GUARD. -/
def forkModes (g : List CodeSlot) (p : PathState) : List PathState :=
  (g.foldl (fun ms s => ms.flatMap fun m => modesAfter m s) [p.mode]).map fun m => { p with mode := m }

/-- What a slot changes for the groups that follow: VRB, streams, the hold on NW. -/
def PathState.after (p : PathState) (q : PathState) (s : CodeSlot) : PathState :=
  match s.instr with
  | .wrsr h o =>
    let v := if h.g = 0 then p.value o.x else none
    if o.sr.toNat = 0x0B then q.setVrb v
    else if o.sr.toNat = 0x0C then
      { q with known := setKnown q.known 64 (match v with
          | some w => if w.toNat ≤ loopLimit then some (w, false) else none
          | none => none) }
    else q
  | i => match i.streamSteps, i.storeSteps with
    | some n, _ => { q with streams := q.streams ++ [(s.cls - 2, n)] }
    | none, some n => { q with nw := max q.nw (n + 1) }
    | none, none => q

/-- A path state as a group finds it: where 63 non-empty groups stand behind it, after an inserted idle step (R301). -/
def Program.idleInserted (m : Program) (p : PathState) : PathState :=
  if m.fg && p.run == 63 then { p.advance m.volatile 1 with run := 0 } else p

/-- A possible target of an indirect branch: no result in flight, VRB, registers and mode not known (R65, R126, log 54). -/
def pathTarget (run off : Nat) : PathState :=
  { at_ := off, flights := [], abs := false, vrb := 0, mode := none, known := [], streams := [], nw := 0, run := run }

/-- The failures of one group on a path, and the path states that follow it. -/
def Program.visit (m : Program) (p : PathState) (g : CodeGroup) : List CodeFail × List PathState :=
  let p := m.idleInserted p
  let added := g.slots.foldl (fun x s => addFlights s (m.starts p g.slots s) x) (p.flights, [])
  let bounds := g.slots.filter fun s =>
    let r := m.ranges p g.slots s.instr
    r.1.any m.outside || r.2.any m.outside
  let fails := added.2 ++ bounds.map (fun s => (⟨s.bundle, .bounds, s.cls⟩ : CodeFail)) ++
    g.slots.flatMap (guardFails p.mode) ++ g.slots.flatMap (occupancyFails m p g) ++
    (if g.ck ∧ p.mode = some true then [⟨g.off, .guardedRegion, 15⟩] else [])
  let run := if g.slots.isEmpty then 0 else p.run + 1
  let q := { g.slots.foldl p.after { p with flights := added.1 } with run := run }
  let next := { q.advance m.volatile g.steps with at_ := g.next }
  let jump := fun (q : PathState) (o : Int) => { q.advance m.volatile g.steps with at_ := (g.off + o).toNat }
  let target := fun (q : PathState) (o : Int) => if o ≤ 0 then (jump q o).forget else jump q o
  let r : List CodeFail × List PathState := match g.slots.find? fun s => s.instr.flow != .on with
    | none => (fails, [next])
    | some s =>
      let fall := if s.instr.unguarded then [] else [next]
      match s.instr.flow with
      | .on => (fails, [next])
      | .toEnd o => (fails, target q o :: fall)
      | .either o => (fails, [target q o, next])
      | .any => (if added.1.any fun f => 0 < f.rem then fails ++ [⟨s.bundle, .inFlight, s.cls⟩] else fails,
          fall ++ m.groups.map fun t => pathTarget run t.off)
      | .stop => (fails, fall)
      | .loop o =>
        let lc := if s.instr.unguarded then p.find 64 else none
        let go := fun (q : PathState) => match lc with
          | some v => jump { q with known := setKnown q.known 64 (some (v.1 - 1, false)) } o
          | none => target { q with known := setKnown q.known 64 none } o
        let x := if m.kind = .m then (q.flights, fails) else addFlights s (loopFlights (q.vrb - 1) (!s.instr.unguarded)) (q.flights, fails)
        let turn := go { q with flights := x.1, vrb := if m.kind = .m then q.vrb else q.vrb - 1 }
        match lc with
        | some v => if v.1 = 0 then (fails, [next]) else (x.2, [turn])
        | none => (x.2, [turn, next])
  (r.1, r.2.flatMap (forkModes g.slots))

/-- Every path: the states still to visit, those visited, the failures found. -/
def Program.explore (m : Program) : Nat → List PathState → List PathState → List CodeFail → List CodeFail
  | 0, _, _, fails => fails
  | _, [], _, fails => fails
  | n + 1, p :: todo, seen, fails =>
    if seen.contains p then m.explore n todo seen fails
    else match m.groups.find? fun g => g.off == p.at_ with
      | none => m.explore n todo seen fails
      | some g =>
        let r := m.visit p g
        m.explore n (r.2 ++ todo) (p :: seen) (fails ++ r.1)

/-- The start of the program: no result in flight, VRB and LC 0, exposed mode, s8 to s63 zero (Table 1-17). -/
def Program.pathStart (m : Program) (off : Nat) : PathState :=
  let zeros := ((List.range 56).map (· + 8)).filter fun n => !m.volatile.contains n
  { at_ := off, flights := [], abs := true, vrb := 0, mode := some false,
    known := (zeros.map fun n => (n, (0, true))) ++ [(64, (0, false))], streams := [], nw := 0, run := 0 }

/-- The failures of all paths. -/
def Program.pathFails (m : Program) : List CodeFail :=
  m.explore (2 ^ 40) [m.pathStart m.entry] [] []

/-! ### Regions (R307) -/

/-- The groups that may follow a group. -/
def Program.successors (m : Program) (g : CodeGroup) : List Nat :=
  match g.slots.find? fun s => s.instr.flow != .on with
  | none => [g.next]
  | some s =>
    let fall := if s.instr.unguarded then [] else [g.next]
    match s.instr.flow with
    | .on => [g.next]
    | .toEnd o => (g.off + o).toNat :: fall
    | .either o | .loop o => [(g.off + o).toNat, g.next]
    | .any => m.groups.map (·.off) ++ fall
    | .stop => fall

/-- The starts of regions: index 0 is the entry group, the checkpoint groups follow in ascending offset. -/
def Program.regionStarts (m : Program) : List Nat := m.entry :: (m.groups.filter (·.ck)).map (·.off)

/-- A better distance put into a table. -/
def putDistance (t : List (Nat × Nat)) (off d : Nat) : List (Nat × Nat) :=
  match t.find? fun x => x.1 == off with
  | none => t ++ [(off, d)]
  | some x => if d < x.2 then t.map fun (y : Nat × Nat) => if y.1 = off then (off, d) else y else t

/-- One round over the groups: the distances of groups reached from those of the region of `start`. -/
def Program.spread (m : Program) (start : Nat) (t : List (Nat × Nat)) : List (Nat × Nat) :=
  m.groups.foldl (fun t g =>
    if g.ck ∧ g.off ≠ start then t
    else match (if g.off = start then some (start, 0) else t.find? fun x => x.1 == g.off) with
      | none => t
      | some x => (m.successors g).foldl (fun t o => putDistance t o (x.2 + g.steps)) t) t

/-- Groups reached from the start of a region, those that end it included, with the least steps of a path to each. -/
def Program.distances (m : Program) (start : Nat) : List (Nat × Nat) :=
  (List.range (m.groups.length + 1)).foldl (fun t _ => m.spread start t) []

/-- Checkpoint groups that no path from some checkpoint reaches within 65,536 steps. -/
def Program.longRegions (m : Program) : List CodeFail :=
  m.regionStarts.flatMap fun start =>
    ((m.distances start).filter fun x => 65536 < x.2 && m.groups.any fun g => g.off == x.1 && g.ck).map fun x =>
      ⟨x.1, .regionLength, 15⟩

/-! ### Duplicate maps (R322) -/

/-- The bit of a scalar register, and of a vector register of a cluster, in a set of registers. -/
def regBitS (n : Nat) : Nat := 2 ^ n
def regBitV (c n : Nat) : Nat := 2 ^ (64 * (c + 1) + n)

/-- The set of registers of destinations. -/
def destSet (l : List (Nat × Dest)) : Nat :=
  l.foldl (fun (m : Nat) r => match r.2 with
    | .s n => m ||| regBitS n
    | .v c n => if n < 32 then m ||| regBitV c n else m
    | _ => m) 0

/-- Registers that a group reads, that it writes, and that it overwrites whatever the values are. -/
def CodeGroup.reads (g : CodeGroup) : Nat :=
  g.slots.foldl (fun (m : Nat) s =>
    let a := s.instr.readsS.foldl (fun (m : Nat) n => m ||| regBitS n) m
    s.instr.readsV.foldl (fun (m : Nat) r => if r.2 < 32 then m ||| regBitV r.1 r.2 else m) a) 0
def CodeGroup.writes (g : CodeGroup) : Nat :=
  g.slots.foldl (fun (m : Nat) s => m ||| destSet s.instr.results ||| s.instr.promisedS.foldl (fun (m : Nat) n => m ||| regBitS n) 0) 0
def CodeGroup.kills (g : CodeGroup) : Nat :=
  g.slots.foldl (fun (m : Nat) s => if s.instr.unguarded && s.instr.whole then m ||| destSet s.instr.results else m) 0

/-- The union of the sets of some groups. -/
def unionAt (t : List (Nat × Nat)) (offs : List Nat) : Nat :=
  t.foldl (fun (m : Nat) x => if offs.contains x.1 then m ||| x.2 else m) 0

/-- One round of liveness: a register is live before a group that reads it, or after which it is live and which does not
overwrite it. -/
def Program.liveRound (m : Program) (t : List (Nat × Nat)) : List (Nat × Nat) :=
  m.groups.map fun g =>
    let out := unionAt t (m.successors g)
    (g.off, g.reads ||| (out &&& (out ^^^ (out &&& g.kills))))

/-- Registers live at the start of each group. -/
def Program.live (m : Program) : List (Nat × Nat) :=
  (List.range (m.groups.length + 1)).foldl (fun t _ => m.liveRound t) (m.groups.map fun g => (g.off, 0))

/-- Numbers of a file's registers in a set: file 0 is s1 to s63, file c + 1 is v0 to v31 of cluster c. -/
def fileNumbers (file set : Nat) : List Nat :=
  (if file = 0 then (List.range 63).map (· + 1) else List.range 32).filter fun n => bit (64 * file + n) set

/-- A group that ends the region before it: a checkpoint group, or one with an EXIT that is not guarded (R307). -/
def CodeGroup.ends (g : CodeGroup) : Bool := g.ck || g.slots.any fun s => s.instr.endsRegion && s.instr.unguarded

/-- The duplicate map of the region with an index that starts at a group. -/
def Program.dupRegion (m : Program) (live : List (Nat × Nat)) (ix start : Nat) : List (Nat × Nat × Nat × Nat) :=
  let reached := m.distances start
  let inside := m.groups.filter fun g => g.off == start || (!g.ends && reached.any fun x => x.1 == g.off)
  let named := inside.foldl (fun (s : Nat) g => s ||| g.reads ||| g.writes) 0
  let first := unionAt live [start]
  let last := unionAt live ((m.groups.filter fun g => g.ends && reached.any fun x => x.1 == g.off).map (·.off))
  (List.range 9).flatMap fun file =>
    let lives := fileNumbers file (named ||| first)
    let all := fileNumbers file (2 ^ 576 - 1)
    let spares := all.filter fun n => !bit (64 * file + n) (named ||| first ||| last)
    (lives.zip spares).map fun p => (ix, file, p.1, p.2)

/-- The duplicate maps of a program: checkpoint index, file, live register, spare. -/
def Program.dupMaps (m : Program) : List (Nat × Nat × Nat × Nat) :=
  let live := m.live
  (m.regionStarts.mapIdx fun i o => (i, o)).flatMap fun p => m.dupRegion live p.1 p.2

end Sys2Proof.Machine
end

