-- ==== Sys2Proof/Machine/Records.lean ====
section
/-!
DEFINITION. The records of an image that proofing checks: plates (07 R178, R179, 08 R207), bank, weight-buffer and stencil records,
descriptors (02 R69), live-bank entries (12 Table 12-5), and the timetable (13 R340–R342, 09 R232).
-/

namespace Sys2Proof.Machine

/-- A failure of a record: its offset within its segment, and the code. -/
abbrev RecFail := Nat × Reject

/-- A failure at an offset, if a condition holds. -/
def badAt (c : Bool) (off : Nat) (r : Reject := .imageFormat) : List RecFail := if c then [(off, r)] else []

/-- The n bytes at an offset; none where the segment ends before. -/
def slice? (bs : List Byte) (off n : Nat) : Option (List Byte) := if off + n ≤ bs.length then some ((bs.drop off).take n) else none

/-! ### Plates -/

/-- A V-die plate (Table 7-2). -/
def plateOkV (p : Nat) : Bool :=
  bits 7 0 p == 1 && bits 127 8 p == 0 && (List.range 256).all fun c => (p >>> (480 * 8 + 17 * c)) % 2 ^ 17 < 98304

/-- An M-die network plate (Table 7-3, R179). -/
def plateOkM (p : Nat) : Bool :=
  let q := bits 11 8 p
  let inside := (List.range 4).foldl (fun (m : Nat) g => if bit g q then m + (2 ^ 256 - 1) * 2 ^ (256 * g) else m) 0
  let used := bits (144 * 8 - 1) (16 * 8) p ||| bits (272 * 8 - 1) (144 * 8) p
  let sw := bits (1488 * 8 - 1) (272 * 8) p
  bits 15 12 p == 0 && bits 127 16 p == 0 && p >>> (3280 * 8) == 0 && used ||| inside == inside &&
  (q == 15 || [0, 1, 17, 18].all fun s => (sw >>> (512 * s)) % 2 ^ 512 == 0)

/-- A select plate (Table 8-4, R207). -/
def selectOk (p : Nat) : Bool :=
  let nk := bits 15 8 p
  let m := if nk = 8 then 8 else 4
  let used := fun (i : Nat) => (List.range 256).any fun c => (p >>> (16 * 8 + 4 * c)) % 16 == i
  (nk == 8 || nk == 16 || nk == 32) && bits 127 16 p == 0 && bits (256 * 8 - 1) (144 * 8) p == 0 && p >>> (2304 * 8) == 0 &&
  (List.range 16).all fun i => (List.range 16).all fun k =>
    let w := (p >>> (8 * (256 + 128 * i + 8 * k))) % 2 ^ 64
    if k < m then !used i || popCount 64 w == nk else w == 0

/-- Plates of a die type, and bytes of a plate (Table 7-1, R69). -/
def plateCount (k : DieKind) : Nat := if k = .v then 4096 else 2048
def plateBytes (k : DieKind) : Nat := if k = .v then 1024 else 4096

/-- A plate of a die type passes. -/
def plateOk (k : DieKind) (p : Nat) : Bool :=
  match k with
  | .v => plateOkV p
  | .m => if bits 7 0 p = 2 then plateOkM p else bits 7 0 p == 4 && selectOk p

/-- Plate records of a later segment whose number an earlier segment of the program holds (R69). -/
def repeatedPlates (k : DieKind) (seen : List Nat) (plates : List (Nat × Plate4)) : List RecFail :=
  ((plates.mapIdx fun i p => (i * (8 + plateBytes k), p.1)).filter fun p => seen.contains p.2).map fun p => (p.1, .imageFormat)

/-- Plate records from an offset on: those read, and their failures. -/
def plateRecords (k : DieKind) : Nat → Nat → Option Nat → List Byte → List (Nat × Plate4) × List RecFail
  | 0, _, _, _ => ([], [])
  | n + 1, off, last, bs =>
    if bs.isEmpty then ([], [])
    else if bs.length < 8 + plateBytes k then ([], [(off, .imageFormat)])
    else
      let h := natOfBytes (bs.take 8)
      let num := h % 2 ^ 12
      let p := natOfBytes ((bs.drop 8).take (plateBytes k))
      let order := match last with | some l => num ≤ l | none => false
      let r := plateRecords k n (off + 8 + plateBytes k) (some num) (bs.drop (8 + plateBytes k))
      ((num, BitVec.ofNat _ p) :: r.1,
       badAt (h / 2 ^ 12 != 0 || order) off ++ badAt (plateCount k ≤ num || !plateOk k p) off .plate ++ r.2)

/-! ### Bank, weight-buffer and stencil records (R69) -/

/-- Bank records (a = 28, within a region) or weight-buffer records (a = 24) from an offset on: failures. -/
def loadFails (a lo hi : Nat) : Nat → Nat → List Byte → List RecFail
  | 0, _, _ => []
  | n + 1, off, bs =>
    if bs.isEmpty then []
    else if bs.length < 8 then [(off, .imageFormat)]
    else
      let h := natOfBytes (bs.take 8)
      let at_ := h % 2 ^ a
      let count := bits 59 32 h
      let size := ceilDiv count 8 * 8
      if bs.length < 8 + size then [(off, .imageFormat)]
      else
        let pad := ((bs.drop (8 + count)).take (size - count)).any (· != 0)
        badAt (bits 31 0 h / 2 ^ a != 0 || bits 63 60 h != 0 || pad || at_ < lo || hi < at_ + count) off ++
          loadFails a lo hi n (off + 8 + size) (bs.drop (8 + size))

/-- Stencil-map records from an offset on: failures. -/
def stencilFails (lo hi : Nat) : Nat → Nat → List Byte → List RecFail
  | 0, _, _ => []
  | n + 1, off, bs =>
    if bs.isEmpty then []
    else if bs.length < 200 then [(off, .imageFormat)]
    else
      let h := natOfBytes (bs.take 8)
      badAt (2 ^ 28 ≤ h || h % 64 != 0 || h < lo || hi < h + 192) off ++ stencilFails lo hi n (off + 200) (bs.drop 200)

/-! ### Descriptors (Table 2-16) and live-bank entries (Table 12-5) -/

/-- A die-program descriptor as proofing reads it. -/
structure Descriptor where
  kind : Option DieKind
  pair : Option Nat
  entry : Nat
  rbase : Nat
  rlimit : Nat

/-- The descriptor of its bytes; nothing is known of one of the wrong length. -/
def descriptor (bs : List Byte) : Descriptor :=
  { kind := if bs.length ≠ 64 then none else match natAt bs 0 1 with | 0 => some .v | 1 => some .m | _ => none
    pair := if natAt bs 1 1 = 0xFF then none else some (natAt bs 1 1)
    entry := natAt bs 4 4, rbase := natAt bs 8 4, rlimit := natAt bs 12 4 }

/-- Bytes of the bank wall of a die type (Table 7-1). -/
def bankTop (k : DieKind) : Nat := if k = .v then 0x6000000 else 0x4000000

/-- A descriptor breaks its limits, or its pair is not mutual between a V-die and an M-die program. A region that reaches beyond the
bank wall of its die type is rejected too: DESIGN CHOICE of log 54, Table 2-16 bounds RLIMIT by RBASE alone. -/
def descriptorBad (all : List Descriptor) (ix : Nat) (bs : List Byte) : Bool :=
  let d := descriptor bs
  match d.kind with
  | none => true
  | some k =>
    natAt bs 2 2 != 0 || ((bs.drop 16).any (· != 0)) || d.rbase % 64 != 0 || d.rlimit % 64 != 0 || d.rlimit ≤ d.rbase ||
    bankTop k < d.rlimit ||
    (match d.pair with
      | none => false
      | some p => match all[p]? with
        | none => true
        | some e => match e.kind with
          | none => false
          | some l => e.pair != some ix || k == l)

/-- Live-bank entries: failures. -/
def liveFails (all : List Descriptor) : Nat → Nat → List Byte → List RecFail
  | 0, _, _ => []
  | n + 1, off, bs =>
    if bs.isEmpty then []
    else
      let e := natOfBytes (bs.take 16)
      let prog := bits 7 0 e
      let start := bits 95 64 e
      let len := bits 127 96 e
      let d := all.getD prog { kind := none, pair := none, entry := 0, rbase := 0, rlimit := 0 }
      let outside := if bit 8 e then 0x1000000 < start + len else start < d.rbase || d.rlimit < start + len
      badAt (bs.length < 16 || all.length ≤ prog || bits 63 9 e != 0 || start % 64 != 0 || len == 0 || len % 64 != 0 || outside) off ++
        liveFails all n (off + 16) (bs.drop 16)

/-! ### Timetables -/

/-- The header breaks Table 13-5. -/
def headerFails (tt : List Byte) : List RecFail :=
  badAt (tt.length < 64 || 16 < natAt tt 0 1 || natAt tt 1 1 == 0 || 16 < natAt tt 1 1 || natAt tt 2 2 != 0 ||
    ((tt.take 64).drop 20).any (· != 0)) 0

/-- A Lantern entry breaks Table 13-6 on its own. -/
def entryBad (plen nph n : Nat) (e : LanEntry) : Bool :=
  let timedOut := e.cls == 0 && !e.receive
  bit 51 n || bits 63 60 n != 0 || bits 79 78 n != 0 || bits 95 93 n != 0 || e.cls == 3 || plen ≤ e.start + e.run ||
  nph ≤ e.phase || e.lan == 6 || e.lan == 13 || e.plan == 6 || e.plan == 13 || 13 < e.lan || 13 < e.plan ||
  (e.cls == 0 && e.wgm == 0) || (e.cls == 2 && e.peer != 0) || (!timedOut && (e.xu != 0 || e.dly != 0))

/-- The order of the entries (R340). -/
def entryKey (e : LanEntry) : List Nat := [e.phase, e.lan, b2n e.receive, e.start]
def keyLess : List Nat → List Nat → Bool
  | a :: as, b :: bs => a < b || (a == b && keyLess as bs)
  | _, _ => false

/-- Two entries hold one slot. -/
def sameSlot (a b : LanEntry) : Bool := a.start ≤ b.start + b.run && b.start ≤ a.start + a.run

/-- Two entries of one member, identity and direction. -/
def sameEnd (a b : LanEntry) : Bool := a.memb == b.memb && a.lan == b.lan && a.receive == b.receive

/-- An entry breaks R342 against an earlier one. -/
def entriesBad (a b : LanEntry) : Bool :=
  a.phase == b.phase && sameSlot a b &&
  ((sameEnd a b && a.fib &&& b.fib != 0) ||
   (a.cls == 0 && b.cls == 0 && !a.receive && !b.receive && a.memb == b.memb && a.peer == b.peer && a.xu == b.xu))

/-- An entry of a later phase holds a slot and fibre that phase 0 does not hold. -/
def beyondPhase0 (es : List LanEntry) (e : LanEntry) : Bool :=
  let base := es.filter fun b => b.phase == 0 && sameEnd b e
  e.phase != 0 && (List.range 8).any fun f => bit f e.fib && (List.range (e.run + 1)).any fun i =>
    !base.any fun b => bit f b.fib && b.start ≤ e.start + i && e.start + i ≤ b.start + b.run

/-- The rule of reconnection is broken before an entry: on one of its fibres the entry before it, in the cycle of the period, leads
elsewhere, and one of the four slots before it is no guard slot. -/
def reconnects (plen : Nat) (es : List LanEntry) (e : LanEntry) : Bool :=
  e.cls != 2 && (List.range 8).any fun f => bit f e.fib &&
    let lane := es.filter fun b => b.phase == e.phase && sameEnd b e && bit f b.fib
    let others := lane.filter fun b => b.cls != 2 && b.ix != e.ix
    let gap := fun (b : LanEntry) => (e.start + plen - 1 - b.start) % plen
    let before := others.foldl (fun (m : Option LanEntry) b => match m with
      | none => some b
      | some x => if gap b < gap x then some b else m) none
    match before with
    | none => false
    | some b => (b.peer != e.peer || b.plan != e.plan) && (List.range 4).any fun i =>
        let slot := (e.start + 4 * plen - 1 - i) % plen
        !lane.any fun g => g.cls == 2 && g.start ≤ slot && slot ≤ g.start + g.run

/-- The failures of the Lantern entries. -/
def entryFails (tt : List Byte) : List RecFail :=
  let plen := periodSlots tt
  let n := natAt tt 4 4
  if tt.length < 64 + 16 * n then [(64 + (tt.length - 64) / 16 * 16, .imageFormat)]
  else
    let es := lanEntries tt
    es.flatMap fun e =>
      let earlier := es.take e.ix
      badAt (entryBad plen (phasesOf tt) (natAt tt (64 + 16 * e.ix) 16) e ||
        (match earlier.getLast? with | some p => keyLess (entryKey e) (entryKey p) | none => false) ||
        earlier.any (entriesBad e) || beyondPhase0 es e || reconnects plen es e) (64 + 16 * e.ix)

/-- The most (stack, slot) pairs of a program (R232). -/
def pairLimit : Option DieKind → Nat
  | some .v => 25
  | _ => 102

/-- The failures of the stack grants (R232). -/
def grantFails (all : List Descriptor) (tt : List Byte) : List RecFail :=
  let n := natAt tt 8 4
  let base := grantBase tt
  if tt.length < base + 8 * n then [(base + (tt.length - base) / 8 * 8, .imageFormat)]
  else
    let gs := grantsOf tt
    (gs.mapIdx fun i g => (i, g)).flatMap fun p =>
      let w := natAt tt (base + 8 * p.1) 8
      let g := p.2
      let mine := (gs.take (p.1 + 1)).filter fun x => x.1 == g.1
      badAt (bits 15 12 w != 0 || bits 63 36 w != 0 || 7 < g.2.1 || all.length ≤ g.1 ||
        ((gs.take p.1).any fun x => x.1 == g.1 && x.2.1 == g.2.1) ||
        (match all[g.1]? with | some d => pairLimit d.kind < (mine.map fun x => popCount 20 x.2.2).sum | none => false))
        (base + 8 * p.1)

/-- The failures of the exchange records from an offset on, and the offset after them. -/
def exchangeFails (tp : Nat) : Nat → Nat → List Nat → List Byte → List RecFail × Nat
  | 0, off, _, _ => ([], off)
  | n + 1, off, seen, bs =>
    let x := natAt bs 0 2
    let np := natAt bs 2 2
    let size := 32 + ceilDiv (2 * np) 16 * 16
    if bs.length < 32 ∨ bs.length < size then ([(off, .imageFormat)], off)
    else
      let parts := (List.range np).map fun i => natAt bs (32 + 2 * i) 2
      let r := exchangeFails tp n (off + size) (x :: seen) (bs.drop size)
      (badAt (np == 0 || 1024 < np || tp ≤ natAt bs 4 4 || natAt bs 8 4 == 0 || tp < natAt bs 8 4 ||
        ((bs.take 32).drop 20).any (· != 0) || ((bs.take size).drop (32 + 2 * np)).any (· != 0) || seen.contains x ||
        parts.eraseDups.length != np) off ++ r.1, r.2)

/-- The failures of the staging shares from an offset on, and of bytes after them. -/
def shareFails : Nat → Nat → List Nat → List Byte → List RecFail
  | 0, off, _, bs => badAt (!bs.isEmpty) off
  | n + 1, off, seen, bs =>
    if bs.length < 8 then [(off, .imageFormat)]
    else
      let w := natOfBytes (bs.take 8)
      badAt (bits 15 8 w != 0 || bits 63 32 w != 0 || bits 31 16 w == 0 || 128 < bits 31 16 w || seen.contains (bits 7 0 w)) off ++
        shareFails n (off + 8) (bits 7 0 w :: seen) (bs.drop 8)

/-- The failures of a timetable segment (R342): each part is read once the parts before it have their places. -/
def timetableFails (all : List Descriptor) (tt : List Byte) : List RecFail :=
  let h := headerFails tt
  if !h.isEmpty then h
  else
    let e := entryFails tt
    let g := grantFails all tt
    if tt.length < grantBase tt + 8 * natAt tt 8 4 then e ++ (if e.isEmpty then g else [])
    else
      let off := grantBase tt + 8 * natAt tt 8 4
      let x := exchangeFails (periodOf tt) (natAt tt 12 4) off [] (tt.drop off)
      e ++ g ++ x.1 ++ (if x.1.isEmpty then shareFails (natAt tt 16 4) x.2 [] (tt.drop x.2) else [])

end Sys2Proof.Machine
end

