-- ==== Sys2Proof/Machine/Proofing.lean ====
section
/-!
DEFINITION. The proofing engine (02 R66–R69, 14 R368): the checks of an image in their order, the result word, sealing.
-/

namespace Sys2Proof.Machine

/-- A failure: position of its segment in the segment table, offset, code, slot, die program. -/
structure Failure where
  seg : Nat
  off : Nat
  why : Reject
  slot : Nat
  prog : Nat

/-- The order of failures: the first in the scan, then the lowest code. -/
def Failure.key (f : Failure) : List Nat := [f.seg, f.off, f.why.code, f.slot, f.prog]

/-- The failure that is reported (R66). -/
def firstFailure (l : List Failure) : Option Failure :=
  l.foldl (fun m f => match m with | none => some f | some g => some (if keyLess f.key g.key then f else g)) none

/-- The result word of a failure (Table 2-11). -/
def Failure.word (f : Failure) : Word :=
  BitVec.ofNat 64 (f.slot % 16 * 2 ^ 4 + f.prog % 2 ^ 8 * 2 ^ 8 + f.why.code % 2 ^ 16 * 2 ^ 16 + f.off % 2 ^ 32 * 2 ^ 32)

/-- The result word of a sealed image. -/
def sealedWord (handle : Nat) : Word := BitVec.ofNat 64 (1 + handle % 2 ^ 32 * 2 ^ 32)

/-! ### Header and segment table (R68, Table 2-12) -/

/-- NPROG, NSEG and LENGTH. -/
def imageProgs (b : List Byte) : Nat := natAt b 7 1
def imageSegs (b : List Byte) : Nat := natAt b 8 2
def imageLength (b : List Byte) : Nat := natAt b 16 8

/-- The failing fields of the header: their offsets. -/
def headerBytes (b : List Byte) : List Nat :=
  let c := fun (bad : Bool) (o : Nat) => if bad then [o] else []
  c (b.length < 64 || natAt b 0 4 != 0x4E4C5349) 0 ++ c (natAt b 4 2 != 1) 4 ++ c (1 < natAt b 6 1) 6 ++
  c (imageProgs b == 0 || 8 < imageProgs b) 7 ++ c (imageLength b < 64 + 16 * imageSegs b) 8 ++
  c (((b.take 16).drop 10).any (· != 0)) 10 ++ c (b.length < imageLength b) 16 ++ c (((b.take 64).drop 24).any (· != 0)) 24

/-- A segment-table entry breaks R68, given the entries before it: fields, kind, bounds, overlap, a second segment of a kind that
is single. An empty segment is not held against the segments before it, and a later segment whose bytes enclose its offset
overlaps it: DESIGN CHOICE of log 54, R68 does not say how an empty segment is judged. -/
def segmentBad (b : List Byte) (i : Nat) : Bool :=
  let all := segments b
  match all[i]? with
  | none => true
  | some g =>
    let kind := g.1
    let prog := g.2.1
    let off := g.2.2.1
    let len := g.2.2.2
    let before := all.take i
    natAt b (64 + 16 * i + 2) 2 != 0 || kind == 0 || 8 < kind || imageProgs b ≤ prog || imageLength b < off + len ||
    (len != 0 && (off < 64 + 16 * imageSegs b ||
      before.any fun h => h.2.2.1 < off + len && off < h.2.2.1 + h.2.2.2)) ||
    ((kind == 1 || kind == 8) && before.any fun h => h.1 == kind && h.2.1 == prog) ||
    ((kind == 6 || kind == 7) && (prog != 0 || before.any fun h => h.1 == kind))

/-- A die program has no code segment or no descriptor; NPROG is the field that fails. -/
def programMissing (b : List Byte) : Bool :=
  (List.range (imageProgs b)).any fun p => [1, 8].any fun k => !(segments b).any fun g => g.1 == k && g.2.1 == p

/-- The first failure of the header and the segment table. -/
def tableFailure (b : List Byte) : Option Nat :=
  match headerBytes b with
  | o :: _ => some o
  | [] => match (List.range (imageSegs b)).find? (segmentBad b) with
    | some i => some (64 + 16 * i)
    | none => if programMissing b then some 7 else none

/-! ### Code (R51–R63, Table 2-10) -/

/-- Bits of a bundle's effective mask beyond its PMASK (R54, R63, Table 3-10). -/
def instrExtraMask (i : Instr) : Nat :=
  match i, i.hdr with
  | .ncopy _ _, _ => 2 ^ 14
  | _, some h => if h.kind = 1 then h.cmask * 4 else 0
  | _, none => 0

/-- The group scanned so far: slots decoded, slots with an assigned opcode, masks of its bundles, failures. -/
structure Scan where
  slots : List CodeSlot
  read : List CodeSlot
  /-- classes of its slot words, and its effective mask -/
  words : Nat
  mask : Nat
  fails : List CodeFail

/-- Failures of a bundle header and of the group's shape (R51–R53, R61). A group of more than three bundles is reported at its third
bundle, the one that should have carried STOP: DESIGN CHOICE of log 54, R66 does not say at which. -/
def headerShape (h : Header) (ix : Nat) (lent : Nat) : List Reject :=
  rejectIf (ix != 0 && (h.ck || h.vj)) .groupShape ++ rejectIf (h.pmask == 0 && (ix != 0 || !h.stop)) .groupShape ++
  rejectIf (h.pmask != 0 && h.idle != 0) .mbz ++ rejectIf ((lent < 1 && h.ext0 != 0) || (lent < 2 && h.ext1 != 0)) .mbz ++
  rejectIf (ix == 2 && !h.stop) .imageFormat

/-- Lowest bit of a mask of 16 classes. -/
def lowestClass (m : Nat) : Nat := ((List.range 16).find? fun c => bit c m).getD 15

/-- One bundle of a group: its header, its slot words, the classes that its words need. A class that the die type lacks is a failure
of the header, whose PMASK names it; a word that fails its own checks still names its companion and its CMASK, and takes no part in
the analysis of paths (log 54). -/
def scanBundle (k : DieKind) (hnd : Bool) (off ix : Nat) (b : Bundle) (x : Scan) : Scan :=
  let lent := (b.slots.filter fun s => fieldAt s.word 50 1 == 1).length
  let shape := (headerShape b.header ix lent).map fun r => (⟨off, r, 15⟩ : CodeFail)
  let here := b.slots.filter fun s => classExists k s.cls.toNat
  let kind := if here.length < b.slots.length then [(⟨off, .dieKind, 15⟩ : CodeFail)] else []
  let read := here.filterMap fun s => (readSlot k s.cls s.word s.ext).map fun i => (⟨off, i⟩ : CodeSlot)
  let one := fun (y : List CodeSlot × List CodeFail) (s : SlotWord) =>
    match decodeSlot k hnd s.cls s.word s.ext with
    | .ok i => (y.1 ++ [⟨off, i⟩], y.2)
    | .error r => (y.1, y.2 ++ [⟨off, r, s.cls.toNat⟩])
  let d := here.foldl one ([], [])
  let extra := read.foldl (fun (m : Nat) s => m ||| instrExtraMask s.instr) 0
  let mask := b.header.pmask.toNat ||| extra
  let lap := (mask &&& x.mask) ||| (if bit 14 extra && bit 14 b.header.pmask.toNat then 2 ^ 14 else 0)
  { slots := x.slots ++ d.1, read := x.read ++ read, words := x.words ||| b.header.pmask.toNat, mask := x.mask ||| mask,
    fails := x.fails ++ shape ++ kind ++ d.2 ++ (if lap ≠ 0 then [⟨off, .maskOverlap, lowestClass lap⟩] else []) }

/-- A replicated slot selects a class in which another slot word of the group stands (R63), or two of one bundle select one class.
For the latter R63 names no code and no place: DESIGN CHOICE of log 54, EXTENSION at the slot of the higher class. -/
def replicaFails (pmask : Nat) (slots : List CodeSlot) : List CodeFail :=
  slots.flatMap fun s =>
    let m := match s.instr with | .ncopy _ _ => 0 | i => instrExtraMask i
    let others := pmask &&& (pmask ^^^ (2 ^ s.cls &&& pmask))
    let twice := slots.any fun t => t.bundle == s.bundle && t.cls < s.cls && instrExtraMask t.instr &&& m != 0 &&
      (match t.instr with | .ncopy _ _ => false | _ => true)
    if m &&& others != 0 || (m != 0 && twice) then [⟨s.bundle, .extension, s.cls⟩] else []

/-- The bundles of the group at an offset: the group, its failures, and the words after it; no words where its end is not
found. Code that ends inside a group with no further word is reported at its last whole bundle: DESIGN CHOICE of log 54. -/
def scanGroup (k : DieKind) (hnd : Bool) (start : Nat) :
    Nat → Nat → Nat → Scan → Nat → Option Header → List Word → CodeGroup × List CodeFail × Option (List Word)
  | 0, off, _, x, _, h, _ => ({ off := start, next := off, steps := 1, ck := h.any (·.ck), slots := x.slots, read := x.read }, x.fails, none)
  | n + 1, off, ix, x, last, h, ws =>
    match takeBundle ws with
    | none =>
      ({ off := start, next := off, steps := 1, ck := h.any (·.ck), slots := x.slots, read := x.read },
       x.fails ++ [⟨if ws.isEmpty then last else off, .imageFormat, 15⟩], none)
    | some (b, rest) =>
      let y := scanBundle k hnd off ix b x
      let next := off + 8 * b.size
      let first := h.getD b.header
      if b.header.stop then
        ({ off := start, next := next, ck := first.ck, slots := y.slots, read := y.read,
           steps := if first.pmask = 0 then first.idle.toNat + 1 else 1 },
         y.fails ++ replicaFails y.words y.read, some rest)
      else if ix = 2 then ({ off := start, next := next, steps := 1, ck := first.ck, slots := y.slots, read := y.read }, y.fails, none)
      else scanGroup k hnd start n next (ix + 1) y off (some first) rest

/-- The groups of a code segment, their failures, and the offset from which no group start is known. -/
def scanCode (k : DieKind) (hnd : Bool) : Nat → Nat → List Word → List CodeGroup × List CodeFail × Option Nat
  | 0, _, _ => ([], [], none)
  | n + 1, off, ws =>
    if ws.isEmpty then ([], [], none)
    else
      let r := scanGroup k hnd off 3 off 0 ⟨[], [], 0, 0, []⟩ off none ws
      match r.2.2 with
      | none => ([r.1], r.2.1, some r.1.next)
      | some rest =>
        let t := scanCode k hnd n r.1.next rest
        (r.1 :: t.1, r.2.1 ++ t.2.1, t.2.2)

/-- A plate of the image is a select plate (R207). -/
def isSelect (p : Plate4) : Bool := plateType p == 4

/-- The failures of a group that rest on the rest of the program: branch targets, plates, companions of stores (R125, R184,
R205, R207, Table 3-10). -/
def Program.linkFails (m : Program) (lost : Option Nat) (g : CodeGroup) : List CodeFail :=
  let starts := m.groups.map (·.off)
  let known := fun (t : Int) => starts.any (fun o => (o : Int) == t) || (match lost with | some l => (l : Int) ≤ t | none => false)
  let stores := g.read.filter fun s => s.instr.storeSteps.isSome
  let comps := g.read.filter fun s => match s.instr with | .nwrTile _ _ => true | _ => false
  g.slots.flatMap fun s =>
    let fail := fun (c : Bool) (r : Reject) => if c then [(⟨s.bundle, r, s.cls⟩ : CodeFail)] else []
    let target := match s.instr.flow with
      | .toEnd o | .either o | .loop o => !known (g.off + o)
      | _ => false
    let plates := s.instr.networkPlates.any fun n => match m.plate? n with | some p => isSelect p | none => true
    let sel := match s.instr.selectPlate? with
      | none => []
      | some n => match m.plate? n with
        | none => fail true .plate
        | some p => fail (!isSelect p) .plate ++ fail (isSelect p && s.instr.needs32 && plateByte1 p != 32) .reservedValue
    let isStore := s.instr.storeSteps.isSome
    let isComp := match s.instr with | .nwrTile _ _ => true | _ => false
    fail target .target ++ fail plates .plate ++ sel ++
    fail ((isStore && comps.isEmpty) || (isComp && stores.length != 1)) .reservedValue

/-! ### The image -/

/-- Everything that the checks of one program need. -/
structure Judged where
  prog : Nat
  pgm : Program
  fails : List Failure

/-- One die program: its scan, its links, its paths, its regions, its entry. Without a valid KIND or descriptor length the die type
is not known: DESIGN CHOICE of log 54, its code and records are then not checked, and the descriptor's failure is reported. -/
def judgeProgram (b : List Byte) (prog : Nat) : Option Judged :=
  let segs := segments b
  let d := descriptor (segmentOf b 8 prog)
  let at_ := fun (k : Nat) => (segs.findIdx? fun g => g.1 == k && g.2.1 == prog).getD 0
  d.kind.map fun k =>
    let code := segmentOf b 1 prog
    let hnd := bit 0 (natAt b 6 1)
    let ws := wordsOfBytes (code.length / 8) code
    let sc := scanCode k hnd (ws.length + 1) 0 ws
    let plates := (segmentsOf b 2 prog).flatMap fun bs => (plateRecords k (bs.length + 1) 0 none bs).1
    let m : Program := { kind := k, groups := sc.1, entry := d.entry, plates := plates, rbase := d.rbase, rlimit := d.rlimit, fg := !hnd }
    let tail := if code.length % 8 = 0 then [] else [(⟨code.length / 8 * 8, .imageFormat, 15⟩ : CodeFail)]
    let fails := sc.2.1 ++ tail ++ m.groups.flatMap (m.linkFails sc.2.2) ++ m.pathFails ++ m.longRegions
    let entry := !(m.groups.any fun g => g.off == d.entry) && !(sc.2.2.any fun l => l ≤ d.entry)
    { prog := prog, pgm := m,
      fails := fails.map (fun f => (⟨at_ 1, f.off, f.why, f.slot, prog⟩ : Failure)) ++
        (if entry then [⟨at_ 8, 0, .target, 15, prog⟩] else []) }

/-- The failures of the records of a segment that is no code; `before` are the plate segments of its program that stand before
it. -/
def judgeRecords (all : List Descriptor) (before : List (List Byte)) (kind prog : Nat) (bs : List Byte) : List RecFail :=
  let d := all.getD prog { kind := none, pair := none, entry := 0, rbase := 0, rlimit := 0 }
  let n := bs.length + 1
  match kind, d.kind with
  | 8, _ => badAt (descriptorBad all prog bs) 0
  | 6, _ => timetableFails all bs
  | 7, _ => liveFails all n 0 bs
  | 2, some k =>
    let read := fun (bs : List Byte) => plateRecords k (bs.length + 1) 0 none bs
    (read bs).2 ++ repeatedPlates k (before.flatMap fun bs => (read bs).1.map (·.1)) (read bs).1
  | 3, some _ => loadFails 28 d.rbase d.rlimit n 0 bs
  | 4, some _ => loadFails 24 0 0x1000000 n 0 bs
  | 5, some _ => stencilFails d.rbase d.rlimit n 0 bs
  | _, _ => []

/-- The programs of an image, judged. -/
def judgedPrograms (b : List Byte) : List Judged := (List.range (imageProgs b)).filterMap (judgeProgram b)

/-- The outcome of the checks: the failure reported, or the duplicate maps of the programs (R66, R67). -/
def proofImage (b : List Byte) : Except Failure (List (Nat × Nat × Nat × Nat × Nat)) :=
  match tableFailure b with
  | some o => .error ⟨0, o, .imageFormat, 15, 0⟩
  | none =>
    let all := (List.range (imageProgs b)).map fun p => descriptor (segmentOf b 8 p)
    let records := ((segments b).mapIdx fun i g => (i, g)).flatMap fun p =>
      let before := (((segments b).take p.1).filter fun g => g.1 == 2 && g.2.1 == p.2.2.1).map fun g => (b.drop g.2.2.1).take g.2.2.2
      (judgeRecords all before p.2.1 p.2.2.1 ((b.drop p.2.2.2.1).take p.2.2.2.2)).map fun f =>
        (⟨p.1, f.1, f.2, 15, p.2.2.1⟩ : Failure)
    let js := judgedPrograms b
    match firstFailure (records ++ js.flatMap (·.fails)) with
    | some f => .error f
    | none => .ok (js.flatMap fun j => j.pgm.dupMaps.map fun m => (j.prog, m))

/-- The bytes that are sealed: up to the end of the last segment (R67). -/
def sealedBytes (b : List Byte) : List Byte :=
  b.take ((segments b).foldl (fun (n : Nat) g => max n (g.2.2.1 + g.2.2.2)) (64 + 16 * imageSegs b))

/-! ### Submission and result (R368) -/

/-- Bytes of the sealed-image area (Table 14-5). -/
def sealedArea : Nat := 2 ^ 31

/-- PROOFING_SUBMIT (R368): a write of PSUBL: OVR while busy; otherwise the source is read and its proofing begins. -/
def execProofingSubmit (v : Word) (s : State) : Res :=
  if s.pstat.getLsbD 0 then .next { s with pstat := s.pstat ||| 2 }
  else
    let a := s.psuba.toNat
    let n := v.toNat
    let src := if !physOk a n ∨ 2 ^ 30 < n ∨ n % 8 ≠ 0 then none else s.physRead a n
    let k := Config.freeNat s.free
    .next ({ s with psubl := v, pstat := s.pstat ||| 1, proofing := src, free := s.free + 1 }.schedule (s.now + 1 + k) phEnd
      (.ev .proofingDone))

/-- The result stands in PRES, BUSY is clear, and vector 1 is sent. -/
def State.proofed (s : State) (r : Word) : State :=
  { s with pres64 := r, pstat := s.pstat &&& 2, proofing := none }.msix (some 1)

/-- PROOFING_DONE (R66, R67, R368): the failure reported, or the image sealed under a new handle. -/
def execProofingDone (s : State) : Res :=
  if !s.pstat.getLsbD 0 then .next s
  else match s.proofing with
    | none => .next (s.proofed (⟨0, 0, .source, 15, 0⟩ : Failure).word)
    | some b => match proofImage b with
      | .error f => .next (s.proofed f.word)
      | .ok maps =>
        let body := sealedBytes b
        if sealedArea < (s.images.map fun (i : Image) => i.bytes.length).sum + body.length then
          .next (s.proofed (⟨0, 0, .sealSpace, 15, 0⟩ : Failure).word)
        else
          let h := s.nextId
          let img : Image := { handle := h, bytes := body, digest := BitVec.ofNat 512 (natOfBytes (shake256 body 64)), dupMaps := maps }
          .next ({ s with nextId := s.nextId + 1, images := s.images ++ [img] }.proofed (sealedWord h))

end Sys2Proof.Machine
end

