-- ==== Sys2Proof/Machine/Sequencer.lean ====
section
/-!
DEFINITION. How the package advances (11 R300, R301, R308; 01 R34, R38, R40, R41; log 1): the choices of each die's sequencer,
the issue of a group slot by slot, holds and idle steps, the landings of a count, and what happens in every count. `ex` is the
meaning of an instruction.
-/

namespace Sys2Proof.Machine

/-- The meaning of an instruction, as the dispatcher gives it. -/
abbrev Meaning := Instr → State → Res

/-- One outcome after another. -/
def andThen (r : Res) (f : State → Res) : Res :=
  match r with
  | .next s => f s
  | .fault e => .fault e
  | .refused e => .refused e

/-! ### Groups as they are fetched (R51–R54) -/

/-- Bits of a slot in the effective mask: its class, the clusters of a replicated slot, NW for an NCOPY (R54, R63,
Table 3-10). -/
def slotMask (d : Nat) (w : SlotWord) : Nat :=
  2 ^ w.cls.toNat |||
  (match slotInstr d w with
   | some (.ncopy _ _) => 2 ^ 14
   | some i => match i.hdr with
     | some h => if d < 4 ∧ 2 ≤ w.cls.toNat ∧ w.cls.toNat ≤ 9 then (h.clusters.map fun c => 2 ^ (c + 2)).foldl (· ||| ·) 0 else 0
     | none => 0
   | none => 0)

/-- The effective mask of a group; an idle group's is empty (R54). -/
def groupMask (d : Nat) (ws : List SlotWord) : Nat := (ws.map (slotMask d)).foldl (· ||| ·) 0

/-- A FENCE whose guard holds joins the views of its group (R268, R57). -/
def State.joins (s : State) (d c : Nat) (ws : List SlotWord) : Bool :=
  ws.any fun w => match slotInstr d w with
    | some (.fence h _) => (s.ctx d c).arch.qreg h.g.toNat != h.gn
    | _ => false

/-- A group holds an EXIT or EXITS. -/
def endsRegion (d : Nat) (ws : List SlotWord) : Bool :=
  ws.any fun w => match slotInstr d w with
    | some (.exit _ _) => true
    | some (.exits _ _) => true
    | _ => false

/-! ### Promises at a bundle (R41, R229) -/

/-- A miss of a promise as a trap. -/
def Req.missTrap (r : Req) : Trap := { code := Cause.timing, info := r.missInfo, cls := r.cls, clus := none }

/-- What missed and poisoned promises do to the bundle of a count: traps, and whether the bundle holds. -/
def Ctx.promiseCheck (x : Ctx) (b : Nat) : List Trap × Bool :=
  let past := x.reqs.filter fun r => pastStep b r.pstep
  let open_ := past.any fun r => r.missed b
  if x.arch.guarded then (past.filterMap (·.poison), open_)
  else ((past.filter fun r => !r.late).filterMap (·.poison) ++ (past.filter fun r => r.late || r.missed b).map Req.missTrap, false)

/-- A checkpoint group or EXIT under a pending transfer. -/
def Req.pendingTrap (r : Req) : Trap := { code := Cause.timing, info := 6, cls := r.cls, clus := none }

/-- What transfers do to a checkpoint group, EXIT or EXITS (R229); scatter pushes that have not performed hold it (R309). -/
def Ctx.endCheck (x : Ctx) : List Trap × Bool :=
  let open_ := x.reqs.filter fun r => !r.ended
  (x.reqs.filterMap (·.poison) ++ (if x.arch.guarded then [] else open_.map Req.pendingTrap),
   (x.arch.guarded && !open_.isEmpty) || !x.arch.scatIdle)

/-! ### Steps of a context (R34) -/

/-- A step that issues nothing. -/
def State.idleStep (s : State) (d c : Nat) : State := s.modCtx d c fun x => { x with stepped := true, held := 0 }

/-- A held context counts the cycle; 65,536 of them are too many (R40). -/
def State.holdStep (s : State) (d c : Nat) : State :=
  let s := s.modCtx d c fun x => { x with held := x.held + 1 }
  let s := (if c = 0 then { s with fgHeld := true } else s).perfEvent d 0x05 (some c) 1
  if Config.holdLimit ≤ (s.ctx d c).held then s.soon (.ev (.holdOverrun d c)) else s

/-- INSERTED_IDLE_STEP (R301). -/
def execInsertedIdleStep (d c : Nat) (s : State) : Res :=
  .next (((s.idleStep d c).modCtx d c fun x => { x with nonEmpty := 0 }).perfEvent d 0x03 (some c) 1)

/-- HOLD_RELEASE (R128): the held group issues. -/
def execHoldRelease (d c : Nat) (s : State) : Res := .next (s.modCtx d c fun x => { x with held := 0 })

/-- HOLD_OVERRUN (R40). -/
def execHoldOverrun (d c : Nat) (s : State) : Res :=
  .next (s.takeOne d c Cause.regionOverrun (s.ctx d c).regionSteps 0)

/-- REGION_OVERRUN (R307). -/
def execRegionOverrun (d c : Nat) (s : State) : Res :=
  .next (s.takeOne d c Cause.regionOverrun (s.ctx d c).regionSteps 0)

/-- IDLE_BUNDLE (R53): the first of its n + 1 steps; the others follow it. -/
def execIdleBundle (n : BitVec 5) (_ck _vj : Bool) (s : State) : Res :=
  .next { s with issue := { s.issue with idle := some n.toNat } }

/-! ### Issue -/

/-- A group is presented: what the slots read from the start of the step, and the promises checked (R41, R229). -/
def State.beginGroup (s : State) (d c : Nat) (g : Group) : State :=
  let x := s.ctx d c
  let ends := g.ck && !x.committed
  let s := if ends && !x.arch.scatIdle then s.closeWindows d c else s
  let p := x.promiseCheck s.bel
  let e := if ends then x.endCheck else ([], false)
  { s with issue :=
    { die := d, ctx := c, pc := x.arch.pc, size := g.size, ck := g.ck, vj := g.vj || s.joins d c g.slots, acts := [],
      traps := p.1 ++ e.1, hold := p.2 || e.2, tileWait := false, idle := none, emask := groupMask d g.slots,
      seed := x.arch.seed, branch := none } }

/-- The slots of the group at a context's PC, in order. -/
def State.slotMicros (s : State) (d c : Nat) (g : Group) : List Micro :=
  match g.idle with
  | some n => [.ev (.idleBundle n g.ck g.vj)]
  | none => (s.slotsAt d c).map fun p => .slot p.2.cls p.1 p.2.ext

/-- The group at a context's PC starts. -/
def State.startGroup (s : State) (d c : Nat) (g : Group) : State :=
  (s.beginGroup d c g).soonAll (s.slotMicros d c g ++ [.commit])

/-- A slot word is fetched from the sealed image, decoded and executed. -/
def runSlot (ex : Meaning) (cls : BitVec 4) (off : Nat) (ext : Option (BitVec 20)) (s : State) : Res :=
  match (s.code s.issue.die s.issue.ctx)[off]? with
  | none => .fault .notSealedCode
  | some w =>
    match slotInstr s.issue.die { cls := cls, word := w, ext := ext } with
    | some i => ex i s
    | none => .fault .notSealedCode

/-- An effect ends the context. -/
def Act.isExit : Act → Bool
  | .exit _ => true
  | _ => false

/-- TRACE left columns over (R371). -/
def traceRemains (acts : List (Nat × Nat × Act)) : Bool :=
  acts.any fun a => match a.2.2 with
    | .q 7 true => acts.any fun b => b.2.1 == a.2.1 && match b.2.2 with | .lp _ _ => true | _ => false
    | _ => false

/-- The group in progress issues as one step: its effects enter the landing buffer (R35). -/
def State.issueGroup (s : State) : State :=
  let i := s.issue
  let d := i.die
  let c := i.ctx
  let gs := s.gangStep
  let x := s.ctx d c
  let s := if x.held ≠ 0 then s.soon (.ev (.holdRelease d c)) else s
  let s := if i.idle.isSome then s else s.perfEvent d 0x02 (some c) 1
  let s := if traceRemains i.acts then s.perfEvent d 0x08 (some c) 1 else s
  let s := if c = 1 then s else { s with mask := i.emask }
  let news := i.acts.map fun a => ({ act := a.2.2, rem := a.1, cls := a.2.1, born := x.steps, gstep := gs } : Landing)
  s.modCtx d c fun x => Ctx.prune
    { x with
      arch := { x.arch with pc := i.branch.getD (i.pc + BitVec.ofNat 64 (8 * i.size)), seed := i.seed,
                            landing := x.arch.landing ++ news }
      stepped := true
      idleLeft := i.idle.getD 0
      nonEmpty := if i.idle.isSome then 0 else x.nonEmpty + 1
      committed := false
      atResync := none
      resynced := none
      unjoined := if i.vj then [] else x.unjoined } s.bel

/-- The end of a group's slots: it holds, waits for a tile, traps, or issues. A background checkpoint group commits first
(R308, R309). -/
def State.endGroup (s : State) : State :=
  let i := s.issue
  let d := i.die
  let c := i.ctx
  let x := s.ctx d c
  let exits := i.acts.any fun a => a.2.2.isExit
  let e := if exits then x.endCheck else ([], false)
  if i.hold || e.2 then (if exits then s.closeWindows d c else s).holdStep d c
  else if i.tileWait then s.idleStep d c
  else
    let ts := i.traps ++ e.1
    if !ts.isEmpty then (if c = 1 then s else { s with mask := i.emask }).takeTrap d c ts
    else if i.ck && !x.committed && c != 2 then
      let rerun := match s.gangOf d c with | some g => g.rerun | none => 0
      s.soonAll [.ev (if rerun = 0 then .checkpointCommit x.gang else .rerunCheckpoint x.gang), .background d]
    else s.issueGroup

/-! ### The choices of a sequencer (R300, R301) -/

/-- A step would be the 65,537th of a region, and presents no checkpoint group, EXIT or EXITS (R307). -/
def State.overruns (s : State) (d c : Nat) (g : Option Group) : Bool :=
  let x := s.ctx d c
  c != 2 && Config.regionLimit ≤ x.regionSteps && !(x.idleLeft == 0 && match g with
    | some g => (g.ck && !x.committed) || endsRegion d g.slots
    | none => false)

/-- The next step of an idle bundle under way. -/
def State.idleOn (s : State) (d c : Nat) : State :=
  (s.idleStep d c).modCtx d c fun x => { x with idleLeft := x.idleLeft - 1, nonEmpty := 0 }

/-- Tile operations and results of an exited context run on (R135). -/
def State.draining (s : State) (d c : Nat) : Bool :=
  let x := s.ctx d c
  !x.arch.landing.isEmpty || (4 ≤ d && (List.range 4).any fun g => x.groups.getLsbD g &&
    (tget (s.die d).groups g default).bits.toList.any (·.busy))

/-- The foreground context's part of a cycle. -/
def State.front (s : State) (d : Nat) : Res :=
  let x := s.ctx d 0
  match x.run with
  | .absent => .next s
  | .stopped => .next s
  | .exited => .next (if s.draining d 0 then s.idleStep d 0 else s)
  | .running =>
    let g := s.groupAt d 0
    if s.overruns d 0 g then .next (s.soon (.ev (.regionOverrun d 0)))
    else if x.idleLeft ≠ 0 then .next (s.idleOn d 0)
    else if Config.idleInsertion ≤ x.nonEmpty then .next (s.soon (.ev (.insertedIdleStep d 0)))
    else match g with
      | none => .fault .notSealedCode
      | some g => .next (if g.ck && !x.committed then s.holdStep d 0 else s.startGroup d 0 g)

/-- The handler context's part of a cycle: where FG is held or its group is empty (R300). -/
def State.handlerTurn (s : State) (d : Nat) : Res :=
  let x := s.ctx d 2
  if x.run ≠ .running ∨ !(s.fgHeld || s.mask == 0) then .next s
  else if x.idleLeft ≠ 0 then .next (s.idleOn d 2)
  else match s.groupAt d 2 with
    | none => .fault .notSealedCode
    | some g => .next (s.startGroup d 2 g)

/-- The background context's part of a cycle: its group issues where its mask meets no other (R300). -/
def State.back (s : State) (d : Nat) : Res :=
  let x := s.ctx d 1
  match x.run with
  | .absent => .next s
  | .stopped => .next s
  | .exited => .next (if s.draining d 1 then s.idleStep d 1 else s)
  | .running =>
    let g := s.groupAt d 1
    if s.overruns d 1 g then .next (s.soon (.ev (.regionOverrun d 1)))
    else if x.idleLeft ≠ 0 then .next (s.idleOn d 1)
    else match g with
      | none => .fault .notSealedCode
      | some g =>
        if groupMask d g.slots &&& s.mask ≠ 0 then
          let s := s.perfEvent d 0x04 (some 1) 1
          .next (if x.held ≠ 0 then s.holdStep d 1 else s)
        else .next (s.startGroup d 1 g)

/-- SEQUENCER_CYCLE (R300): the foreground's choice; the handler's and the background's follow it. -/
def execSequencerCycle (d : Nat) (s : State) : Res :=
  State.front ({ s with mask := 0, fgHeld := false }.soonAll [.handler d, .background d]) d

/-! ### Presentation of a gang checkpoint (R308, R309) -/

/-- The slots of a group executed one after another. -/
def runSlots (ex : Meaning) : List Micro → State → Res
  | [], s => .next s
  | .slot cls off ext :: ms, s => andThen (runSlot ex cls off ext s) fun s => runSlots ex ms s
  | .ev i :: ms, s => andThen (ex i s) fun s => runSlots ex ms s
  | _ :: ms, s => runSlots ex ms s

/-- The checkpoint groups of members are tried: whether one holds, and the traps of each. -/
def probeMembers (ex : Meaning) : List Member → State → Res × List (Member × List Trap) × Bool
  | [], s => (.next s, [], false)
  | m :: ms, s =>
    match s.groupAt m.die m.ctx with
    | none => (.fault .notSealedCode, [], false)
    | some g =>
      match runSlots ex (s.slotMicros m.die m.ctx g) (s.beginGroup m.die m.ctx g) with
      | .next s' =>
        let r := probeMembers ex ms s'
        (r.1, (m, s'.issue.traps) :: r.2.1, s'.issue.hold || r.2.2)
      | .fault e => (.fault e, [], false)
      | .refused e => (.refused e, [], false)

/-- A gang of which no member is here, on the package whose dispatcher placed it: its members elsewhere commit at free counts
(log 35). -/
def State.commitElsewhere (s : State) (g : Gang) : State :=
  let s' := { s with free := s.free + 1 }
  if Config.freeBool s.free then (s'.modGang g.id fun x => { x with tries := 0 }).asyncRequests g.id else s'

/-- A gang all of whose members stand at a checkpoint group: it holds, rolls back, or commits in this count. The count at
which members on other packages have presented is a free choice (log 35). -/
def presentGang (ex : Meaning) (gid : Nat) (s : State) : Res :=
  match s.gang? gid with
  | none => .next s
  | some g =>
    let ms := s.liveMembers g
    if g.state ≠ .running ∨ g.bg ∨ (ms.isEmpty ∧ !g.members.isEmpty) ∨ !(ms.all s.atCk) then .next s
    else if g.members.isEmpty then .next (s.commitElsewhere g)
    else
      let p := probeMembers ex ms s
      andThen p.1 fun s =>
        if p.2.2 then .next s
        else if p.2.1.any fun x => !x.2.isEmpty then
          .next (p.2.1.foldl (fun s x => s.takeTrap x.1.die x.1.ctx x.2) s)
        else if g.others ≠ 0 ∧ !Config.freeBool s.free then .next { s with free := s.free + 1 }
        else .next (s.soon (.ev (if g.rerun = 0 then .checkpointCommit gid else .rerunCheckpoint gid)))

/-- All gangs in turn. -/
def presentAll (ex : Meaning) : List Nat → State → Res
  | [], s => .next s
  | g :: gs, s => andThen (presentGang ex g s) fun s => presentAll ex gs s

/-! ### RESYNC (R257) -/

/-- All members of a gang hold at a RESYNC: the release is set, or members that name different steps end the gang. -/
def State.resyncCheck (s : State) (g : Gang) : State :=
  let gs := g.members.map fun m => (s.ctx m.die m.ctx).atResync
  if g.state ≠ .running ∨ g.bg ∨ g.resumeAt.isSome ∨ g.members.isEmpty ∨ gs.any Option.isNone then s
  else
    let vs := gs.map fun v => v.getD 0
    let first := vs.headD 0
    match g.members.find? fun m => (s.ctx m.die m.ctx).atResync != some first with
    | some m => s.abortByTrap g m.die m.ctx { code := Cause.resyncMismatch, info := m.ix, cls := 0, clus := none }
    | none =>
      if g.others ≠ 0 ∧ !Config.freeBool s.free then { s with free := s.free + 1 }
      else
        let at_ := leastCongruent (s.bel + g.delta) ((g.gbase + first.toNat) % 2 ^ 64) g.tp
        (s.modGang g.id fun x => { x with resumeAt := some at_ }).scheduleBel at_ phStart (.ev (.resyncRelease g.id))

/-- RESYNC_RELEASE (R257): GBASE becomes C − G, and every member issues, landing the periods added. -/
def execResyncRelease (gid : Nat) (s : State) : Res :=
  match s.gang? gid with
  | none => .next s
  | some g =>
    if g.state ≠ .running ∨ g.resumeAt ≠ some s.bel then .next s
    else
      let step := ((g.members.map fun m => (s.ctx m.die m.ctx).atResync.getD 0).headD 0).toNat
      let gb : Nat := (s.bel + 2 ^ 64 - step % 2 ^ 64) % 2 ^ 64
      let m : Int := ((gb : Int) - (g.gbase : Int)) / (g.tp : Int)
      let s := s.eachMember g fun s y => s.modCtx y.die y.ctx fun x =>
        { x with resynced := some (wordOfInt m), arch := { x.arch with gbase := BitVec.ofNat 64 gb } }
      .next (s.modGang gid fun x =>
        { x with gbase := gb, resumeAt := none,
                 carried := shiftCarried x.carried ((gb + 2 ^ 64 - x.gbase) % 2 ^ 64 / 64) ((s.bel + 2 ^ 64 - x.gbase) % 2 ^ 64 / 64) })

/-! ### Every count -/

/-- A gang that rolls back: members stop within their delays; the restore follows the bound (R315). -/
def State.rollbackSweep (s : State) (g : Gang) : State :=
  if g.state ≠ .rollback then s
  else
    let s := (s.liveMembers g).foldl (fun s m => match m.stopAt with
      | some b => if b ≤ s.bel then s.modCtx m.die m.ctx fun x => if x.run = .running then { x with run := .stopped } else x else s
      | none => s) s
    if s.bel = g.faultAt + g.stopBound then s.schedule (s.now + 1) phStart (.restore g.id) else s

/-- A running gang that spans packages may meet the fault of a member elsewhere in any count (log 35). -/
def State.remoteSweep (s : State) (g : Gang) : State :=
  if g.others = 0 ∨ g.state ≠ .running ∨ s.bel < g.startAt then s
  else if Config.freeNat s.free = 1 then { s with free := s.free + 1 }.remoteFault g
  else { s with free := s.free + 1 }

/-- Whether the members of a gang on other packages have come as far: a free choice in each count (log 35). -/
def State.othersReady (s : State) (g : Gang) : Bool × State :=
  if g.others = 0 then (true, s) else (Config.freeBool s.free, { s with free := s.free + 1 })

/-- A pre-empted gang saves once none of its members has a DQ entry in WAIT (R326). -/
def State.preemptSweep (s : State) (g : Gang) : State :=
  if g.state = .preempting ∧ (g.members.all fun m => (s.ctx m.die m.ctx).arch.dq.all fun e => e.status != .wait) then
    s.soon (.ev (.preemptSave g.id))
  else s

/-- Timed frames of a gang wait on an identity. -/
def State.hasQueued (s : State) (g : Nat) : Bool :=
  s.lanterns.toList.any fun l => l.txq.any fun x => x.timed && x.seq.isNone && x.run.any fun r => r.1 == g

/-- Writes of an exited context's last group are still to be made: by the transfers, claims and atomics that it started, by its
scatter pushes, by frames landing in its bank (R135). -/
def State.writesOut (s : State) (d c : Nat) : Bool :=
  let x := s.ctx d c
  (x.reqs.any fun r => !r.ended && match r.kind with | .ldh .. => false | _ => true) || !x.arch.scatIdle || !x.takes.isEmpty ||
  !x.deferred.isEmpty || !x.deferScat.isEmpty

/-- A gang whose members have all exited drains, and ends once every released write has performed and every result and tile
operation has landed (R135, R304). -/
def State.endSweep (s : State) (g : Gang) : State :=
  let done := (!g.members.isEmpty || g.others != 0) && g.members.all fun m => (s.ctx m.die m.ctx).run == .exited
  if (g.state = .running ∨ g.state = .draining) ∧ done then
    let (all, s) := s.othersReady g
    if g.state = .running ∧ !all then s
    else
      let s := s.modGang g.id fun x => { x with state := .draining }
      if (s.pendings.any fun p => p.gang == g.id) || (g.members.any fun m => s.draining m.die m.ctx || s.writesOut m.die m.ctx) ||
          (s.sends.any fun y => y.gang == g.id) || s.hasQueued g.id || !all then s
      else s.soon (.ev (.gangEnd g.id))
  else s

/-- Array groups that no context owns grow cold (R298). -/
def State.powerSweep (s : State) : State :=
  (List.range 4).foldl (fun s i =>
    let d := i + 4
    (List.range 4).foldl (fun s g =>
      let y := tget (s.die d).groups g default
      if !y.powered then s
      else if s.ownsGroup d g then (if y.unowned = 0 then s else s.modGroup d g fun y => { y with unowned := 0 })
      else
        let s := s.modGroup d g fun y => { y with unowned := y.unowned + 1 }
        if Config.powerDownCounts ≤ y.unowned + 1 then s.soon (.ev (.groupPowerDown d g)) else s) s) s

/-- What happens in every count after its landings. -/
def State.sweep (s : State) : State :=
  let s := s.runEdges
  let s := s.gangs.foldl (fun s g => (((s.remoteSweep g).rollbackSweep g).resyncCheck g).preemptSweep g) s
  (s.gangs.foldl State.endSweep s).powerSweep

/-- Single-bit corrections of a die in a count, where a counter wants them: as many as the world makes (R371, log 4). -/
def State.corrections (s : State) (d : Nat) : State :=
  if s.perfWants d 0x0B then ({ s with free := s.free + 1 } : State).perfEvent d 0x0B none (Config.freeNat s.free) else s

/-- The count ends. -/
def State.tick (s : State) : State :=
  let s := (List.range 10).foldl (fun s d => (s.perfEvent d 0x01 none 1).corrections d) s
  { s with now := s.now + 1, belfry := if s.belfryOn then s.belfry + 1 else s.belfry }

/-- What a count consists of: what happens at its start, the start of a slot, what the Lanterns send, and the rest; the
dispatcher's rounds take 256 counts each (R287), and firmware's windows 65,536 (R370). -/
def State.planCount (s : State) : State :=
  { s with agenda :=
    [.phase phStart] ++ (if s.bel % 64 = 0 && s.belfryOn then [.slots] else []) ++
    [.transmit, .present, .issue, .phase phHbm, .phase phEdge, .land, .phase phPromise, .phase phEnd, .sweep] ++
    (if s.bel % 256 = 0 && s.belfryOn then [.ev .launchRound] else []) ++
    (if s.now % 65536 = 0 && s.stage == 3 then [.window] else []) ++ [.tick] }

/-- The dated events of a phase that are due. -/
def State.runPhase (s : State) (p : Nat) : State :=
  let due := s.calendar.filter fun (e : Dated) => e.at_ ≤ s.now && e.phase == p
  if due.isEmpty then s
  else { s with calendar := s.calendar.filter fun (e : Dated) => !(e.at_ ≤ s.now && e.phase == p) }.soonAll
    ((due.map fun (e : Dated) => e.what) ++ [Micro.phase p])

/-- The sequencers of the dies that issue. -/
def State.issueAll (s : State) : State :=
  s.soonAll (((List.range 8).filter fun d => s.diePresent d && !s.retired.getLsbD d).map fun d => .ev (.sequencerCycle d))

/-- The contexts that stepped in this count. -/
def State.steppedAll (s : State) : State :=
  s.soonAll ((List.range 8).flatMap fun d =>
    ((List.range 3).filter fun c => (s.ctx d c).stepped).map fun c => .ev (.resultLanding d c))

/-- One thing to do is done. -/
def runMicro (ex : Meaning) (m : Micro) (s : State) : Res :=
  match m with
  | .ev i => ex i s
  | .slot cls off ext => runSlot ex cls off ext s
  | .commit => .next s.endGroup
  | .handler d => s.handlerTurn d
  | .background d => s.back d
  | .present => presentAll ex (s.gangs.map (·.id)) s
  | .issue => .next s.issueAll
  | .land => .next s.steppedAll
  | .phase p => .next (s.runPhase p)
  | .read d c id => .next (s.readReq d c id)
  | .done d c id => .next (s.doneReq d c id)
  | .elem d c id g => .next (s.readElem d c id g)
  | .gran d c id k => .next (s.readGran d c id k)
  | .launch d c id => .next (s.relaunch d c id)
  | .scalar n k => .next (s.serveScalar n k)
  | .rows f got => .next (s.serveRows f got)
  | .flits f i => .next (s.writeFlits f i (f.dataFlits - i))
  | .frame id k => .next (s.readFrame id k)
  | .source id a => .next (s.readSource id a)
  | .share id q n t => .next (s.shareOwn id q n t)
  | .frameStep id r n => .next (s.frameStep id r n)
  | .slots => .next s.slotStart
  | .transmit => .next s.transmit
  | .epoch v => execEpochArrival v 0 s
  | .window => execTelemetryWindow (s.freeMeasures).1 (s.freeMeasures).2
  | .detect i => .next (s.detectFault i)
  | .restore g => .next (s.restoreGang g)
  | .release d c => .next (s.release d c)
  | .hostNext => .next s.hostNext
  | .vector v => .next (s.msix (some v))
  | .clear n => .next (s.clearAll n)
  | .sweep => .next s.sweep
  | .tick => .next s.tick

/-- One step of the package: the next thing to do of the count, or the plan of a new count (log 1). -/
def advance (ex : Meaning) (s : State) : Res :=
  match s.agenda with
  | [] => .next s.planCount
  | m :: ms => runMicro ex m { s with agenda := ms }

end Sys2Proof.Machine
end

