-- ==== Sys2Proof/Machine/Dispatch.lean ====
section
/-!
DEFINITION. The meaning of each constructor of Instr: one direct call for each arm.
-/

namespace Sys2Proof.Machine

def exec (i : Instr) (s : State) : Host.Outcome State Fault Refusal :=
  match i with
  | .add h o => Sys2Proof.Machine.execAdd h o s
  | .sub h o => Sys2Proof.Machine.execSub h o s
  | .addi h o => Sys2Proof.Machine.execAddi h o s
  | .li h o => Sys2Proof.Machine.execLi h o s
  | .lih h o => Sys2Proof.Machine.execLih h o s
  | .sel h o => Sys2Proof.Machine.execSel h o s
  | .min h o => Sys2Proof.Machine.execMin h o s
  | .max h o => Sys2Proof.Machine.execMax h o s
  | .minn h o => Sys2Proof.Machine.execMinn h o s
  | .maxn h o => Sys2Proof.Machine.execMaxn h o s
  | .cmp h o => Sys2Proof.Machine.execCmp h o s
  | .and h o => Sys2Proof.Machine.execAnd h o s
  | .or h o => Sys2Proof.Machine.execOr h o s
  | .xor h o => Sys2Proof.Machine.execXor h o s
  | .andn h o => Sys2Proof.Machine.execAndn h o s
  | .orn h o => Sys2Proof.Machine.execOrn h o s
  | .shl h o => Sys2Proof.Machine.execShl h o s
  | .shr h o => Sys2Proof.Machine.execShr h o s
  | .shra h o => Sys2Proof.Machine.execShra h o s
  | .rotl h o => Sys2Proof.Machine.execRotl h o s
  | .clz h o => Sys2Proof.Machine.execClz h o s
  | .popc h o => Sys2Proof.Machine.execPopc h o s
  | .bfx h o => Sys2Proof.Machine.execBfx h o s
  | .bfi h o => Sys2Proof.Machine.execBfi h o s
  | .mul h o => Sys2Proof.Machine.execMul h o s
  | .mulh h o => Sys2Proof.Machine.execMulh h o s
  | .mulhn h o => Sys2Proof.Machine.execMulhn h o s
  | .madd h o => Sys2Proof.Machine.execMadd h o s
  | .divs h o => Sys2Proof.Machine.execDivs h o s
  | .divn h o => Sys2Proof.Machine.execDivn h o s
  | .rems h o => Sys2Proof.Machine.execRems h o s
  | .remn h o => Sys2Proof.Machine.execRemn h o s
  | .fadd h o => Sys2Proof.Machine.execFadd h o s
  | .fmul h o => Sys2Proof.Machine.execFmul h o s
  | .fma h o => Sys2Proof.Machine.execFma h o s
  | .fdiv h o => Sys2Proof.Machine.execFdiv h o s
  | .fcvt h o => Sys2Proof.Machine.execFcvt h o s
  | .fcmp h o => Sys2Proof.Machine.execFcmp h o s
  | .lds h o => Sys2Proof.Machine.execLds h o s
  | .sts h o => Sys2Proof.Machine.execSts h o s
  | .ldh h o => Sys2Proof.Machine.execLdh h o s
  | .sth h o => Sys2Proof.Machine.execSth h o s
  | .aadd h o => Sys2Proof.Machine.execAadd h o s
  | .ainc h o => Sys2Proof.Machine.execAinc h o s
  | .acas h o => Sys2Proof.Machine.execAcas h o s
  | .axchg h o => Sys2Proof.Machine.execAxchg h o s
  | .br h o => Sys2Proof.Machine.execBr h o s
  | .brc h o => Sys2Proof.Machine.execBrc h o s
  | .call h o => Sys2Proof.Machine.execCall h o s
  | .ret h o => Sys2Proof.Machine.execRet h o s
  | .jmpi h o => Sys2Proof.Machine.execJmpi h o s
  | .loop h o => Sys2Proof.Machine.execLoop h o s
  | .waitt h o => Sys2Proof.Machine.execWaitt h o s
  | .waitb h o => Sys2Proof.Machine.execWaitb h o s
  | .exit h o => Sys2Proof.Machine.execExit h o s
  | .exits h o => Sys2Proof.Machine.execExits h o s
  | .trap h o => Sys2Proof.Machine.execTrap h o s
  | .rett h o => Sys2Proof.Machine.execRett h o s
  | .rdsr h o => Sys2Proof.Machine.execRdsr h o s
  | .wrsr h o => Sys2Proof.Machine.execWrsr h o s
  | .fence h o => Sys2Proof.Machine.execFence h o s
  | .drain h o => Sys2Proof.Machine.execDrain h o s
  | .guardEnter h o => Sys2Proof.Machine.execGuardEnter h o s
  | .guardLeave h o => Sys2Proof.Machine.execGuardLeave h o s
  | .idleBundle n ck vj => Sys2Proof.Machine.execIdleBundle n ck vj s
  | .vadd h o => Sys2Proof.Machine.execVadd h o s
  | .vsub h o => Sys2Proof.Machine.execVsub h o s
  | .vmul h o => Sys2Proof.Machine.execVmul h o s
  | .vmulh h o => Sys2Proof.Machine.execVmulh h o s
  | .vfma h o => Sys2Proof.Machine.execVfma h o s
  | .vfms h o => Sys2Proof.Machine.execVfms h o s
  | .vmin h o => Sys2Proof.Machine.execVmin h o s
  | .vmax h o => Sys2Proof.Machine.execVmax h o s
  | .vabs h o => Sys2Proof.Machine.execVabs h o s
  | .vneg h o => Sys2Proof.Machine.execVneg h o s
  | .vmulw h o => Sys2Proof.Machine.execVmulw h o s
  | .vand h o => Sys2Proof.Machine.execVand h o s
  | .vor h o => Sys2Proof.Machine.execVor h o s
  | .vxor h o => Sys2Proof.Machine.execVxor h o s
  | .vandn h o => Sys2Proof.Machine.execVandn h o s
  | .vshl h o => Sys2Proof.Machine.execVshl h o s
  | .vshr h o => Sys2Proof.Machine.execVshr h o s
  | .vshra h o => Sys2Proof.Machine.execVshra h o s
  | .vaddi h o => Sys2Proof.Machine.execVaddi h o s
  | .vmovi h o => Sys2Proof.Machine.execVmovi h o s
  | .vclz h o => Sys2Proof.Machine.execVclz h o s
  | .vpopc h o => Sys2Proof.Machine.execVpopc h o s
  | .vcmp h o => Sys2Proof.Machine.execVcmp h o s
  | .vcmpi h o => Sys2Proof.Machine.execVcmpi h o s
  | .vcswp h o => Sys2Proof.Machine.execVcswp h o s
  | .vsel h o => Sys2Proof.Machine.execVsel h o s
  | .vbcs h o => Sys2Proof.Machine.execVbcs h o s
  | .vidx h o => Sys2Proof.Machine.execVidx h o s
  | .vshuf h o => Sys2Proof.Machine.execVshuf h o s
  | .vxcp h o => Sys2Proof.Machine.execVxcp h o s
  | .vcvt h o => Sys2Proof.Machine.execVcvt h o s
  | .vrndi h o => Sys2Proof.Machine.execVrndi h o s
  | .vsf h o => Sys2Proof.Machine.execVsf h o s
  | .vqblk h o => Sys2Proof.Machine.execVqblk h o s
  | .vdq h o => Sys2Proof.Machine.execVdq h o s
  | .pand h o => Sys2Proof.Machine.execPand h o s
  | .por h o => Sys2Proof.Machine.execPor h o s
  | .pxor h o => Sys2Proof.Machine.execPxor h o s
  | .pnot h o => Sys2Proof.Machine.execPnot h o s
  | .pmov h o => Sys2Proof.Machine.execPmov h o s
  | .pfirst h o => Sys2Proof.Machine.execPfirst h o s
  | .pcnt h o => Sys2Proof.Machine.execPcnt h o s
  | .pset h o => Sys2Proof.Machine.execPset h o s
  | .racc h o => Sys2Proof.Machine.execRacc h o s
  | .rsum h o => Sys2Proof.Machine.execRsum h o s
  | .rmax h o => Sys2Proof.Machine.execRmax h o s
  | .rmin h o => Sys2Proof.Machine.execRmin h o s
  | .rargmax h o => Sys2Proof.Machine.execRargmax h o s
  | .rscan h o => Sys2Proof.Machine.execRscan h o s
  | .rseg h o => Sys2Proof.Machine.execRseg h o s
  | .rdrn h o => Sys2Proof.Machine.execRdrn h o s
  | .rclr h o => Sys2Proof.Machine.execRclr h o s
  | .rcmb h o => Sys2Proof.Machine.execRcmb h o s
  | .ixpush h o => Sys2Proof.Machine.execIxpush h o s
  | .ixpop h o => Sys2Proof.Machine.execIxpop h o s
  | .ixcnt h o => Sys2Proof.Machine.execIxcnt h o s
  | .ixclr h o => Sys2Proof.Machine.execIxclr h o s
  | .tlook h o => Sys2Proof.Machine.execTlook h o s
  | .tlookRead h o => Sys2Proof.Machine.execTlookRead h o s
  | .tset h o => Sys2Proof.Machine.execTset h o s
  | .tclr h o => Sys2Proof.Machine.execTclr h o s
  | .tclrAll h o => Sys2Proof.Machine.execTclrAll h o s
  | .scat h o => Sys2Proof.Machine.execScat h o s
  | .sacfgSet h o => Sys2Proof.Machine.execSacfgSet h o s
  | .sacfgStat h o => Sys2Proof.Machine.execSacfgStat h o s
  | .sacfgClr h o => Sys2Proof.Machine.execSacfgClr h o s
  | .nrd h o => Sys2Proof.Machine.execNrd h o s
  | .nrdl h o => Sys2Proof.Machine.execNrdl h o s
  | .nwr h o => Sys2Proof.Machine.execNwr h o s
  | .nwrTile h o => Sys2Proof.Machine.execNwrTile h o s
  | .nwrl h o => Sys2Proof.Machine.execNwrl h o s
  | .ncopy h o => Sys2Proof.Machine.execNcopy h o s
  | .nfill h o => Sys2Proof.Machine.execNfill h o s
  | .nsend h o => Sys2Proof.Machine.execNsend h o s
  | .nrecv h o => Sys2Proof.Machine.execNrecv h o s
  | .npass h o => Sys2Proof.Machine.execNpass h o s
  | .trace h o => Sys2Proof.Machine.execTrace h o s
  | .mwb h o => Sys2Proof.Machine.execMwb h o s
  | .mldw h o => Sys2Proof.Machine.execMldw h o s
  | .mma h o => Sys2Proof.Machine.execMma h o s
  | .mmaz h o => Sys2Proof.Machine.execMmaz h o s
  | .mmaF64 h o => Sys2Proof.Machine.execMmaF64 h o s
  | .mclr h o => Sys2Proof.Machine.execMclr h o s
  | .mcopy h o => Sys2Proof.Machine.execMcopy h o s
  | .mfree h o => Sys2Proof.Machine.execMfree h o s
  | .mfreeLatch h o => Sys2Proof.Machine.execMfreeLatch h o s
  | .mst h o => Sys2Proof.Machine.execMst h o s
  | .mqst h o => Sys2Proof.Machine.execMqst h o s
  | .mstat h o => Sys2Proof.Machine.execMstat h o s
  | .msel h o => Sys2Proof.Machine.execMsel h o s
  | .mscld h o => Sys2Proof.Machine.execMscld h o s
  | .oqpop h o => Sys2Proof.Machine.execOqpop h o s
  | .tdmaIn h o => Sys2Proof.Machine.execTdmaIn h o s
  | .tdmaOut h o => Sys2Proof.Machine.execTdmaOut h o s
  | .rld h o => Sys2Proof.Machine.execRld h o s
  | .rst h o => Sys2Proof.Machine.execRst h o s
  | .send h o => Sys2Proof.Machine.execSend h o s
  | .recv h o => Sys2Proof.Machine.execRecv h o s
  | .xpose h o => Sys2Proof.Machine.execXpose h o s
  | .xred h o => Sys2Proof.Machine.execXred h o s
  | .cqpost h o => Sys2Proof.Machine.execCqpost h o s
  | .barinit h o => Sys2Proof.Machine.execBarinit h o s
  | .bararr h o => Sys2Proof.Machine.execBararr h o s
  | .oqpush h o => Sys2Proof.Machine.execOqpush h o s
  | .lpark h o => Sys2Proof.Machine.execLpark h o s
  | .lwake h o => Sys2Proof.Machine.execLwake h o s
  | .ttsel h o => Sys2Proof.Machine.execTtsel h o s
  | .resync h o => Sys2Proof.Machine.execResync h o s
  | .sequencerCycle d => Sys2Proof.Machine.execSequencerCycle d s
  | .insertedIdleStep d c => Sys2Proof.Machine.execInsertedIdleStep d c s
  | .resultLanding d c => Sys2Proof.Machine.execResultLanding d c s
  | .promisedValueLanding d c id => Sys2Proof.Machine.execPromisedValueLanding d c id s
  | .holdRelease d c => Sys2Proof.Machine.execHoldRelease d c s
  | .holdOverrun d c => Sys2Proof.Machine.execHoldOverrun d c s
  | .regionOverrun d c => Sys2Proof.Machine.execRegionOverrun d c s
  | .tileOperationComplete d g t => Sys2Proof.Machine.execTileOperationComplete d g t s
  | .oqEntryPoppable d c id => Sys2Proof.Machine.execOqEntryPoppable d c id s
  | .aqEntryIssue d c => Sys2Proof.Machine.execAqEntryIssue d c s
  | .ixElementReturn d c id g => Sys2Proof.Machine.execIxElementReturn d c id g s
  | .scatterWindowPerform d c r => Sys2Proof.Machine.execScatterWindowPerform d c r s
  | .translationWalk d asid va => Sys2Proof.Machine.execTranslationWalk d asid va s
  | .tdmaGranuleLand d c id k => Sys2Proof.Machine.execTdmaGranuleLand d c id k s
  | .rldGranuleLand d c id k => Sys2Proof.Machine.execRldGranuleLand d c id k s
  | .deferredWritePerform id => Sys2Proof.Machine.execDeferredWritePerform id s
  | .atomicPerform d c id => Sys2Proof.Machine.execAtomicPerform d c id s
  | .atomicValueReturn d c id => Sys2Proof.Machine.execAtomicValueReturn d c id s
  | .barrierArrivalUpdate id => Sys2Proof.Machine.execBarrierArrivalUpdate id s
  | .nsendFrameArrival d id => Sys2Proof.Machine.execNsendFrameArrival d id s
  | .frameNotTaken d id => Sys2Proof.Machine.execFrameNotTaken d id s
  | .timedFrameArrival f => Sys2Proof.Machine.execTimedFrameArrival f s
  | .recvGranuleLand d c id k => Sys2Proof.Machine.execRecvGranuleLand d c id k s
  | .exchangeFrameArrival f => Sys2Proof.Machine.execExchangeFrameArrival f s
  | .collectiveGranuleLand d c id k => Sys2Proof.Machine.execCollectiveGranuleLand d c id k s
  | .collectiveComplete d c id => Sys2Proof.Machine.execCollectiveComplete d c id s
  | .copyPacketStart q => Sys2Proof.Machine.execCopyPacketStart q s
  | .copyComplete q => Sys2Proof.Machine.execCopyComplete q s
  | .resourceClaim l => Sys2Proof.Machine.execResourceClaim l s
  | .gangStart g => Sys2Proof.Machine.execGangStart g s
  | .groupPowerUpBegin d g => Sys2Proof.Machine.execGroupPowerUpBegin d g s
  | .groupPowered d g => Sys2Proof.Machine.execGroupPowered d g s
  | .groupPowerDown d g => Sys2Proof.Machine.execGroupPowerDown d g s
  | .checkpointCommit g => Sys2Proof.Machine.execCheckpointCommit g s
  | .preemptSave g => Sys2Proof.Machine.execPreemptSave g s
  | .rollbackResume g => Sys2Proof.Machine.execRollbackResume g s
  | .handlerStart d c => Sys2Proof.Machine.execHandlerStart d c s
  | .rerunCheckpoint g => Sys2Proof.Machine.execRerunCheckpoint g s
  | .gangAbort g why => Sys2Proof.Machine.execGangAbort g why s
  | .gangEnd g => Sys2Proof.Machine.execGangEnd g s
  | .taskComplete l status cause => Sys2Proof.Machine.execTaskComplete l status cause s
  | .successorStart g => Sys2Proof.Machine.execSuccessorStart g s
  | .resyncRelease g => Sys2Proof.Machine.execResyncRelease g s
  | .failoverResume ident => Sys2Proof.Machine.execFailoverResume ident s
  | .lanternRequestAct id => Sys2Proof.Machine.execLanternRequestAct id s
  | .armedWake ident => Sys2Proof.Machine.execArmedWake ident s
  | .groupLocked ident mask => Sys2Proof.Machine.execGroupLocked ident mask s
  | .timetableWake ident mask => Sys2Proof.Machine.execTimetableWake ident mask s
  | .timetablePark ident mask => Sys2Proof.Machine.execTimetablePark ident mask s
  | .phaseSwitch g => Sys2Proof.Machine.execPhaseSwitch g s
  | .elasticRead f => Sys2Proof.Machine.execElasticRead f s
  | .elasticWrite f => Sys2Proof.Machine.execElasticWrite f s
  | .elasticAtomic f => Sys2Proof.Machine.execElasticAtomic f s
  | .readReply f => Sys2Proof.Machine.execReadReply f s
  | .rowRequest f => Sys2Proof.Machine.execRowRequest f s
  | .rowReply f => Sys2Proof.Machine.execRowReply f s
  | .statusFrame f => Sys2Proof.Machine.execStatusFrame f s
  | .elasticForward f => Sys2Proof.Machine.execElasticForward f s
  | .pathLostTimeout id => Sys2Proof.Machine.execPathLostTimeout id s
  | .invalidationComplete asid base len => Sys2Proof.Machine.execInvalidationComplete asid base len s
  | .pinRemoval d e => Sys2Proof.Machine.execPinRemoval d e s
  | .baseTimetableInstall ident => Sys2Proof.Machine.execBaseTimetableInstall ident s
  | .proofingSubmit v => Sys2Proof.Machine.execProofingSubmit v s
  | .offlineRequest v => Sys2Proof.Machine.execOfflineRequest v s
  | .copyGranulePerform q k => Sys2Proof.Machine.execCopyGranulePerform q k s
  | .launchRound => Sys2Proof.Machine.execLaunchRound s
  | .clockLockLoss => Sys2Proof.Machine.execClockLockLoss s
  | .qreg => Sys2Proof.Machine.execQreg s
  | .qdereg => Sys2Proof.Machine.execQdereg s
  | .asidroot => Sys2Proof.Machine.execAsidroot s
  | .inval => Sys2Proof.Machine.execInval s
  | .pin => Sys2Proof.Machine.execPin s
  | .rowsrv => Sys2Proof.Machine.execRowsrv s
  | .fwd => Sys2Proof.Machine.execFwd s
  | .basett => Sys2Proof.Machine.execBasett s
  | .handler => Sys2Proof.Machine.execHandler s
  | .preempt => Sys2Proof.Machine.execPreempt s
  | .stop => Sys2Proof.Machine.execStop s
  | .attest => Sys2Proof.Machine.execAttest s
  | .unseal => Sys2Proof.Machine.execUnseal s
  | .qpage => Sys2Proof.Machine.execQpage s
  | .fwstage => Sys2Proof.Machine.execFwstage s
  | .proofingDone => Sys2Proof.Machine.execProofingDone s
  | .frameMove => Sys2Proof.Machine.execFrameMove s
  | .offlineDone => Sys2Proof.Machine.execOfflineDone s
  | .functionLevelReset => Sys2Proof.Machine.execFunctionLevelReset s
  | .d3hotEntry => Sys2Proof.Machine.execD3hotEntry s
  | .readyReturn => Sys2Proof.Machine.execReadyReturn s
  | .burstRetry stack channel frame => Sys2Proof.Machine.execBurstRetry stack channel frame s
  | .memoryUncorrectable stack off => Sys2Proof.Machine.execMemoryUncorrectable stack off s
  | .reserveRequest r => Sys2Proof.Machine.execReserveRequest r s
  | .reserveReply r => Sys2Proof.Machine.execReserveReply r s
  | .softError d c kind num => Sys2Proof.Machine.execSoftError d c kind num s
  | .bankUncorrectable d c addr => Sys2Proof.Machine.execBankUncorrectable d c addr s
  | .edgeCrcFail e again => Sys2Proof.Machine.execEdgeCrcFail e again s
  | .epochArrival v delay => Sys2Proof.Machine.execEpochArrival v delay s
  | .powerOnReset b => Sys2Proof.Machine.execPowerOnReset b s
  | .flitReceive ident lseq f => Sys2Proof.Machine.execFlitReceive ident lseq f s
  | .nack ident lseq => Sys2Proof.Machine.execNack ident lseq s
  | .lanternFault ident => Sys2Proof.Machine.execLanternFault ident s
  | .registerWrite off size v => Sys2Proof.Machine.execRegisterWrite off size v s
  | .hostBar2Read off size => Sys2Proof.Machine.execHostBar2Read off size s
  | .hostBar2Write off data => Sys2Proof.Machine.execHostBar2Write off data s
  | .hostBar4Access off size data => Sys2Proof.Machine.execHostBar4Access off size data s
  | .telemetryWindow m => Sys2Proof.Machine.execTelemetryWindow m s
  | .hostReadCompletion id data => Sys2Proof.Machine.execHostReadCompletion id data s

end Sys2Proof.Machine
end

