-- ==== Sys2Proof/Machine/Placing.lean ====
section
/-!
DEFINITION. A group placed where the next step fetches (log 8): the model's stand-in for the whole path by which a program
comes to run, from a sealed image to a started gang.
-/

namespace Sys2Proof.Machine

/-- The low n bytes of each word. -/
def bytesOfWords (ws : List Word) : List Byte := ws.flatMap fun w => bytesOfNat 8 w.toNat

/-- A segment-table entry (R68). -/
def segmentEntry (kind prog off len : Nat) : List Byte :=
  bytesOfNat 16 (kind + prog * 2 ^ 8 + off * 2 ^ 32 + len * 2 ^ 64)

/-- An image of one program of a die type, whose code is the words (R68, R69). -/
def imageOfWords (k : DieKind) (ws : List Word) : List Byte :=
  let n := 8 * ws.length
  bytesOfNat 4 0x4E4C5349 ++ bytesOfNat 2 1 ++ bytesOfNat 1 0 ++ bytesOfNat 1 1 ++ bytesOfNat 8 2 ++ bytesOfNat 8 (160 + n) ++
  List.replicate 40 0 ++ segmentEntry 1 0 96 n ++ segmentEntry 8 0 (96 + n) 64 ++ bytesOfWords ws ++
  (bytesOfNat 1 (if k = .v then 0 else 1) ++ bytesOfNat 1 0xFF ++ bytesOfNat 2 0 ++ bytesOfNat 4 0 ++ bytesOfNat 4 0 ++
   bytesOfNat 4 (if k = .v then 0x6000000 else 0x4000000) ++ List.replicate 48 0)

/-- The group whose words are the 64-bit digits of a number, sealed as an image, running in the foreground context of V0, or
of M0 where only an M-die's decoder accepts it, and presented: its first slot is the next thing that the package does. -/
def State.placeWord (s : State) (w : Nat) : State :=
  let ws := wordsOfNat maxGroupWords w
  match decodeEither ws, decodeGroup ws with
  | some (k, _), some g =>
    let d := if k = .v then 0 else 4
    let h := s.nextId
    let id := s.nextId + 1
    let s := { s with
      nextId := s.nextId + 2
      images := s.images ++ [({ handle := h, bytes := imageOfWords k (ws.take g.size), digest := 0, dupMaps := [] } : Image)]
      gangs := s.gangs ++ [({ (default : Gang) with
        id := id, state := .running, image := h, tp := 64
        members := [{ (default : Member) with ix := 0, die := d, ctx := 0 }] } : Gang)] }
    let s := s.modCtx d 0 fun x => { x with run := .running, image := h, prog := 0, gang := id, committed := true,
                                            arch := { x.arch with pc := 0 } }
    { s.beginGroup d 0 g with agenda := s.slotMicros d 0 g ++ [.commit] }
  | _, _ => s

end Sys2Proof.Machine
end

