-- ==== Sys2Proof/Machine/Step.lean ====
section
/-!
DEFINITION. One step of the package, and a state whose next step fetches a given instruction.
-/

namespace Sys2Proof.Machine

/-- One step: the next thing that the package does in this count, an instruction's meaning being `exec` (log 1). -/
def step (s : State) : Host.Outcome State Fault Refusal := advance exec s

/-- The state with the group of a numeral where the next step fetches (log 8). -/
def State.withFetchWord (s : State) (_nbits w : Nat) : State := s.placeWord w

end Sys2Proof.Machine
end

