-- ==== Sys2Proof/Safety.lean ====
section
/-!
DEFINITION. What a safe step and a well-formed package are, in the terms that statements use.
-/

namespace Sys2Proof.Machine

/-- An outcome is a next state. -/
def Completes (r : Res) : Prop := ∃ t, r = .next t

/-- The sparse tables of an array group are in their canonical form. -/
def TileGroup.memWf (x : TileGroup) : Bool := SMap.wf x.tiles && SMap.wf x.latches && SMap.wf x.scales && SMap.wf x.lists

/-- Those of the groups that a context has captured are. -/
def Ctx.memWf (x : Ctx) : Bool := x.ckptGroups.all fun p => p.2.memWf

/-- Every byte memory and sparse table of a die is in its canonical form. -/
def Die.memWf (x : Die) : Bool :=
  Memory.wf x.bank && Memory.wf x.wbuf && SMap.wf x.tags && x.groups.toList.all TileGroup.memWf && x.ctx.toList.all Ctx.memWf

/-- Those that a pre-emption has saved are. -/
def SavedMember.memWf (m : SavedMember) : Bool := m.ctx.memWf && m.groups.all fun p => p.2.memWf

/-- Every byte memory and sparse table of the package is in its canonical form, captured and saved ones too. -/
def State.memWf (s : State) : Bool :=
  s.dies.toList.all Die.memWf && s.hbm.toList.all Memory.wf && s.gangs.all fun g => g.saved.all SavedMember.memWf

/-! ### Bounds that the spec gives queues, landings and tile counters (R26, R27, R32, R33, R35) -/

/-- The longest latency of a slot: that of an MMA of 64 rows with a list of 127 entries (R214). -/
def longestLatency : Nat := 211

/-- An effect lands within the longest latency, unless it is one that a replay puts back at its recorded step (R313). -/
def Act.within (a : Act) (n : Nat) : Bool :=
  n ≤ longestLatency || match a with
    | .replayed _ => true
    | .replayGran _ _ => true
    | .replayElem _ _ _ => true
    | _ => false

/-- AQ and DQ hold at most 32 entries, OQ at most 64, and every landing waits no longer than it may. -/
def Arch.bounded (a : Arch) : Bool :=
  a.aq.length ≤ 32 && a.dq.length ≤ 32 && a.oq.length ≤ 64 && a.landing.all fun l => l.act.within l.rem

/-- The step counter of an idle tile is zero (R32). -/
def TileGroup.bounded (x : TileGroup) : Bool := x.bits.toList.all fun b => b.busy || b.cnt == 0

/-- The bounds hold of a context, as it is and as captured. -/
def Ctx.bounded (x : Ctx) : Bool := x.arch.bounded && x.ckpt.bounded && x.ckptGroups.all fun p => p.2.bounded

/-- The bounds hold of the package: of every context and array group, of what pre-emptions have saved, and of the effects that the
group in progress has recorded. -/
def State.bounded (s : State) : Bool :=
  (s.dies.toList.all fun x => x.ctx.toList.all Ctx.bounded && x.groups.toList.all TileGroup.bounded) &&
  (s.gangs.all fun g => g.saved.all fun m => m.ctx.bounded && m.groups.all fun p => p.2.bounded) &&
  s.issue.acts.all fun p => p.2.2.within p.1

/-- Two states differ at most in what a slot under execution records: the group in progress, the counter of the free values
and the counter of the model's own identifiers. -/
def SlotOnly (s t : State) : Prop := { t with issue := s.issue, free := s.free, nextId := s.nextId } = s

/-! ### What a cluster slot records -/

/-- The elements of width w that the guard of a cluster slot selects in cluster c, ascending (R22, R57). -/
def State.chosen (s : State) (h : Hdr) (w c : Nat) : List Nat :=
  (List.range (elemCount w)).filter fun e => elemSel (s.arch.vguard c h) w e

/-- The generator after n draws (R103, R104). -/
def drawn (rnd : Rnd) : Nat → Word → Word
  | 0, x => x
  | n + 1, x => drawn rnd n (drawIf rnd x).1

/-- The number drawn for element e of cluster c, where `sel` gives the elements that each cluster works on: one draw for each of
them, clusters ascending, then elements ascending (R104); 0 where the instruction does not draw. -/
def State.drawFor (s : State) (h : Hdr) (sel : Nat → List Nat) (rnd : Rnd) (draws : Bool) (c e : Nat) : Nat :=
  let n := (((h.clusters.filter (· < c)).map fun b => (sel b).length).sum) + ((sel c).filter (· < e)).length
  if draws then (drawIf rnd (drawn rnd n s.issue.seed)).2 else 0

/-- The state t is s with the results of a cluster slot on some elements recorded: in each of its clusters the elements that `sel`
gives of v[d] take the values of r, with the flags these raise (R105), after `lat` steps; the lowest element that overflows
under policy 11 raises the overflow trap of its cluster instead (R101, R38). -/
def ElementsOf (h : Hdr) (s : State) (sel : Nat → List Nat) (lat w : Nat) (d : BitVec 6) (rnd : Rnd) (draws : Bool)
    (r : Nat → Nat → Nat → Rounded) (t : State) : Prop :=
  let out := fun c e => r c e (s.drawFor h sel rnd draws c e)
  ∃ val : Nat → VReg, (∀ c ∈ h.clusters, ∀ e ∈ sel c, elemOf (val c) w e = (out c e).bits % 2 ^ w) ∧
    t = { s with issue := { s.issue with
      seed := drawn rnd (if draws then (h.clusters.map fun c => (sel c).length).sum else 0) s.issue.seed
      acts := s.issue.acts ++ h.clusters.flatMap fun c =>
        if (sel c).any fun e => (out c e).trap then []
        else
          let fl := (sel c).foldl (fun f e => f ||| (out c e).flags) 0
          (if sel c = [] then [] else [(lat, c + 2, .v c (physV s.arch.vrb d.toNat) (val c) (coverMask w (sel c)))]) ++
            (if fl = 0 then [] else [(lat, c + 2, .flags fl)])
      traps := s.issue.traps ++ h.clusters.filterMap fun c =>
        ((sel c).find? fun e => (out c e).trap).map fun e =>
          { code := Cause.overflow, info := e, cls := c + 2, clus := some c } } }

/-- The same on all the elements that the guard selects. -/
def Elementwise (h : Hdr) (s : State) (lat w : Nat) (d : BitVec 6) (rnd : Rnd) (draws : Bool)
    (r : Nat → Nat → Nat → Rounded) (t : State) : Prop := ElementsOf h s (s.chosen h w) lat w d rnd draws r t

/-- The same for exact results, which neither draw nor raise a flag or a trap. -/
def Exact (h : Hdr) (s : State) (lat w : Nat) (d : BitVec 6) (r : Nat → Nat → Nat) (t : State) : Prop :=
  Elementwise h s lat w d .ne false (fun c e _ => { bits := r c e }) t

/-- The state t is s with one predicate result of a cluster slot recorded: in each of its clusters the bits of the elements
that the guard selects take r's answer after `lat` steps, at 4-bit width that of the even element of the byte; a write of p0 is
discarded (R22). -/
def Selects (h : Hdr) (s : State) (lat w : Nat) (d : BitVec 6) (r : Nat → Nat → Bool) (t : State) : Prop :=
  let sel := s.chosen h w
  ∃ val : Nat → PReg,
    (∀ c ∈ h.clusters, ∀ e ∈ sel c, (val c).getLsbD (w * e / 8) = r c (if w < 8 then e / 2 * 2 else e)) ∧
    t = { s with issue := { s.issue with
      acts := s.issue.acts ++ h.clusters.flatMap fun c =>
        if d = 0 ∨ sel c = [] then []
        else [(lat, c + 2, .p c (physP s.arch.vrb d.toNat) (val c) (selMask (s.arch.vguard c h) w))] } }

/-! ### Trees and scans of a reduction (R169, R172) -/

/-- tree of R169 over the 2^n entries t, from the work k to the work k' with the value v: level by level, in each the pairs in
ascending order, every combination taking up the work that the one before it left. -/
def TreeOf (o : VRRRR) (g n : Nat) (k : Work) (t : Nat → Option XV) (k' : Work) (v : Option XV) : Prop :=
  ∃ (work : Nat → Nat → Work) (val : Nat → Nat → Option XV), work 0 0 = k ∧ val 0 = t ∧ work n 0 = k' ∧ val n 0 = v ∧
    ∀ l < n, work (l + 1) 0 = work l (2 ^ (n - l - 1)) ∧
      ∀ i < 2 ^ (n - l - 1), comb o g (work l i) (val l (2 * i)) (val l (2 * i + 1)) = (work l (i + 1), val (l + 1) i)

/-- The levels of a scan of R172 over the 2^n entries t with the heads f (none in RSCAN): at each distance 2^l the entries in
descending order, from level l's inputs. -/
def ScanOf (o : VRRRR) (n : Nat) (k : Work) (t : Nat → Option XV) (f : Nat → Bool) (k' : Work) (t' : Nat → Option XV)
    (f' : Nat → Bool) : Prop :=
  ∃ (work : Nat → Nat → Work) (val : Nat → Nat → Option XV) (head : Nat → Nat → Bool),
    work 0 0 = k ∧ val 0 = t ∧ head 0 = f ∧ work n 0 = k' ∧ val n = t' ∧ head n = f' ∧
    ∀ l < n, work (l + 1) 0 = work l (2 ^ n - 2 ^ l) ∧
      (∀ g < 2 ^ l, val (l + 1) g = val l g ∧ head (l + 1) g = head l g) ∧
      ∀ g, 2 ^ l ≤ g → g < 2 ^ n →
        let j := 2 ^ n - 1 - g
        head (l + 1) g = (head l g || head l (g - 2 ^ l)) ∧
        (work l (j + 1), val (l + 1) g) =
          if head l g then (work l j, val l g) else comb o g (work l j) (val l (g - 2 ^ l)) (val l g)

/-- The inclusive values of a scan over n entries with the carry-in: in ascending order (R172). -/
def CarryOf (o : VRRRR) (n : Nat) (cin : XV) (k : Work) (t : Nat → Option XV) (f : Nat → Bool) (k' : Work) (inc : Nat → XV) : Prop :=
  ∃ work : Nat → Work, work 0 = k ∧ work n = k' ∧ ∀ g < n,
    (work (g + 1), some (inc g)) = if f g then (work g, t g) else comb o g (work g) (some cin) (t g)

/-! ### Kinds of slot instructions -/

/-- A cluster instruction: its guard is a predicate that selects elements (R141). -/
def clustered : Instr → Bool
  | .vadd .. | .vsub .. | .vmul .. | .vmulh .. | .vfma .. | .vfms .. | .vmin .. | .vmax .. | .vabs .. | .vneg .. |
    .vmulw .. | .vand .. | .vor .. | .vxor .. | .vandn .. | .vshl .. | .vshr .. | .vshra .. | .vaddi .. | .vmovi .. |
    .vclz .. | .vpopc .. | .vcmp .. | .vcmpi .. | .vcswp .. | .vsel .. | .vbcs .. | .vidx .. | .vshuf .. | .vxcp .. |
    .vcvt .. | .vrndi .. | .vsf .. | .vqblk .. | .vdq .. | .pand .. | .por .. | .pxor .. | .pnot .. | .pmov .. |
    .pfirst .. | .pcnt .. | .pset .. => true
  | _ => false

/-- An instruction that may wait for what happens elsewhere: its group is held and tried again (R128–R132, R257). -/
def waits : Instr → Bool
  | .fence .. | .drain .. | .waitb .. | .resync .. => true
  | _ => false

end Sys2Proof.Machine
end

