-- ==== Sys2Proof/Certificates/Slice0/Obligations.lean ====
section
/-!
DEFINITION. The statements of this model for the provers. Each docstring names the rules of the spec that it formalises. A
slot instruction's meaning records its results (`emit`: latency, class, effect) in the group under execution; the group's issue
puts them into the landing buffer of its context, and RESULT_LANDING lets them take effect; each of the three is stated.
-/

open Sys2Proof Sys2Proof.Machine

/-! ### Scalar integer and floating-point instructions (05 R112–R118) -/

/-- R114, Table 5-1: the SCALAR-RRR integer operations record their value for d at their latency, and nothing else: no flag.
R114, Table 5-1: CLZ counts the zeros above the highest one, 64 for 0; SEL takes x where its predicate holds and y elsewhere;
CMP writes its condition to the predicate that d names (conditions of Table 3-3), codes 6 and 7 being rejected, and a result
for q0 is discarded. Table 3-3: the conditions of BRC and CMP. -/
def Obligations.ScalarIntegerResults : Prop :=
  (∀ (h : Hdr) (o : RRR) (s : State), s.guardOn h = true →
    let x := s.s o.x
    let y := s.s o.y
    let n := y.toNat % 64
    let lands : Nat → Word → Res := fun lat v => .next (s.emit lat h.cls.toNat (.s o.d.toNat v))
    exec (.add h o) s = lands 1 (x + y) ∧
    exec (.sub h o) s = lands 1 (x - y) ∧
    exec (.min h o) s = lands 1 (if y.toInt < x.toInt then y else x) ∧
    exec (.max h o) s = lands 1 (if y.toInt < x.toInt then x else y) ∧
    exec (.minn h o) s = lands 1 (if y.toNat < x.toNat then y else x) ∧
    exec (.maxn h o) s = lands 1 (if y.toNat < x.toNat then x else y) ∧
    exec (.and h o) s = lands 1 (x &&& y) ∧
    exec (.or h o) s = lands 1 (x ||| y) ∧
    exec (.xor h o) s = lands 1 (x ^^^ y) ∧
    exec (.andn h o) s = lands 1 (x &&& ~~~y) ∧
    exec (.orn h o) s = lands 1 (x ||| ~~~y) ∧
    exec (.shl h o) s = lands 1 (BitVec.ofNat 64 (x.toNat * 2 ^ n)) ∧
    exec (.shr h o) s = lands 1 (BitVec.ofNat 64 (x.toNat / 2 ^ n)) ∧
    exec (.shra h o) s = lands 1 (BitVec.ofInt 64 (x.toInt / 2 ^ n)) ∧
    exec (.rotl h o) s = lands 1 (x <<< n ||| x >>> (64 - n)) ∧
    exec (.popc h o) s = lands 1 (BitVec.ofNat 64 ((List.range 64).filter fun i => x.getLsbD i).length) ∧
    exec (.mul h o) s = lands 3 (BitVec.ofNat 64 (x.toNat * y.toNat)) ∧
    exec (.mulh h o) s = lands 3 (BitVec.ofInt 64 (x.toInt * y.toInt / 2 ^ 64)) ∧
    exec (.mulhn h o) s = lands 3 (BitVec.ofNat 64 (x.toNat * y.toNat / 2 ^ 64)) ∧
    exec (.madd h o) s = lands 3 (BitVec.ofNat 64 (x.toNat * y.toNat + (s.s o.z).toNat))) ∧
  (∀ (h : Hdr) (o : RRR) (s : State), s.guardOn h = true →
    let x := s.s o.x
    let y := s.s o.y
    (∃ n, exec (.clz h o) s = .next (s.emit 1 h.cls.toNat (.s o.d.toNat (BitVec.ofNat 64 n))) ∧ n ≤ 64 ∧
      (∀ i, 64 - n ≤ i → i < 64 → x.getLsbD i = false) ∧ (n < 64 → x.getLsbD (63 - n) = true)) ∧
    (s.arch.qreg (o.fn.toNat % 8) = true → exec (.sel h o) s = .next (s.emit 1 h.cls.toNat (.s o.d.toNat x))) ∧
    (s.arch.qreg (o.fn.toNat % 8) = false → exec (.sel h o) s = .next (s.emit 1 h.cls.toNat (.s o.d.toNat y))) ∧
    ∃ b, exec (.cmp h o) s = .next (s.emit 1 h.cls.toNat (.q o.d.toNat b)) ∧
      (o.fn = 0 → (b = true ↔ x = y)) ∧ (o.fn = 1 → (b = true ↔ x ≠ y)) ∧
      (o.fn = 2 → (b = true ↔ x.toInt < y.toInt)) ∧ (o.fn = 3 → (b = true ↔ y.toInt ≤ x.toInt)) ∧
      (o.fn = 4 → (b = true ↔ x.toNat < y.toNat)) ∧ (o.fn = 5 → (b = true ↔ y.toNat ≤ x.toNat))) ∧
  (∀ x y : Word,
    (intCond 0 x y = true ↔ x = y) ∧ (intCond 1 x y = true ↔ x ≠ y) ∧
    (intCond 2 x y = true ↔ x.toInt < y.toInt) ∧ (intCond 3 x y = true ↔ y.toInt ≤ x.toInt) ∧
    (intCond 4 x y = true ↔ x.toNat < y.toNat) ∧ (intCond 5 x y = true ↔ y.toNat ≤ x.toNat)) ∧
  (∀ (k : DieKind) (handler : Bool) (h : Hdr) (o : RRR), 5 < o.fn.toNat % 8 → .reservedValue ∈ (Instr.cmp h o).fieldRejects k handler) ∧
  ∀ (a : Arch) (b : Bool), a.setQ 0 b = a

/-- R115: the immediate operations. BFX and BFI are stated for the fields that proofing lets stand (pos + width ≤ 64). R62: the
immediate of a SCALAR-RI word is its 32 bits, sign-extended, or 50 bits where an extension of KIND 00 is lent. -/
def Obligations.ImmediateResults : Prop :=
  (∀ (h : Hdr) (o : RI) (s : State), s.guardOn h = true →
    let x := s.s o.x
    let d := s.s o.d
    let pos := o.imm.toNat % 2 ^ 6
    let width := o.imm.toNat / 2 ^ 6 % 2 ^ 6 + 1
    let lands : Word → Res := fun v => .next (s.emit 1 h.cls.toNat (.s o.d.toNat v))
    exec (.addi h o) s = lands (BitVec.ofInt 64 (x.toInt + o.value h)) ∧
    exec (.li h o) s = lands (BitVec.ofInt 64 (o.value h)) ∧
    exec (.lih h o) s = lands (BitVec.ofNat 64 (o.imm.toNat * 2 ^ 32 + d.toNat % 2 ^ 32)) ∧
    exec (.bfx h o) s = lands (BitVec.ofNat 64 (x.toNat / 2 ^ pos % 2 ^ width)) ∧
    (pos + width ≤ 64 → ∃ v : Word, exec (.bfi h o) s = lands v ∧
      ∀ i < 64, v.getLsbD i = if pos ≤ i ∧ i < pos + width then x.getLsbD (i - pos) else d.getLsbD i)) ∧
  (∀ (h : Hdr) (o : RI),
    (h.ext = none → o.value h = o.imm.toInt) ∧
    (∀ e : BitVec 20, h.ext = some e → e.toNat < 2 ^ 18 → o.value h = (e.setWidth 18 ++ o.imm : BitVec (18 + 32)).toInt))

/-- R116: division and remainder land after 18 steps with the values of the rule; a zero divisor sets DZ when the result lands;
no other flag is set, and nothing traps. -/
def Obligations.DivisionResults : Prop :=
  ∀ (h : Hdr) (o : RRR) (s : State), s.guardOn h = true →
    let x := s.s o.x
    let y := s.s o.y
    let lands : Word → State := fun v => s.emit 18 h.cls.toNat (.s o.d.toNat v)
    let dz : State → State := fun t => t.emit 18 h.cls.toNat (.flags flagDZ)
    (y = 0 →
      exec (.divs h o) s = .next (dz (lands 0xFFFFFFFFFFFFFFFF)) ∧ exec (.divn h o) s = .next (dz (lands 0xFFFFFFFFFFFFFFFF)) ∧
      exec (.rems h o) s = .next (dz (lands x)) ∧ exec (.remn h o) s = .next (dz (lands x))) ∧
    (y ≠ 0 →
      (x.toInt = -2 ^ 63 → y.toInt = -1 → exec (.divs h o) s = .next (lands x)) ∧
      exec (.divs h o) s = .next (lands (BitVec.ofInt 64 (x.toInt.tdiv y.toInt))) ∧
      exec (.rems h o) s = .next (lands (BitVec.ofInt 64 (x.toInt - y.toInt * x.toInt.tdiv y.toInt))) ∧
      exec (.divn h o) s = .next (lands (BitVec.ofNat 64 (x.toNat / y.toNat))) ∧
      exec (.remn h o) s = .next (lands (BitVec.ofNat 64 (x.toNat % y.toNat))))

/-- R117: FADD, FMUL, FMA and FDIV round the exact result once, in the width of FN[3], under policy 01, without flushing, with
one draw of the generator; the bits land after 4, 4, 5 and 16 steps with the flags that the rounding raises. R88: the exact
results of two finite values: the sum, whose zero is +0, or −0 toward −∞ or of two −0; the product and the quotient, whose sign is
the exclusive or of the signs; a fused form adds to the exact product; an infinity and a NaN go through. -/
def Obligations.ScalarFloatResults : Prop :=
  (∀ (h : Hdr) (o : RRR) (s : State), s.guardOn h = true →
    let f : Fmt := if o.fn.getLsbD 3 then .f32 else .f64
    let v : BitVec 6 → XV := fun n => fpValue f ((s.s n).toNat % 2 ^ f.width)
    let drawn := s.draw o.rnd
    let lands : Nat → XRes → Res := fun lat e =>
      let r := roundTo f e.val o.rnd .inf false drawn.2
      .next ((drawn.1.emit lat h.cls.toNat (.s o.d.toNat (BitVec.ofNat 64 r.bits))).putFlags h.cls.toNat lat (r.flags ||| e.flags))
    exec (.fadd h o) s = lands 4 ((v o.x).add o.rnd (v o.y)) ∧
    exec (.fmul h o) s = lands 4 ((v o.x).mul (v o.y)) ∧
    exec (.fma h o) s = lands 5 (XV.fma o.rnd (v o.x) (v o.y) (v o.z)) ∧
    exec (.fdiv h o) s = lands 16 ((v o.x).div (v o.y))) ∧
  (∀ (r : Rnd) (n m : Bool) (a d b k : Nat) (e g : Int), 0 < d → 0 < k →
    let signed : Bool → Nat → Int := fun n a => if n then -(a : Int) else a
    ∃ (p : Bool) (c l : Nat) (i : Int), (XV.fin n a d e).add r (.fin m b k g) = ⟨.fin p c l i, 0⟩ ∧ 0 < l ∧
      (let j := min i (min e g)
       let at' : Bool → Nat → Int → Int := fun n a e => signed n (a * 2 ^ (e - j).toNat)
       at' p c i * d * k = (at' n a e * k + at' m b g * d) * l) ∧
      (c = 0 → p = if a = 0 ∧ b = 0 ∧ n = m then n else r == .dn)) ∧
  (∀ (n m : Bool) (a d b k : Nat) (e g : Int),
    (XV.fin n a d e).mul (.fin m b k g) = ⟨.fin (n != m) (a * b) (d * k) (e + g), 0⟩ ∧
    (b ≠ 0 → (XV.fin n a d e).div (.fin m b k g) = ⟨.fin (n != m) (a * k) (d * b) (e - g), 0⟩)) ∧
  (∀ (r : Rnd) (n m : Bool) (a d : Nat) (e : Int) (x y : XV),
    (XV.inf n).add r (.inf n) = ⟨.inf n, 0⟩ ∧ (XV.inf n).add r (.fin m a d e) = ⟨.inf n, 0⟩ ∧
    (XV.fin m a d e).add r (.inf n) = ⟨.inf n, 0⟩ ∧ (XV.inf n).mul (.inf m) = ⟨.inf (n != m), 0⟩ ∧
    (a ≠ 0 → (XV.inf n).mul (.fin m a d e) = ⟨.inf (n != m), 0⟩ ∧ (XV.fin m a d e).mul (.inf n) = ⟨.inf (m != n), 0⟩) ∧
    (XV.inf n).div (.fin m a d e) = ⟨.inf (n != m), 0⟩ ∧ (XV.fin m a d e).div (.inf n) = ⟨.fin (m != n) 0 1 0, 0⟩ ∧
    XV.nan.add r x = ⟨.nan, 0⟩ ∧ x.add r .nan = ⟨.nan, 0⟩ ∧ XV.nan.mul x = ⟨.nan, 0⟩ ∧ x.mul .nan = ⟨.nan, 0⟩ ∧
    XV.nan.div x = ⟨.nan, 0⟩ ∧ x.div .nan = ⟨.nan, 0⟩ ∧
    ((x.mul y).flags = 0 → ∀ z, XV.fma r x y z = (x.mul y).val.add r z))

/-- R117, special values: ∞ − ∞, 0 × ∞ (in a fused form even with a NaN addend), 0 / 0 and ∞ / ∞ give a NaN and set IV; a finite
nonzero value divided by zero gives a signed infinity and sets DZ. R102, R118: a NaN converts to the integer 0 and sets IV; an
infinity saturates and sets ISAT; a finite value is rounded to an integer first, one that fits is kept, NX telling whether it
changed, and one out of range saturates and sets ISAT. R100: the integer that a magnitude is rounded to (here on a grid of step
1): itself where it is one, else one of its two neighbours, by the mode: the nearer, of two equally near the even one; toward
zero; up; down; by the draw. R101, Table 4-6: what an overflow gives under each policy. R100: into a float format: the NaN, the
infinities and zero; a value below the smallest normal under FTZ, flushed; else on the grid of the format (step 2^q, mantissa
precision at and above the smallest normal, the subnormal spacing below it) the integer above, which overflows above the largest
finite value and else is the value of the pattern, with NX where it is not x and UF where it or x is below the smallest normal.
R87, Table 4-1: the layouts and the value of a pattern. -/
def Obligations.SpecialValues : Prop :=
  ((∀ (r : Rnd) (n : Bool), (XV.inf n).add r (.inf (!n)) = ⟨.nan, flagIV⟩) ∧
  (∀ (n m : Bool) (d : Nat) (e : Int), (XV.fin n 0 d e).mul (.inf m) = ⟨.nan, flagIV⟩ ∧ (XV.inf m).mul (.fin n 0 d e) = ⟨.nan, flagIV⟩) ∧
  (∀ (r : Rnd) (n m : Bool) (d : Nat) (e : Int), XV.fma r (.fin n 0 d e) (.inf m) .nan = ⟨.nan, flagIV⟩) ∧
  (∀ (n m : Bool) (d k : Nat) (e g : Int), (XV.fin n 0 d e).div (.fin m 0 k g) = ⟨.nan, flagIV⟩) ∧
  (∀ (n m : Bool), (XV.inf n).div (.inf m) = ⟨.nan, flagIV⟩) ∧
  (∀ (n m : Bool) (a d k : Nat) (e g : Int), a ≠ 0 → (XV.fin n a d e).div (.fin m 0 k g) = ⟨.inf (n != m), flagDZ⟩)) ∧
  (∀ (r : Rnd) (u : Nat),
    (floatToInt .i64 .nan r .sat u).bits = 0 ∧ (floatToInt .i64 .nan r .sat u).flags = flagIV ∧
    (floatToInt .i64 (.inf false) r .sat u).bits = 2 ^ 63 - 1 ∧ (floatToInt .i64 (.inf true) r .sat u).bits = 2 ^ 63 ∧
    (∀ n, (floatToInt .i64 (.inf n) r .sat u).flags = flagISAT) ∧
    ∀ (n : Bool) (a d : Nat) (e : Int),
      let whole := gridInt n a d e r u
      let out := floatToInt .i64 (.fin n a d e) r .sat u
      (2 ^ 63 ≤ whole.1 → out.bits = 2 ^ 63 - 1 ∧ out.flags = flagISAT) ∧
      (whole.1 < -2 ^ 63 → out.bits = 2 ^ 63 ∧ out.flags = flagISAT) ∧
      (-2 ^ 63 ≤ whole.1 → whole.1 < 2 ^ 63 →
        (BitVec.ofNat 64 out.bits).toInt = whole.1 ∧ out.flags = if whole.2 then 0 else flagNX)) ∧
  (∀ (a d : Nat) (r : Rnd) (n : Bool) (u : Nat), 0 < d →
    let m := (roundMag a d 0 0 r n u).1
    (∀ e : Int, gridInt n a d e r u = gridInt n (a * 2 ^ e.toNat) (d * 2 ^ (-e).toNat) 0 r u) ∧
    gridInt n a d 0 r u = (if n then -(m : Int) else m, (roundMag a d 0 0 r n u).2) ∧
    ((roundMag a d 0 0 r n u).2 = true ↔ d ∣ a) ∧ (d ∣ a → m * d = a) ∧
    (¬ d ∣ a →
      let lo := a / d
      (m = lo ∨ m = lo + 1) ∧
      (r = .ne → (2 * (a - lo * d) < d → m = lo) ∧ (d < 2 * (a - lo * d) → m = lo + 1) ∧ (2 * (a - lo * d) = d → m % 2 = 0)) ∧
      (r = .tz → m = lo) ∧ (r = .up → m = if n then lo else lo + 1) ∧ (r = .dn → m = if n then lo + 1 else lo) ∧
      (r = .st → (m = lo + 1 ↔ u < (a - lo * d) * 2 ^ 32 / d)))) ∧
  (∀ (f : Fmt) (n : Bool), f.isFloat = true →
    let sign := if n then 2 ^ (f.width - 1) else 0
    overflowTo f n .sat = { bits := sign + f.maxFiniteBits, flags := flagSAT ||| flagNX } ∧
    (f.hasInf = true → fpValue f (overflowTo f n .inf).bits = .inf n) ∧
    (f.hasInf = false → f.hasNaN = true → (overflowTo f n .inf).bits = f.defaultNaN) ∧
    (f.hasNaN = false → (overflowTo f n .inf).bits = sign + f.maxFiniteBits ∧ (overflowTo f n .nan).bits = sign + f.maxFiniteBits) ∧
    (f.hasNaN = true → (overflowTo f n .nan).bits = f.defaultNaN) ∧
    (overflowTo f n .inf).flags = flagOF ||| flagNX ∧ (overflowTo f n .nan).flags = flagOF ||| flagNX ∧
    (overflowTo f n .trap).trap = true ∧ (overflowTo f n .trap).flags = 0) ∧
  (Fmt.fp .f64 = ⟨11, 52, 1023⟩ ∧ Fmt.fp .f32 = ⟨8, 23, 127⟩ ∧ Fmt.fp .f16 = ⟨5, 10, 15⟩ ∧ Fmt.fp .bf16 = ⟨8, 7, 127⟩ ∧
    Fmt.fp .f8a = ⟨4, 3, 7⟩ ∧ Fmt.fp .f8b = ⟨5, 2, 15⟩ ∧ Fmt.fp .f4 = ⟨2, 1, 1⟩ ∧
    ([Fmt.f64, .f32, .f16, .bf16, .f8a, .f8b, .f4].map fun f => (f.defaultNaN, f.maxFiniteBits, f.hasInf, f.hasNaN, f.flushes)) =
      [(0x7FF8000000000000, 0x7FEFFFFFFFFFFFFF, true, true, true), (0x7FC00000, 0x7F7FFFFF, true, true, true),
       (0x7E00, 0x7BFF, true, true, true), (0x7FC0, 0x7F7F, true, true, true), (0x7F, 0x7E, false, true, false),
       (0x7E, 0x7B, true, true, true), (0, 0x7, false, false, false)]) ∧
  (∀ (f : Fmt) (b : Nat), f.isFloat = true → b < 2 ^ f.width →
    let n := b.testBit (f.width - 1)
    let ex := b / 2 ^ f.fp.mb % 2 ^ f.fp.eb
    let m := b % 2 ^ f.fp.mb
    let special : Prop := ex = 2 ^ f.fp.eb - 1 ∧ (f.hasInf = true ∨ f = .f8a ∧ m = 7)
    (special → fpValue f b = if f.hasInf = true ∧ m = 0 then .inf n else .nan) ∧
    (¬ special → ex = 0 → fpValue f b = .fin n m 1 (1 - f.fp.bias - f.fp.mb)) ∧
    (¬ special → ex ≠ 0 → fpValue f b = .fin n (2 ^ f.fp.mb + m) 1 ((ex : Int) - f.fp.bias - f.fp.mb))) ∧
  ∀ (f : Fmt) (r : Rnd) (ovf : Ovf) (z : Bool) (u : Nat), f.isFloat = true →
    (f.hasNaN = true → roundTo f .nan r ovf z u = { bits := f.defaultNaN }) ∧
    (f.hasNaN = false → ovf ≠ .trap → roundTo f .nan r ovf z u = { bits := 0, flags := flagIV }) ∧
    (f.hasNaN = false → ovf = .trap → (roundTo f .nan r ovf z u).trap = true) ∧
    ∀ n : Bool,
      let zero := if n then 2 ^ (f.width - 1) else 0
      (f.hasInf = false → roundTo f (.inf n) r ovf z u = overflowTo f n ovf) ∧
      (f.hasInf = true → ∃ b, roundTo f (.inf n) r ovf z u = { bits := b } ∧ fpValue f b = .inf n) ∧
      (∀ (d : Nat) (e : Int), roundTo f (.fin n 0 d e) r ovf z u = { bits := zero }) ∧
      ∀ (a d : Nat) (e : Int), 0 < a → 0 < d →
        let emin : Int := 1 - f.fp.bias
        let least := XV.fin false 1 1 emin
        let out := roundTo f (.fin n a d e) r ovf z u
        let small := (XV.fin false a d e).lt least
        (z = true → f.flushes = true → small = true → out = { bits := zero, flags := flagUF ||| flagNX }) ∧
        (z = false ∨ f.flushes = false ∨ small = false → ∃ q : Int,
          let whole := a * 2 ^ (e - q).toNat
          let part := d * 2 ^ (q - e).toNat
          let m := (roundMag whole part 0 0 r n u).1
          let y := XV.fin false m 1 q
          whole / part < 2 ^ (f.fp.mb + 1) ∧
          (q = emin - f.fp.mb ∨ emin - f.fp.mb < q ∧ 2 ^ f.fp.mb ≤ whole / part) ∧
          ((fpValue f f.maxFiniteBits).lt y = true → out = overflowTo f n ovf) ∧
          ((fpValue f f.maxFiniteBits).lt y = false →
            out.bits < 2 ^ f.width ∧ out.trap = false ∧ (fpValue f out.bits).neg? = n ∧ (fpValue f out.bits).abs.eqv y = true ∧
            out.flags = if part ∣ whole then 0 else flagNX ||| flagIf (small || y.lt least) flagUF))

/-- R118, Table 5-2: FCVT converts as FN[2:0] selects, takes its draw and lands after 4 with the flags of its rounding; FCMP
writes the condition of Table 3-3 on the two values to the predicate that d names after 2 steps and sets no flag. Table 3-3, R78:
the conditions: with a NaN only NE and UN are true; else each is the comparison of the two values, where −0 equals +0, ∞ is above
and −∞ below every finite value, and two finite values compare as the numbers that they are. -/
def Obligations.ConvertAndCompareResults : Prop :=
  (∀ (h : Hdr) (o : RRR) (s : State), s.guardOn h = true →
    let x := s.s o.x
    let drawn := s.draw o.rnd
    let kind := o.fn.toNat % 8
    (∃ r : Rounded, exec (.fcvt h o) s =
        .next ((drawn.1.emit 4 h.cls.toNat (.s o.d.toNat (BitVec.ofNat 64 r.bits))).putFlags h.cls.toNat 4 r.flags) ∧
      (kind = 0 → r = roundTo .f32 (fpValue .f64 x.toNat) o.rnd .inf false drawn.2) ∧
      (kind = 1 → r = roundTo .f64 (fpValue .f32 (x.toNat % 2 ^ 32)) o.rnd .inf false drawn.2) ∧
      (kind = 2 → r = floatToInt .i64 (fpValue .f64 x.toNat) o.rnd .sat drawn.2) ∧
      (kind = 3 → r = floatToInt .i64 (fpValue .f32 (x.toNat % 2 ^ 32)) o.rnd .sat drawn.2) ∧
      (kind = 4 → r = roundTo .f64 (.ofInt x.toInt) o.rnd .inf false drawn.2) ∧
      (kind = 5 → r = roundTo .f32 (.ofInt x.toInt) o.rnd .inf false drawn.2)) ∧
    (let f : Fmt := if o.fn.getLsbD 3 then .f32 else .f64
     let v : BitVec 6 → XV := fun n => fpValue f ((s.s n).toNat % 2 ^ f.width)
     exec (.fcmp h o) s = .next (s.emit 2 h.cls.toNat (.q o.d.toNat (fpCond kind (v o.x) (v o.y)))))) ∧
  (∀ a b : XV,
    (a = .nan ∨ b = .nan → fpCond 1 a b = true ∧ fpCond 6 a b = true ∧ ∀ k ∈ [0, 2, 3, 4, 5], fpCond k a b = false) ∧
    (a ≠ .nan → b ≠ .nan → fpCond 6 a b = false ∧ fpCond 2 a b = a.lt b ∧ fpCond 4 a b = b.lt a ∧
      (fpCond 0 a b = true ↔ a.lt b = false ∧ b.lt a = false) ∧ fpCond 1 a b = !fpCond 0 a b ∧
      fpCond 3 a b = !b.lt a ∧ fpCond 5 a b = !a.lt b)) ∧
  (∀ (n m : Bool) (a d b k : Nat) (e g : Int), 0 < d → 0 < k →
    let signed : Bool → Nat → Int := fun n a => if n then -(a : Int) else a
    ((XV.fin n a d e).lt (.fin m b k g) = true ↔
      signed n (a * 2 ^ (e - min e g).toNat * k) < signed m (b * 2 ^ (g - min e g).toNat * d)) ∧
    (XV.fin n a d e).lt (.inf false) = true ∧ (XV.fin n a d e).lt (.inf true) = false ∧
    (XV.inf true).lt (.fin n a d e) = true ∧ (XV.inf false).lt (.fin n a d e) = false ∧
    ((XV.inf n).lt (.inf m) = true ↔ n = true ∧ m = false))

/-! ### Scalar memory instructions and atomics (05 R119–R124) -/

/-- R119: LDS and STS reach the linear view of the die's own bank wall: a misaligned address and one outside BWIN fault at
issue; otherwise LDS reads the little-endian bytes at the issue step and lands them, extended as FN[2] says, after 4, and STS
lands the low bytes of its data in the bank after 4. The value read is stated for a context without unjoined writes of the other
view (R268). -/
def Obligations.BankAccessResults : Prop :=
  ∀ (h : Hdr) (o : RI) (s : State), s.guardOn h = true →
    let a := (s.s o.x + BitVec.ofInt 64 (o.value h)).toNat
    let k := 2 ^ (o.fn.toNat % 4)
    let inside : Prop := s.arch.bwinBase.toNat ≤ a ∧ a + k ≤ s.arch.bwinLimit.toNat
    let v := Mem.nat s.myDie.bank a k
    (a % k ≠ 0 → exec (.lds h o) s = .next (s.raise h.cls.toNat Cause.misaligned a) ∧
      exec (.sts h o) s = .next (s.raise h.cls.toNat Cause.misaligned a)) ∧
    (a % k = 0 → ¬ inside → exec (.lds h o) s = .next (s.raise h.cls.toNat Cause.bankBounds a) ∧
      exec (.sts h o) s = .next (s.raise h.cls.toNat Cause.bankBounds a)) ∧
    (a % k = 0 → inside → s.issue.vj = true ∨ s.me.unjoined = [] →
      exec (.lds h o) s = .next ({ s with free := s.free + 1 }.emit 4 h.cls.toNat (.s o.d.toNat
        (if o.fn.getLsbD 2 then (BitVec.ofNat (8 * k) v).signExtend 64 else BitVec.ofNat 64 v)))) ∧
    (a % k = 0 → inside →
      exec (.sts h o) s = .next (s.emit 4 h.cls.toNat (.bank false (placeBytes a (bytesOfNat k (s.s o.d).toNat)))))

/-- R120–R122: LDH and STH address translated memory. A misaligned address faults at issue. LDH starts a read of its size for d
under the promise that FN[5:3] names; STH puts its bytes into the deferred-write set with a promise and writes no memory. -/
def Obligations.TranslatedAccessResults : Prop :=
  ∀ (h : Hdr) (o : RI) (s : State), s.guardOn h = true →
    let w := s.s o.x + BitVec.ofInt 64 (o.value h)
    let a := w.toNat
    let k := 2 ^ (o.fn.toNat % 4)
    (a % k ≠ 0 → exec (.ldh h o) s = .next (s.raise h.cls.toNat Cause.misaligned a) ∧
      exec (.sth h o) s = .next (s.raise h.cls.toNat Cause.misaligned a)) ∧
    (a % k = 0 → ∃ r : Req, exec (.ldh h o) s = .next (s.emit 0 h.cls.toNat (.start r)) ∧
      r.kind = .ldh o.d.toNat (o.fn.getLsbD 2) ∧ r.pr = o.fn.toNat / 8 ∧ r.addr = w ∧ r.size = k) ∧
    (a % k = 0 → ∃ (d : DefWrite) (r : Req),
      exec (.sth h o) s = .next ((s.emit 0 h.cls.toNat (.defer [d])).emit 0 h.cls.toNat (.start r)) ∧
      r.kind = .enqueue ∧ r.pr = o.fn.toNat / 8 ∧ d.sth = true ∧ d.addr = a / 64 * 64 ∧
      (∀ i < 64, d.mask.getLsbD i = (decide (a % 64 ≤ i) && decide (i < a % 64 + k))) ∧
      ∀ i < k, d.data.extractLsb' (8 * (a % 64 + i)) 8 = (s.s o.d).extractLsb' (8 * i) 8)

/-- R120, R123, R124: an atomic on a misaligned address faults; on a bank address it is checked against BWIN; on a translated
one it takes the next entry of the region's atomic log, and without one left it raises the atomic-log-overflow fault (R310: a
handler has no region and no log to fill). Otherwise it starts its indivisible update with its operands cut to the word's width.
R123: what an atomic at a home of the package reads and writes: the old word is returned, and the word becomes the sum modulo
2^w, the successor modulo 2^w, the second operand where the word equals the first (else it stays), or the operand. -/
def Obligations.AtomicResults : Prop :=
  (∀ (h : Hdr) (o : RRR) (s : State), s.guardOn h = true →
    let a := s.s o.x
    let k := if o.fn.getLsbD 0 then 8 else 4
    let n := s.me.atomPos + (s.issue.acts.filter fun e => match e.2.2 with | .logAtomic _ => true | _ => false).length
    let full : Prop := s.issue.ctx ≠ 2 ∧ 256 ≤ n
    let cut : Word → Word := fun v => BitVec.ofNat 64 (v.toNat % 2 ^ (8 * k))
    ∀ p ∈ [(Instr.aadd h o, AtomOp.add), (Instr.ainc h o, AtomOp.inc), (Instr.acas h o, AtomOp.cas), (Instr.axchg h o, AtomOp.xchg)],
      (a.toNat % k ≠ 0 → exec p.1 s = .next (s.raise h.cls.toNat Cause.misaligned a.toNat)) ∧
      (a.toNat % k = 0 → a.getLsbD 63 = false → full → exec p.1 s = .next (s.raise h.cls.toNat Cause.atomicLog a.toNat)) ∧
      (a.toNat % k = 0 → a.getLsbD 63 = false → ¬ full → ∃ r : Req,
        exec p.1 s = .next ((s.emit 0 h.cls.toNat (.logAtomic n)).emit 0 h.cls.toNat (.start r)) ∧
        r.kind = .atomic p.2 (cut (s.s o.y)) (cut (s.s o.z)) o.d.toNat n ∧ r.addr = a ∧ r.size = k ∧ r.pr = o.fn.toNat / 2 % 8) ∧
      (a.toNat % k = 0 → a.getLsbD 63 = true →
        (s.arch.bwinBase.toNat ≤ a.toNat - 2 ^ 63 ∧ a.toNat - 2 ^ 63 + k ≤ s.arch.bwinLimit.toNat → ∃ r : Req,
          exec p.1 s = .next (s.emit 0 h.cls.toNat (.start r)) ∧
          r.kind = .atomic p.2 (cut (s.s o.y)) (cut (s.s o.z)) o.d.toNat n ∧ r.addr = a ∧ r.size = k) ∧
        (¬ (s.arch.bwinBase.toNat ≤ a.toNat - 2 ^ 63 ∧ a.toNat - 2 ^ 63 + k ≤ s.arch.bwinLimit.toNat) →
          exec p.1 s = .next (s.raise h.cls.toNat Cause.bankBounds a.toNat)))) ∧
  (∀ (s : State) (p : Machine.Home) (k old y z : Nat), s.readHome p k = .ok old →
    s.atomAt p .add k y z = .ok (s.writeHome p (bytesOfNat k ((old + y) % 2 ^ (8 * k))), old) ∧
    s.atomAt p .inc k y z = .ok (s.writeHome p (bytesOfNat k ((old + 1) % 2 ^ (8 * k))), old) ∧
    (old = y → s.atomAt p .cas k y z = .ok (s.writeHome p (bytesOfNat k z), old)) ∧
    (old ≠ y → s.atomAt p .cas k y z = .ok (s, old)) ∧
    s.atomAt p .xchg k y z = .ok (s.writeHome p (bytesOfNat k y), old))


/-! ### Branches, waits, system instructions (05 R125–R139) -/

/-- R125, R126: a taken branch sets the target of the next group: for BR, BRC and CALL relative to the start of their own group
in 8-byte units, for RET and JMPI the value of s[x], which must be a group start of the program. CALL's link lands after 1.
R127: with LC at 0, LOOP falls through and changes nothing. Else LC counts down and the branch is taken, and on a V-die VRB
counts down modulo 32 and p8 of every cluster, named under the new VRB, takes all ones where the new LC is at least EC, else
zero. -/
def Obligations.BranchResults : Prop :=
  (∀ (h : Hdr) (o : Branch) (s : State), s.guardOn h = true →
    let target : Word := s.issue.pc + BitVec.ofInt 64 (8 * o.off.toInt)
    let taken : State → Word → State := fun t w => { t with issue := { t.issue with branch := some w } }
    let link : Word := s.issue.pc + BitVec.ofNat 64 (8 * s.issue.size)
    let x := s.s o.x
    exec (.br h o) s = .next (taken s target) ∧
    exec (.call h o) s = .next (taken (s.emit 1 h.cls.toNat (.s o.x.toNat link)) target) ∧
    (intCond (o.fn.toNat % 8) x (s.s o.y) = true → exec (.brc h o) s = .next (taken s target)) ∧
    (intCond (o.fn.toNat % 8) x (s.s o.y) = false → exec (.brc h o) s = .next s) ∧
    (isGroupStart (s.code s.issue.die s.issue.ctx) x.toNat = true →
      exec (.ret h o) s = .next (taken s x) ∧ exec (.jmpi h o) s = .next (taken s x)) ∧
    (isGroupStart (s.code s.issue.die s.issue.ctx) x.toNat = false →
      exec (.ret h o) s = .next (s.raise h.cls.toNat Cause.branchTarget x.toNat) ∧
      exec (.jmpi h o) s = .next (s.raise h.cls.toNat Cause.branchTarget x.toNat))) ∧
  (∀ (h : Hdr) (o : Branch) (s : State), s.guardOn h = true →
    let a := s.arch
    let lc := a.lc - 1
    let vrb := a.vrb - 1
    let cls := h.cls.toNat
    let target : Word := s.issue.pc + BitVec.ofInt 64 (8 * o.off.toInt)
    let stage : PReg := if a.ec.toNat ≤ lc.toNat then BitVec.allOnes 128 else 0
    (a.lc = 0 → exec (.loop h o) s = .next s) ∧
    (a.lc ≠ 0 → ∃ t, exec (.loop h o) s = .next t ∧ SlotOnly s t ∧ t.issue.branch = some target ∧ t.issue.traps = s.issue.traps ∧
      (s.issue.die < 4 → t.issue.acts = s.issue.acts ++ [(0, cls, .lc lc), (0, cls, .vrb vrb)] ++
        (List.range 8).map fun c => (0, cls, .p c (physP vrb 8) stage (BitVec.allOnes 128))) ∧
      (4 ≤ s.issue.die → t.issue.acts = s.issue.acts ++ [(0, cls, .lc lc)])))

/-- R129: WAITT lets its group issue exactly when the gang step has reached (s[x] + IMM) mod 2^64, comparing unsigned; until
then it holds the group. R130 on a bank word: a satisfying value ends the wait and lands in d after 1, and any other value holds
the group; the word is not changed. A misaligned address and one outside BWIN fault. Stated for a context without unjoined
writes of the other view (R268). On a translated word: a rerun takes the value from the staging (R313); else the wait ends with
the answer of its request that satisfies it, from the answer's count on, and raises the fault that its request met; that it ends
so is the model's choice (log 20). R120: the addresses of both. -/
def Obligations.WaitResults : Prop :=
  (∀ (h : Hdr) (o : Sys) (s : State), s.guardOn h = true →
    let target := (s.s o.x).toNat + o.value h
    (target % 2 ^ 64 ≤ (s.belfry - s.arch.gbase).toNat → exec (.waitt h o) s = .next s) ∧
    ((s.belfry - s.arch.gbase).toNat < target % 2 ^ 64 →
      exec (.waitt h o) s = .next { s with issue := { s.issue with hold := true } })) ∧
  (∀ (h : Hdr) (o : Sys) (s : State), s.guardOn h = true →
    let a := s.s o.x
    let cls := h.cls.toNat
    let n := a.toNat - 2 ^ 63
    let v := Mem.nat s.myDie.bank n 8
    let hold : State → State := fun t => { t with issue := { t.issue with hold := true } }
    let ends : Nat → State := fun v => (s.emit 0 cls (.waited a.toNat v)).emit 1 cls (.s o.d.toNat (BitVec.ofNat 64 v))
    let kept := nextStaged .waitb s.me.staging
    (a.toNat % 8 ≠ 0 → exec (.waitb h o) s = .next (s.raise cls Cause.misaligned a.toNat)) ∧
    (a.toNat % 8 = 0 → a.getLsbD 63 = true →
      (¬ (s.arch.bwinBase.toNat ≤ n ∧ n + 8 ≤ s.arch.bwinLimit.toNat) →
        exec (.waitb h o) s = .next (s.raise cls Cause.bankBounds a.toNat)) ∧
      (s.arch.bwinBase.toNat ≤ n → n + 8 ≤ s.arch.bwinLimit.toNat → s.issue.vj = true ∨ s.me.unjoined = [] →
        ((v ≠ 0 ↔ o.imm.getLsbD 0 = true) →
          exec (.waitb h o) s = .next ({ s with free := s.free + 1 }.emit 1 cls (.s o.d.toNat (BitVec.ofNat 64 v)))) ∧
        (¬ (v ≠ 0 ↔ o.imm.getLsbD 0 = true) → exec (.waitb h o) s = .next (hold { s with free := s.free + 1 })))) ∧
    (a.toNat % 8 = 0 → a.getLsbD 63 = false →
      (∀ e v, kept = some e → e.value = some v → e.addr = a.toNat → e.size = 8 → exec (.waitb h o) s = .next (ends v)) ∧
      (kept = none →
        (∀ e, s.me.waitFault = some e → exec (.waitb h o) s = .next (s.raise cls e.1 (e.2.getD a.toNat))) ∧
        (∀ v b, s.me.waitFault = none → s.me.waitReply = some (v, b) → (v ≠ 0 ↔ o.imm.getLsbD 0 = true) →
          (b ≤ s.bel → exec (.waitb h o) s = .next (ends v)) ∧ (s.bel < b → exec (.waitb h o) s = .next (hold s))) ∧
        (s.me.waitFault = none → s.me.waitReply = none → s.me.waitReq ≠ none → exec (.waitb h o) s = .next (hold s)))))

/-- R128, R131–R133: a FENCE or DRAIN of a checkpoint group that has not committed waits for nothing: it runs after the commit
(R309), the model's choice (log 41), as is the wait for the context's own bank writes in flight. Any other lets its group
issue when no covered access is outstanding, holds it while one is, and raises the recorded faults of released accesses that it
covers. R263, Table 10-2: an access is covered where its home lies in the scope, one of the copy engines in scopes pkg and dom.
R131: a context without a bank write that has yet to land, an open request, an indexed element to come, a scatter update, a
released write, a frame or operand push under way, or a queued copy waits for nothing. R198: a FENCE, and a DRAIN of class sca
or all, closes the open windows of the context first. -/
def Obligations.FenceAndDrainResults : Prop :=
  (∀ (h : Hdr) (o : Sys) (s : State), s.guardOn h = true →
    let d := s.issue.die
    let c := s.issue.ctx
    let looks : Bool → State := fun closes =>
      let u := if closes then s.closeWindows d c else s
      { u with free := u.free + 1 }
    let fence := looks true
    let drain := looks (o.cls == 0 || o.cls == 5)
    let out : State → List Waited := fun t => (t.waitedAll d c).filter fun w => w.covered d o.scope
    let ofClass : Waited → Bool := fun w => if o.cls = 0 then w.classes.any (· != 0) else w.classes.contains o.cls.toNat
    let faults : Option Nat → List (Nat × Trap) := fun k => s.me.fenceFaults.filter (faultCovered o.scope k)
    (s.issue.ck = true → s.me.committed = false → exec (.fence h o) s = .next s ∧ exec (.drain h o) s = .next s) ∧
    (s.issue.ck = false ∨ s.me.committed = true →
      (faults none = [] →
        (out fence = [] → exec (.fence h o) s = .next fence) ∧ (out fence ≠ [] → exec (.fence h o) s = .next fence.holdGroup)) ∧
      (faults (some o.cls.toNat) = [] →
        ((out drain).filter ofClass = [] → exec (.drain h o) s = .next drain) ∧
        ((out drain).filter ofClass ≠ [] → exec (.drain h o) s = .next drain.holdGroup)) ∧
      (faults none ≠ [] → ∃ t, exec (.fence h o) s = .next t ∧ t.issue.traps = s.issue.traps ++ (faults none).map (·.2)) ∧
      (faults (some o.cls.toNat) ≠ [] → ∃ t, exec (.drain h o) s = .next t ∧
        t.issue.traps = s.issue.traps ++ (faults (some o.cls.toNat)).map (·.2)))) ∧
  (∀ (w : Waited) (d : Nat) (sc : Scope),
    (w.engine = true → (w.covered d sc = true ↔ sc = .pkg ∨ sc = .dom)) ∧
    (w.engine = false → sc = .dom → w.covered d sc = true) ∧
    (w.engine = false → w.home = some (.bank d 0) → w.covered d sc = true) ∧
    (w.engine = false → (∀ k x, w.home = some (.bank k x) → k ≠ d) → w.home ≠ none → sc = .ctx → w.covered d sc = false)) ∧
  ∀ (s : State) (d c : Nat),
    let x := s.ctx d c
    (∀ l ∈ x.arch.landing, l.isBank = false) → (∀ r ∈ x.reqs, r.ended = true) → (∀ e ∈ x.arch.dq, e.waiting = []) →
    x.arch.scatIdle = true → (∀ p ∈ s.pendings, p.die = d → p.ctx = c → p.gang ≠ x.gang) → x.takes = [] →
    (∀ y ∈ s.sends, y.fromDie = d → y.fromCtx = c → y.n ≤ y.data.length) → s.pushesOut d c = [] → s.openCopies d c .dom = [] →
    s.waitedAll d c = []

/-- R134–R139: what the system instructions record: the mode of a foreground context at the end of the issue step (R39: a
background context stays guarded and a handler exposed), the end of the context with its successor, the software trap with its
number, the return of a handler, the value of a system register after 1, the write of one at the end of the step. -/
def Obligations.SystemResults : Prop :=
  ∀ (h : Hdr) (o : Sys) (s : State), s.guardOn h = true →
    let now : Act → Res := fun a => .next (s.emit 0 h.cls.toNat a)
    (s.issue.ctx = 0 → exec (.guardEnter h o) s = now (.guarded true) ∧ exec (.guardLeave h o) s = now (.guarded false)) ∧
    (s.issue.ctx ≠ 0 → exec (.guardEnter h o) s = .next s ∧ exec (.guardLeave h o) s = .next s) ∧
    exec (.exit h o) s = now (.exit none) ∧
    exec (.exits h o) s = now (.exit (some (o.value h % 2 ^ 16))) ∧
    exec (.trap h o) s = .next (s.raise h.cls.toNat 0x50 (o.value h % 2 ^ 16)) ∧
    exec (.rett h o) s = now (.rett (o.value h)) ∧
    exec (.rdsr h o) s = .next (s.emit 1 h.cls.toNat (.s o.d.toNat (s.readSr o.sr.toNat))) ∧
    exec (.wrsr h o) s = now (.sysreg o.sr.toNat (s.s o.x))

/-- R42, R139, Tables 1-9 to 1-15: what RDSR reads of the registers of the executing context; a handler reads those of the
context that it serves. R42, R44, R139: a write of a system register changes that register alone, in its writable fields: FLAGS
clears the bits written as 1, VRB takes 5 bits and EC takes 8, a promise its defined fields; BELFRY, CTXID, CKID, LSTATUS and
QSTAT take nothing. R39: a background context stays guarded whatever a handler writes to its CTXMODE. -/
def Obligations.SystemRegisters : Prop :=
  (∀ (s : State),
    let x := s.ctx s.issue.die (if s.issue.ctx = 2 then s.me.served else s.issue.ctx)
    let a := x.arch
    s.readSr 0x00 = s.belfry ∧ s.readSr 0x01 = a.gbase ∧ (s.readSr 0x02).getLsbD 0 = a.guarded ∧
    (4 ≤ s.issue.die → s.issue.die < 8 → (s.readSr 0x02).extractLsb' 8 4 = x.groups) ∧
    ((s.readSr 0x02).getLsbD 1 = true ↔ s.issue.ctx = 2 ∧ (x.held ≠ 0 ∨ x.run = .stopped)) ∧
    (s.issue.die < 8 → (s.readSr 0x02).extractLsb' 4 2 = if s.issue.die < 4 then 0 else 1) ∧
    (s.issue.die < 4 → (s.readSr 0x02).extractLsb' 8 4 = 0) ∧
    (s.readSr 0x02).extractLsb' 2 2 = 0 ∧ (s.readSr 0x02).extractLsb' 6 2 = 0 ∧ (s.readSr 0x02).extractLsb' 12 52 = 0 ∧
    (s.issue.die < 16 → s.issue.ctx < 3 →
      (s.readSr 0x03).extractLsb' 14 2 = BitVec.ofNat 2 s.issue.ctx ∧ (s.readSr 0x03).extractLsb' 16 13 = BitVec.ofNat 13 s.me.member ∧
      (s.readSr 0x03).extractLsb' 29 2 = (if s.issue.ctx = 2 then BitVec.ofNat 2 s.me.served else 0) ∧
      (s.readSr 0x03).getLsbD 31 = false ∧ (s.readSr 0x03).extractLsb' 32 12 = BitVec.ofNat 12 s.me.asid ∧
      (s.readSr 0x03).extractLsb' 44 20 = BitVec.ofNat 20 s.me.gang) ∧
    (s.readSr 0x03).extractLsb' 0 10 = s.pkg ∧ (s.issue.die < 16 → ((s.readSr 0x03).extractLsb' 10 4).toNat = s.issue.die) ∧
    s.readSr 0x04 = a.commits.setWidth 40 ++ a.ckix ∧ s.readSr 0x05 = a.trapCause ∧ s.readSr 0x06 = a.trapStep ∧
    s.readSr 0x07 = a.trapInfo ∧ (∀ i < 14, (s.readSr 0x08).extractLsb' (4 * i) 4 = (s.lantern i).ls) ∧
    s.readSr 0x09 = a.flags.setWidth 64 ∧ s.readSr 0x0A = a.seed ∧
    s.readSr 0x0B = a.vrb.setWidth 64 ∧ s.readSr 0x0C = a.lc ∧ s.readSr 0x0D = a.ec.setWidth 64 ∧
    s.readSr 0x0E = a.bwinLimit.setWidth 32 ++ a.bwinBase.setWidth 32 ∧
    (s.issue.die < 4 → s.readSr 0x0F = BitVec.ofNat 64 (a.aqOccupancy + a.dq.length * 2 ^ 8 +
      (a.dq.filter fun e => e.status != .wait).length * 2 ^ 16)) ∧
    (4 ≤ s.issue.die → s.issue.die < 8 →
      s.readSr 0x0F = BitVec.ofNat 64 (a.oq.length + (a.oq.filter fun e => e.poppable).length * 2 ^ 8)) ∧
    ∀ n < 8,
      let p := tget a.promise n default
      let w := s.readSr (0x10 + n)
      w.extractLsb' 0 48 = p.pstep ∧ w.getLsbD 60 = p.poison ∧ w.getLsbD 61 = p.retry ∧ w.getLsbD 62 = p.done ∧ w.getLsbD 63 = p.v) ∧
  (∀ (x : Ctx) (k : DieKind) (w : Word),
    let puts := fun (a : Arch) => { x with arch := a }
    x.writeSr k 0x01 w = puts { x.arch with gbase := w } ∧
    x.writeSr .v 0x02 w = puts { x.arch with guarded := w.getLsbD 0 } ∧
    x.writeSr .m 0x02 w = { x with arch := { x.arch with guarded := w.getLsbD 0 }, groups := w.extractLsb' 8 4 } ∧
    x.writeSr k 0x05 w = puts { x.arch with trapCause := w &&& 0xE000000000FFFFFF } ∧
    x.writeSr k 0x06 w = puts { x.arch with trapStep := w } ∧
    x.writeSr k 0x07 w = puts { x.arch with trapInfo := w } ∧
    x.writeSr k 0x09 w = puts { x.arch with flags := x.arch.flags &&& ~~~(w.setWidth 8) } ∧
    x.writeSr k 0x0A w = puts { x.arch with seed := w } ∧
    x.writeSr k 0x0B w = puts { x.arch with vrb := w.setWidth 5 } ∧
    x.writeSr k 0x0C w = puts { x.arch with lc := w } ∧
    x.writeSr k 0x0D w = puts { x.arch with ec := w.setWidth 8 } ∧
    x.writeSr k 0x0E w = puts { x.arch with bwinBase := w.setWidth 28, bwinLimit := w.extractLsb' 32 28 } ∧
    (∀ n < 8,
      let p : Promise :=
        { pstep := w.extractLsb' 0 48, poison := w.getLsbD 60, retry := w.getLsbD 61, done := w.getLsbD 62, v := w.getLsbD 63 }
      x.writeSr k (0x10 + n) w = puts { x.arch with promise := x.arch.promise.setIfInBounds n p }) ∧
    (∀ n ∈ [0x00, 0x03, 0x04, 0x08, 0x0F], x.writeSr k n w = x)) ∧
  ∀ (s : State) (d c cls g n : Nat) (w : Word), d < 8 → c < 2 →
    let x := s.ctx d c
    let y := (s.applyAct d c cls g (.sysreg n w)).ctx d c
    (c = 0 → y = x.writeSr (kindOf d) n w) ∧ (c = 1 → y.arch.guarded = true)

/-! ### Cluster vector and predicate instructions (06 R141–R166) -/

/-- R22: the byte mask that a predicate selects at width w covers exactly the bytes of the selected elements, an element being
selected by the bit of its lowest byte, a 4-bit element by that of its byte. R76: an exact integer that its format holds is
kept; any other saturates and sets ISAT under 00, traps under 11 and wraps otherwise. R103: a draw steps the 64-bit xorshift
over SEED, whose zero stands for 0x9E37_79B9_7F4A_7C15, and is SEED[63:32]; only RND = 100 draws. -/
def Obligations.ElementRules : Prop :=
  (∀ (p : PReg) (b : Nat), b < 128 →
    (∀ w ∈ [8, 16, 32, 64], (selMask p w).getLsbD b = p.getLsbD (b / (w / 8) * (w / 8))) ∧
    (selMask p 4).getLsbD b = p.getLsbD b ∧
    (∀ w ∈ [8, 16, 32, 64], ∀ e, elemSel p w e = p.getLsbD (w / 8 * e)) ∧ ∀ e, elemSel p 4 e = p.getLsbD (e / 2)) ∧
  (∀ (f : Fmt) (n : Int) (ovf : Ovf), f.isInt = true →
    let fits : Prop := if f.isSigned then -(2 : Int) ^ (f.width - 1) ≤ n ∧ n < (2 : Int) ^ (f.width - 1) else 0 ≤ n ∧ n < (2 : Int) ^ f.width
    (fits → intValue f (intTo f n ovf).bits = n ∧ (intTo f n ovf).flags = 0 ∧ (intTo f n ovf).trap = false) ∧
    (¬ fits →
      (ovf = .trap → (intTo f n ovf).trap = true) ∧
      (ovf = .sat → intValue f (intTo f n ovf).bits = (if n < 0 then f.minInt else f.maxInt) ∧
        (intTo f n ovf).flags = flagISAT ∧ (intTo f n ovf).trap = false) ∧
      (ovf = .inf → ((intTo f n ovf).bits : Int) = n % 2 ^ f.width ∧ (intTo f n ovf).flags = 0 ∧ (intTo f n ovf).trap = false))) ∧
  (∀ (x : Word) (r : Rnd),
    let a := if x = 0 then 0x9E3779B97F4A7C15 else x.toNat
    let b := (a ^^^ a * 2 ^ 13) % 2 ^ 64
    let c := b ^^^ b / 2 ^ 7
    let d := (c ^^^ c * 2 ^ 17) % 2 ^ 64
    drawIf .st x = (BitVec.ofNat 64 d, d / 2 ^ 32) ∧ (r ≠ .st → drawIf r x = (x, 0)))

/-- R145, Table 6-1, integer formats: each selected element takes the exact result brought into the format by R76; VMULH takes
the high half of the product; VMIN and VMAX compare by the format's signedness. -/
def Obligations.VectorIntegerArithmetic : Prop :=
  ∀ (h : Hdr) (o : VRRRR) (i : VRRI) (s : State),
    let f := o.fmt
    let w := f.width
    let el : BitVec 6 → Nat → Nat → Int := fun r c e => intValue f (elemOf (s.arch.vreg c r) w e)
    f.isInt = true →
    (∃ t, exec (.vadd h o) s = .next t ∧ Elementwise h s 2 w o.d o.rnd false (fun c e _ => intTo f (el o.x c e + el o.y c e) o.ovf) t) ∧
    (∃ t, exec (.vsub h o) s = .next t ∧ Elementwise h s 2 w o.d o.rnd false (fun c e _ => intTo f (el o.x c e - el o.y c e) o.ovf) t) ∧
    (∃ t, exec (.vmul h o) s = .next t ∧ Elementwise h s 4 w o.d o.rnd false (fun c e _ => intTo f (el o.x c e * el o.y c e) o.ovf) t) ∧
    (∃ t, exec (.vabs h o) s = .next t ∧ Elementwise h s 2 w o.d o.rnd false (fun c e _ => intTo f (el o.x c e).natAbs o.ovf) t) ∧
    (∃ t, exec (.vneg h o) s = .next t ∧ Elementwise h s 2 w o.d o.rnd false (fun c e _ => intTo f (-el o.x c e) o.ovf) t) ∧
    (∃ t, exec (.vmulh h o) s = .next t ∧
      Exact h s 4 w o.d (fun c e => wrapTo w (el o.x c e * el o.y c e / 2 ^ w)) t) ∧
    (∃ t, exec (.vmin h o) s = .next t ∧ Exact h s 2 w o.d (fun c e => wrapTo w (min (el o.x c e) (el o.y c e))) t) ∧
    (∃ t, exec (.vmax h o) s = .next t ∧ Exact h s 2 w o.d (fun c e => wrapTo w (max (el o.x c e) (el o.y c e))) t) ∧
    (∃ t, exec (.vmulw h o) s = .next t ∧ Exact h s 4 (2 * w) o.d (fun c e =>
      let k := e + o.sub.toNat % 2 * (1024 / (2 * w))
      wrapTo (2 * w) (el o.x c k * el o.y c k)) t) ∧
    (i.fmt = f → ∃ t, exec (.vaddi h i) s = .next t ∧
      Elementwise h s 2 w i.d i.rnd false (fun c e _ => intTo f (el i.x c e + i.value h) i.ovf) t)

/-- R145, Table 6-1, float formats: the sum, difference, product and fused product of each selected element rounded once by R100
with a draw for each; VMIN and VMAX give the default NaN where an operand is a NaN, else the bits of the lesser or greater one,
−0 below +0; VABS and VNEG change the sign alone, of a NaN the default NaN. R89: under FTZ each reads a subnormal as a zero of its
sign (`flushBits`). -/
def Obligations.VectorFloatArithmetic : Prop :=
  ∀ (h : Hdr) (o : VRRRR) (s : State),
    let f := o.fmt
    let w := f.width
    let bitsOf : BitVec 6 → Nat → Nat → Nat := fun r c e => elemOf (s.arch.vreg c r) w e
    let v : BitVec 6 → Nat → Nat → XV := fun r c e => fpSource f o.ftz (bitsOf r c e)
    let kept : BitVec 6 → Nat → Nat → Nat := fun r c e => flushBits f o.ftz (bitsOf r c e)
    let rounded : Fmt → XRes → Nat → Rounded := fun g x u =>
      let r := roundTo g x.val o.rnd o.ovf o.ftz u
      { r with flags := r.flags ||| x.flags }
    f.isFloat = true →
    (∃ t, exec (.vadd h o) s = .next t ∧ Elementwise h s 4 w o.d o.rnd true (fun c e => rounded f ((v o.x c e).add o.rnd (v o.y c e))) t) ∧
    (∃ t, exec (.vsub h o) s = .next t ∧ Elementwise h s 4 w o.d o.rnd true (fun c e => rounded f ((v o.x c e).add o.rnd (v o.y c e).negate)) t) ∧
    (∃ t, exec (.vmul h o) s = .next t ∧ Elementwise h s 4 w o.d o.rnd true (fun c e => rounded f ((v o.x c e).mul (v o.y c e))) t) ∧
    (∃ t, exec (.vfma h o) s = .next t ∧ Elementwise h s 5 w o.d o.rnd true (fun c e => rounded f (XV.fma o.rnd (v o.x c e) (v o.y c e) (v o.z c e))) t) ∧
    (∃ t, exec (.vfms h o) s = .next t ∧ Elementwise h s 5 w o.d o.rnd true (fun c e => rounded f (XV.fma o.rnd (v o.x c e) (v o.y c e) (v o.z c e).negate)) t) ∧
    (∃ t, exec (.vmulw h o) s = .next t ∧ Elementwise h s 4 (2 * w) o.d o.rnd true (fun c e =>
      let k := e + o.sub.toNat % 2 * (1024 / (2 * w))
      rounded .f32 ((v o.x c k).mul (v o.y c k))) t) ∧
    (∃ r t, exec (.vmin h o) s = .next t ∧ Exact h s 4 w o.d r t ∧ ∀ c e,
      (v o.x c e = .nan ∨ v o.y c e = .nan → r c e = f.defaultNaN) ∧
      ((v o.x c e).lt (v o.y c e) = true → r c e = kept o.x c e) ∧ ((v o.y c e).lt (v o.x c e) = true → r c e = kept o.y c e) ∧
      ((v o.x c e).isZero = true → (v o.y c e).isZero = true →
        r c e = if (v o.x c e).neg? then kept o.x c e else kept o.y c e)) ∧
    (∃ r t, exec (.vmax h o) s = .next t ∧ Exact h s 4 w o.d r t ∧ ∀ c e,
      (v o.x c e = .nan ∨ v o.y c e = .nan → r c e = f.defaultNaN) ∧
      ((v o.x c e).lt (v o.y c e) = true → r c e = kept o.y c e) ∧ ((v o.y c e).lt (v o.x c e) = true → r c e = kept o.x c e) ∧
      ((v o.x c e).isZero = true → (v o.y c e).isZero = true →
        r c e = if (v o.x c e).neg? then kept o.y c e else kept o.x c e)) ∧
    (∃ r t, exec (.vabs h o) s = .next t ∧ Exact h s 2 w o.d r t ∧ ∀ c e,
      (fpValue f (bitsOf o.x c e) = .nan → r c e = f.defaultNaN) ∧
      (fpValue f (bitsOf o.x c e) ≠ .nan → r c e = kept o.x c e % 2 ^ (w - 1))) ∧
    (∃ r t, exec (.vneg h o) s = .next t ∧ Exact h s 2 w o.d r t ∧ ∀ c e,
      (fpValue f (bitsOf o.x c e) = .nan → r c e = f.defaultNaN) ∧
      (fpValue f (bitsOf o.x c e) ≠ .nan → r c e = (kept o.x c e + 2 ^ (w - 1)) % 2 ^ w)) ∧
    ∀ n, flushBits f false n = n ∧ (f.flushes = true → fpSubnormal f n = false → flushBits f true n = n) ∧
      (f.flushes = true → fpSubnormal f n = true → flushBits f true n = if n.testBit (w - 1) then 2 ^ (w - 1) else 0)

/-- R145, R151–R155: logic, shifts by y mod w, counts, the immediate, VSEL by its predicate, the broadcast of s[x], the index
ramp of VIDX, the shuffles of Table 6-3 and the copy of another cluster's part, for each selected element. R148, R163–R166:
compares and the predicate instructions write the bits of the selected elements: the condition, the logic of two predicates
(guarded bit by bit), moves between predicates and registers, the first selected element, the ramps of PSET. Table 6-2: the
conditions: of integers the comparison that the code names; of floats those of FCMP (ConvertAndCompareResults), or under TOT the
comparisons of the total order. R149: the total order: −∞ below the negative values, −0 below +0, the positive values below +∞,
and every NaN, all equal to one another, above +∞ or below −∞ as NAN says. -/
def Obligations.VectorMoves : Prop :=
  (∀ (h : Hdr) (o : VRRRR) (i : VRRI) (s : State),
    let f := o.fmt
    let w := f.width
    let n := 1024 / w
    let x : Nat → Nat → Nat := fun c e => elemOf (s.arch.vreg c o.x) w e
    let y : Nat → Nat → Nat := fun c e => elemOf (s.arch.vreg c o.y) w e
    let k := o.sub.toNat
    let iw := i.fmt.width
    let gives : Instr → Nat → (Nat → Nat → Nat) → Prop := fun ins lat r => ∃ t, exec ins s = .next t ∧ Exact h s lat w o.d r t
    let givesI : Instr → Nat → (Nat → Nat → Nat) → Prop := fun ins lat r => ∃ t, exec ins s = .next t ∧ Exact h s lat iw i.d r t
    gives (.vand h o) 2 (fun c e => x c e &&& y c e) ∧
    gives (.vor h o) 2 (fun c e => x c e ||| y c e) ∧
    gives (.vxor h o) 2 (fun c e => x c e ^^^ y c e) ∧
    gives (.vandn h o) 2 (fun c e => x c e &&& (2 ^ w - 1 - y c e)) ∧
    gives (.vshl h o) 2 (fun c e => x c e * 2 ^ (y c e % w) % 2 ^ w) ∧
    gives (.vshr h o) 2 (fun c e => x c e / 2 ^ (y c e % w)) ∧
    gives (.vshra h o) 2 (fun c e => wrapTo w ((BitVec.ofNat w (x c e)).toInt / 2 ^ (y c e % w))) ∧
    gives (.vpopc h o) 2 (fun c e => ((List.range w).filter fun b => (x c e).testBit b).length) ∧
    gives (.vclz h o) 2 (fun c e => if x c e = 0 then w else w - 1 - Nat.log2 (x c e)) ∧
    gives (.vsel h o) 2 (fun c e => if (s.arch.preg c o.z.toNat).getLsbD (w * e / 8) then x c e else y c e) ∧
    gives (.vbcs h o) 2 (fun _ _ => (s.s o.x).toNat % 2 ^ w) ∧
    gives (.vshuf h o) 3 (fun c e =>
      if k = 0 then x c (y c e % n)
      else if k = 1 then (if e % 2 = 0 then x c (e / 2) else y c (e / 2))
      else if k = 2 then (if e % 2 = 0 then x c (n / 2 + e / 2) else y c (n / 2 + e / 2))
      else if k = 3 then (if e < n / 2 then x c (2 * e) else y c (2 * (e - n / 2)))
      else if k = 4 then (if e < n / 2 then x c (2 * e + 1) else y c (2 * (e - n / 2) + 1))
      else if k = 5 then x c (n - 1 - e)
      else x c (if e % 2 = 0 then e + 1 else e - 1)) ∧
    givesI (.vmovi h i) 2 (fun _ _ => wrapTo iw (i.value h)) ∧
    givesI (.vidx h i) 2 (fun c e => wrapTo iw (i.value h +
      ((if i.sub.getLsbD 5 then c * (1024 / iw) + e else e) * (i.sub.toNat % 32) : Nat))) ∧
    givesI (.vxcp h i) 3 (fun c e => elemOf (s.arch.vreg
      (if (i.value h).toNat.testBit 3 then (c + (i.value h).toNat % 8) % 8 else (i.value h).toNat % 8) i.x) iw e)) ∧
  (∀ (h : Hdr) (o : VRRRR) (i : VRRI) (s : State),
    let w := o.fmt.width
    let n := 1024 / w
    let iw := i.fmt.width
    let x := fun c e => elemOf (s.arch.vreg c o.x) w e
    let px := fun c => s.arch.preg c o.x.toNat
    let selected := fun c => (List.range n).filter fun e => (px c).getLsbD (w * e / 8)
    let imm := (i.value h).toNat
    let logic : Instr → (PReg → PReg → PReg) → Prop := fun ins op => ∃ t, exec ins s = .next t ∧ t = { s with issue := { s.issue with
      acts := s.issue.acts ++ h.clusters.flatMap fun c =>
        if o.d = 0 ∨ s.arch.vguard c h = 0 then []
        else [(1, c + 2, .p c (physP s.arch.vrb o.d.toNat) (op (px c) (s.arch.preg c o.y.toNat)) (s.arch.vguard c h))] } }
    let selects : Instr → Nat → (Nat → Nat → Bool) → Prop := fun ins lat r => ∃ t, exec ins s = .next t ∧ Selects h s lat w o.d r t
    let selectsI : Instr → Nat → (Nat → Nat → Bool) → Prop := fun ins lat r => ∃ t, exec ins s = .next t ∧ Selects h s lat iw i.d r t
    (o.fmt.isInt = true → selects (.vcmp h o) 2 fun c e => vecIntCond (o.sub.toNat % 8) (intValue o.fmt (x c e))
      (intValue o.fmt (elemOf (s.arch.vreg c o.y) w e))) ∧
    (o.fmt.isFloat = true →
      let a := fun c e => fpSource o.fmt o.ftz (x c e)
      let b := fun c e => fpSource o.fmt o.ftz (elemOf (s.arch.vreg c o.y) w e)
      selects (.vcmp h o) 4 fun c e =>
        if o.sub.getLsbD 3 then vecTotCond (o.sub.toNat % 8) (o.sub.getLsbD 4) (a c e) (b c e)
        else fpCond (o.sub.toNat % 8) (a c e) (b c e)) ∧
    selectsI (.vcmpi h i) 2 (fun c e => vecIntCond (i.sub.toNat % 8) (intValue i.fmt (elemOf (s.arch.vreg c i.x) iw e)) (i.value h)) ∧
    logic (.pand h o) (fun a b => a &&& b) ∧ logic (.por h o) (fun a b => a ||| b) ∧
    logic (.pxor h o) (fun a b => a ^^^ b) ∧ logic (.pnot h o) (fun a _ => ~~~a) ∧
    (o.sub.toNat % 4 = 0 → selects (.pmov h o) 1 fun c e => (px c).getLsbD (w * e / 8)) ∧
    (o.sub.toNat % 4 = 1 → ∃ t, exec (.pmov h o) s = .next t ∧
      Exact h s 1 w o.d (fun c e => if (px c).getLsbD (w * e / 8) then 2 ^ w - 1 else 0) t) ∧
    (2 ≤ o.sub.toNat % 4 → selects (.pmov h o) 1 fun c e => decide (x c e ≠ 0)) ∧
    (selects (.pfirst h o) 1 fun c e => (selected c).head? == some e) ∧
    (∃ t, exec (.pcnt h o) s = .next t ∧ Exact h s 2 64 o.d (fun c _ => (selected c).length) t) ∧
    (i.sub = 0 → selectsI (.pset h i) 1 fun _ e => decide (e < imm)) ∧
    (i.sub = 1 → selectsI (.pset h i) 1 fun _ e => decide (imm ≤ e)) ∧
    (2 ≤ i.sub.toNat → selectsI (.pset h i) 1 fun _ e => decide (e % (imm % 256) = imm / 256 % 256))) ∧
  (∀ a b : Int,
    (vecIntCond 0 a b = true ↔ a = b) ∧ (vecIntCond 1 a b = true ↔ a ≠ b) ∧ (vecIntCond 2 a b = true ↔ a < b) ∧
    (vecIntCond 3 a b = true ↔ a ≤ b) ∧ (vecIntCond 4 a b = true ↔ b < a) ∧ (vecIntCond 5 a b = true ↔ b ≤ a)) ∧
  (∀ (first : Bool) (a b : XV),
    let less := totalLess first a b
    let more := totalLess first b a
    vecTotCond 0 first a b = (!less && !more) ∧ vecTotCond 1 first a b = (less || more) ∧ vecTotCond 2 first a b = less ∧
    vecTotCond 3 first a b = !more ∧ vecTotCond 4 first a b = more ∧ vecTotCond 5 first a b = !less) ∧
  (∀ (first n m : Bool) (a d b k : Nat) (e g : Int) (v : XV),
    totalLess first .nan .nan = false ∧
    (v ≠ .nan → totalLess first .nan v = first ∧ totalLess first v .nan = !first) ∧
    (totalLess first (.inf n) (.inf m) = true ↔ n = true ∧ m = false) ∧
    totalLess first (.inf true) (.fin n a d e) = true ∧ totalLess first (.fin n a d e) (.inf false) = true ∧
    totalLess first (.fin n a d e) (.inf true) = false ∧ totalLess first (.inf false) (.fin n a d e) = false ∧
    (a ≠ 0 ∨ b ≠ 0 → totalLess first (.fin n a d e) (.fin m b k g) = (XV.fin n a d e).lt (.fin m b k g)) ∧
    (totalLess first (.fin n 0 d e) (.fin m 0 k g) = true ↔ n = true ∧ m = false))

/-- R150, R156, R157: VCSWP compares each selected pair, integers in their order and floats in the total order of R149 under NAN and
FTZ, and moves the bits of the lesser element to d and of the greater to z, equal ones unchanged, landing together. VRNDI rounds
each selected element with a draw for it: a NaN gives the default NaN and no flag, an infinity or zero stays, any other value
gives exactly the integer of the grid of R102, NX telling whether it changed, with its sign, that of a zero result being the
model's choice (log 29). VCVT converts the part that y names,
with a draw for each of its selected elements where either format is a float one, leaves the other elements, and traps where one
overflows under policy 11. -/
def Obligations.VectorConversionResults : Prop :=
  (∀ (h : Hdr) (o : VRRRR) (s : State),
    let f := o.fmt
    let w := f.width
    let el : BitVec 6 → Nat → Nat → Nat := fun r c e => elemOf (s.arch.vreg c r) w e
    let src := cvtFrom o.sub
    let n := 1024 / max src.width w
    let base := if w ≤ src.width then o.y.toNat * n else 0
    let skip := if w ≤ src.width then 0 else o.y.toNat * n
    let part : Nat → List Nat := fun c => ((List.range n).map (base + ·)).filter fun e => elemSel (s.arch.vguard c h) w e
    let greater : Nat → Nat → Bool := fun c e =>
      if f.isInt then decide (intValue f (el o.y c e) < intValue f (el o.x c e))
      else totalLess (o.sub.getLsbD 0) (fpSource f o.ftz (el o.y c e)) (fpSource f o.ftz (el o.x c e))
    let lat := if f.isFloat then 4 else 2
    (∃ lo hi : Nat → VReg,
      (∀ c, ∀ e < 1024 / w,
        (greater c e = true → elemOf (lo c) w e = el o.y c e ∧ elemOf (hi c) w e = el o.x c e) ∧
        (greater c e = false → elemOf (lo c) w e = el o.x c e ∧ elemOf (hi c) w e = el o.y c e)) ∧
      exec (.vcswp h o) s = .next { s with issue := { s.issue with
        acts := s.issue.acts ++ h.clusters.flatMap fun c =>
          if s.chosen h w c = [] then []
          else
            let m := selMask (s.arch.vguard c h) w
            [(lat, c + 2, Act.v c (physV s.arch.vrb o.d.toNat) (lo c) m), (lat, c + 2, Act.v c (physV s.arch.vrb o.z.toNat) (hi c) m)] } }) ∧
    (∃ t, exec (.vrndi h o) s = .next t ∧ Elementwise h s 4 w o.d o.rnd true (fun c e => rndIntegral f o.ftz o.rnd (el o.x c e)) t) ∧
    ∃ t, exec (.vcvt h o) s = .next t ∧ ElementsOf h s part 4 w o.d o.rnd (src.isFloat || f.isFloat) (fun c e u =>
      roundElem f (elemValue src o.ftz (elemOf (s.arch.vreg c o.x) src.width (e - base + skip))) o.rnd o.ovf o.ftz u) t) ∧
  ∀ (f : Fmt) (ftz : Bool) (r : Rnd) (a u : Nat), f.isFloat = true →
    let out := rndIntegral f ftz r a u
    let v := fpSource f ftz a
    out.trap = false ∧
    (v = .nan → out.bits = f.defaultNaN ∧ out.flags = 0) ∧
    (∀ n, v = .inf n → out.bits = a ∧ out.flags = 0) ∧
    (v.isZero = true → out.bits = flushBits f ftz a ∧ out.flags = 0) ∧
    (∀ n k d e, v = .fin n k d e → k ≠ 0 →
      let whole := gridInt n k d e r u
      (fpValue f out.bits).eqv (.ofInt whole.1) = true ∧ (fpValue f out.bits).neg? = n ∧
      out.flags = if whole.2 then 0 else flagNX)

/-- R158, Table 6-4: VSF rounds its function of each selected element once, with a draw for each; the special results of the
table, for every representation of the value; the reciprocal is the exact quotient, log₂ of a power of two and 2^x of an integer
are exact. Where the value is no number of this kind, `specialFn` gives a number that stands for it: the model's choice (log 6). -/
def Obligations.SpecialFunctionResults : Prop :=
  (∀ (h : Hdr) (o : VRRRR) (s : State), ∃ t, exec (.vsf h o) s = .next t ∧
    Elementwise h s 12 o.fmt.width o.d o.rnd true (fun c e u =>
      let x := specialFn o.sub.toNat (fpSource o.fmt o.ftz (elemOf (s.arch.vreg c o.x) o.fmt.width e))
      let r := roundTo o.fmt x.val o.rnd o.ovf o.ftz u
      { r with flags := r.flags ||| x.flags }) t) ∧
  (∀ k, specialFn k .nan = ⟨.nan, 0⟩) ∧
  (∀ (n : Bool) (e : Int),
    specialFn 0 (.fin n 0 1 e) = ⟨.inf n, flagDZ⟩ ∧ (specialFn 0 (.inf n)).val.isZero = true ∧ (specialFn 0 (.inf n)).val.neg? = n ∧
    specialFn 1 (.fin n 0 1 e) = ⟨.inf n, flagDZ⟩ ∧ specialFn 1 (.inf true) = ⟨.nan, flagIV⟩ ∧ specialFn 1 (.inf false) = ⟨.fin false 0 1 0, 0⟩ ∧
    specialFn 2 (.inf true) = ⟨.fin false 0 1 0, 0⟩ ∧ specialFn 2 (.inf false) = ⟨.inf false, 0⟩ ∧
    specialFn 3 (.fin n 0 1 e) = ⟨.inf true, flagDZ⟩ ∧ specialFn 3 (.inf false) = ⟨.inf false, 0⟩ ∧
    (specialFn 4 (.fin n 0 1 e)).val = .fin n 0 1 e ∧ specialFn 4 (.inf n) = ⟨.fin n 1 1 0, 0⟩ ∧
    (specialFn 5 (.fin n 0 1 e)).val = .fin n 0 1 e ∧ specialFn 5 (.inf n) = ⟨.nan, flagIV⟩ ∧ specialFn 6 (.inf n) = ⟨.nan, flagIV⟩ ∧
    (specialFn 6 (.fin n 1 1 (-1))).val = .fin false 0 1 0) ∧
  (∀ (d : Nat) (e : Int) (k : Nat), 0 < k → specialFn 1 (.fin true k d e) = ⟨.nan, flagIV⟩ ∧ specialFn 3 (.fin true k d e) = ⟨.nan, flagIV⟩) ∧
  specialFn 3 (.inf true) = ⟨.nan, flagIV⟩ ∧
  (∀ (n : Bool) (a d : Nat) (e : Int), a ≠ 0 → 0 < d →
    specialFn 0 (.fin n a d e) = ⟨.fin n d a (0 - e), 0⟩ ∧
    ((XV.fin false 1 1 0).lt (.fin false a d e) = true →
      specialFn 5 (.fin n a d e) = ⟨.nan, flagIV⟩ ∧ specialFn 6 (.fin n a d e) = ⟨.nan, flagIV⟩)) ∧
  (∀ (n : Bool) (a : Nat), 0 < a → a < 2 ^ 13 → specialFn 2 (.fin n a 1 0) = ⟨.fin false 1 1 (if n then -(a : Int) else a), 0⟩) ∧
  ∀ (n : Bool) (j : Nat) (e : Int),
    specialFn 3 (.fin false (2 ^ j) 1 e) = ⟨.ofInt (j + e), 0⟩ ∧ specialFn 2 (.fin n 0 1 e) = ⟨.fin false 1 1 0, 0⟩ ∧
    specialFn 5 (.fin n (2 ^ j) 1 (-j)) = ⟨.fin n 0 1 0, 0⟩ ∧ specialFn 6 (.fin n (2 ^ j) 1 (-j - 1)) = ⟨.fin false 0 1 0, 0⟩ ∧
    specialFn 6 (.fin n 0 1 e) = ⟨.fin false 1 1 0, 0⟩

/-- R159–R162: in each cluster VQBLK tests its guard once, at byte 0, quantises its one or two blocks in order into a record and
lands the whole record after 10, or raises every trap that they meet. VDQ raises the stipple-malformed fault of a cluster whose
record fails the checks, where any element is selected, and otherwise gives each selected element the value of the record at its
block and place. R109, R110: with escapes enabled no element of a quantised block is the escape code; a NaN that is not elected
makes the scale of an HB4, HBI8 or HBI4 block NaN and sets IV; without escapes none is elected. R103, R104: the generator after a
block is that after one draw for each element that is not elected. R109: the election by rank, the base scale and its neighbours,
the choice of the candidate of least error, each element's code; R110: what is written for a NaN and an infinity. R111: the scale
entry, the stipple entries, what is written for outliers that do not fit. Table 6-5: where a record holds all this; R162: the
checks of a record and the value of an element. Tables 4-2 and 4-4, R94: the elements, the scales and their product. The flush of
VQBLK's sources under FTZ is the model's choice (log 28), as are the code of a zero block's elements (log 74) and an integer
−2^(w−1) under escapes (log 27). -/
def Obligations.BlockRecordResults : Prop :=
  (∀ (h : Hdr) (o : VRRRR) (i : VRRI) (s : State),
    let f := if o.sub.getLsbD 0 then Fmt.f32 else Fmt.bf16
    let imm := (i.value h).toNat
    let wide := imm.testBit 2
    let src := if wide then Fmt.f32 else Fmt.bf16
    let el := i.sub.toNat / 16
    let q : QParams := { fmt := i.fmt, fs8 := imm.testBit 0, e := if el = 3 then 4 else el, delta := i.sub.toNat % 16, rnd := i.rnd,
                         ovf := i.ovf, ftz := i.ftz }
    let block : Nat → Nat → List (Bool × XV) := fun c j => (List.range 32).map fun k =>
      let a := elemOf (s.arch.vreg c i.x) src.width (32 * j + k)
      (a.testBit (src.width - 1), fpSource src i.ftz a)
    let put := fun c (r : Record) j =>
      recordBlock q (imm.testBit 1) (imm / 2 ^ 3 % 2 ^ 4) (imm / 2 ^ 7 % 2 ^ 8 * 32 + if imm.testBit 15 then 128 * c else 0) j (block c j) r
    let record := fun c (seed : Word) =>
      let zero : Record := { seed := seed, dense := 0, scales := 0, entries := [], flags := 0, traps := [] }
      if wide then put c zero 0 else put c (put c zero 0) 1
    let one := fun (t : State) (c : Nat) =>
      let r := record c t.issue.seed
      let u : State := { t with issue := { t.issue with seed := r.seed } }
      if (s.arch.vguard c h).getLsbD 0 = false then t
      else if r.traps = [] then
        (u.emit 10 (c + 2) (.v c (physV s.arch.vrb i.d.toNat) r.value (BitVec.allOnes 128))).putFlags (c + 2) 10 r.flags
      else r.traps.foldl (fun u t => u.raise (c + 2) t.1 t.2 (some c)) u
    let bad := fun c => s.chosen h f.width c ≠ [] ∧ recordOk o.fmt (s.arch.vreg c o.x) = false
    exec (.vqblk h i) s = .next (h.clusters.foldl one s) ∧
    (∃ t, exec (.vdq h o) s = .next t ∧
      ∀ c ∈ h.clusters, bad c → { code := Cause.stippleMalformed, info := 0, cls := c + 2, clus := some c } ∈ t.issue.traps) ∧
    ((∀ c ∈ h.clusters, ¬ bad c) → ∃ t, exec (.vdq h o) s = .next t ∧
      Elementwise h s 6 f.width o.d o.rnd true (fun c e u => roundTo f
        (recValue o.fmt (s.arch.vreg c o.x) (if o.sub.getLsbD 0 then o.y.toNat else e / 32) (e % 32)) o.rnd o.ovf o.ftz u) t)) ∧
  (∀ (q : QParams) (x : List XV) (seed : Word), q.fmt.inHB = true → x.length = 32 →
    let b := (quantiseBlock q x seed).2
    (q.e = 0 → b.outliers = []) ∧ b.elems.length = 32 ∧
    (q.e ≠ 0 → ∀ v ∈ b.elems, v ≠ 2 ^ (q.fmt.width - 1)) ∧
    (q.fmt ∈ [Fmt.hb4, .hbi8, .hbi4] → (∃ i < 32, x[i]? = some .nan ∧ i ∉ b.outliers) →
      b.code = 0xFF ∧ b.flags &&& flagIV = flagIV) ∧
    (quantiseBlock q x seed).1 = drawn q.rnd (32 - b.outliers.length) seed) ∧
  (∀ (q : QParams) (x : List XV) (seed : Word), q.fmt.inHB = true → x.length = 32 → q.e ≤ 4 →
    (∀ n a d e, XV.fin n a d e ∈ x → 0 < d) →
    let b := (quantiseBlock q x seed).2
    let at' := fun i => x.getD i .nan
    let above := fun k i => rankAbove (at' k) (at' i) || (!rankAbove (at' i) (at' k) && decide (k < i))
    let rank := fun i => ((List.range 32).filter fun k => above k i).length
    let scaled : XV → XV := fun v => match v with
      | .fin n a d e => .fin n a d (e + q.delta)
      | v => v
    let rest := (List.range 32).filter fun i => !b.outliers.contains i
    let draw := fun i => (drawIf q.rnd (drawn q.rnd (rest.filter (· < i)).length seed)).2
    let fins := (rest.filter fun i => !(at' i).isNaN && !(at' i).isInf).map fun i => (i, at' i, draw i)
    let inf : Bool → Rounded := fun n =>
      if q.fmt = .hbi8 ∨ q.fmt = .hbi4 then intOverflow q.fmt n q.ovf else roundTo q.fmt.elem (.inf n) q.rnd q.ovf q.ftz 0
    let spoiled := !q.fmt.elem.hasNaN && rest.any fun i => (at' i).isNaN
    b.outliers = (List.range 32).filter (b.outliers.contains ·) ∧
    (∀ i < 32, i ∈ b.outliers ↔ rank i < q.e ∧ (at' i).isZero = false ∧
      ∀ k < 32, rank k = q.e → rankAbove (scaled (at' k)) (at' i) = false) ∧
    (∀ i ∈ rest, (at' i = .nan → b.elems[i]? = some (if q.fmt.elem.hasNaN then q.fmt.elem.defaultNaN else 0)) ∧
      ∀ n, at' i = .inf n → b.elems[i]? = some (inf n).bits) ∧
    ∃ (m : XV) (c : Candidate),
      (m = .fin false 0 1 0 ∨ ∃ p ∈ fins, m = p.2.1.abs) ∧ (∀ p ∈ fins, m.lt p.2.1.abs = false) ∧
      (let cs := (candidateCodes q m).map (tryScale q fins)
       c ∈ cs ∧ ∀ d ∈ cs, (c.err = none → d.err = none ∧ d.code ≤ c.code) ∧
        ∀ e g, c.err = some e → d.err = some g → dyadLe e g = true ∧ (dyadLe g e = true → d.code ≤ c.code)) ∧
      b.code = (if spoiled then 0xFF else c.code) ∧ (∀ p ∈ c.elems, b.elems[p.1]? = some p.2) ∧
      b.trap = (c.traps ++ rest.filter fun i => match at' i with
        | .inf n => (inf n).trap
        | _ => false).min?) ∧
  (∀ (q : QParams) (xs : List (Nat × XV × Nat)) (c : Nat),
    let t := tryScale q xs c
    let r := fun p : Nat × XV × Nat => quantiseElem q p.2.1 (scaleValue q.fs8 c) p.2.2
    t.code = c ∧ t.elems = xs.map (fun p => (p.1, (r p).1.bits)) ∧ t.flags = xs.foldl (fun f p => f ||| (r p).1.flags) 0 ∧
    t.traps = (xs.filter fun p => (r p).1.trap).map (·.1) ∧
    (q.ovf ≠ .sat → (∃ p ∈ xs, (r p).2 = true) → t.err = none) ∧
    (q.ovf = .sat ∨ (∀ p ∈ xs, (r p).2 = false) → t.err =
      some (xs.foldl (fun a p => dyadAdd a (errSq q.fmt p.2.1 (scaleValue q.fs8 c) (r p).1.bits)) (0, 0)))) ∧
  (∀ (a b : Nat × Int), let e := min a.2 b.2
    (dyadAdd a b = (a.1 * 2 ^ (a.2 - e).toNat + b.1 * 2 ^ (b.2 - e).toNat, e)) ∧
    (dyadLe a b = true ↔ a.1 * 2 ^ (a.2 - e).toNat ≤ b.1 * 2 ^ (b.2 - e).toNat)) ∧
  (∀ (f : Fmt) (x s : XV) (c : Nat) (n : Bool) (a : Nat) (e : Int),
    (x.add .ne (blockDecode (blockElem f c) s).negate).val = .fin n a 1 e → errSq f x s c = (a * a, 2 * e)) ∧
  (∀ (q : QParams) (m : XV), q.fmt.inHB = true → m.isNaN = false → m.isInf = false → m.neg? = false →
    let lo := if q.fs8 then 1 else 0
    let fits : Nat → Prop := fun c => ((XV.ofInt q.fmt.maxq).mul (scaleValue q.fs8 c)).val.lt m = false
    ([Fmt.hb8a, .hb8b, .hb4, .hbi8, .hbi4].map Fmt.maxq = [448, 57344, 6, 127, 7]) ∧
    (m.isZero = true → candidateCodes q m = [if q.fs8 then 0 else 0x7F]) ∧
    (m.isZero = false → ∃ base, lo ≤ base ∧ base ≤ 0xFE ∧ (fits base ∨ base = 0xFE) ∧ (∀ c, lo ≤ c → c < base → ¬ fits c) ∧
      ∀ c, c ∈ candidateCodes q m ↔ lo ≤ c ∧ c ≤ 0xFE ∧ base ≤ c + 1 ∧ c ≤ base + 1)) ∧
  (∀ (q : QParams) (x s : XV) (u : Nat), q.fmt.inHB = true →
    let w := q.fmt.width
    let y := if s.isZero then XV.fin x.neg? 0 1 0 else (x.div s).val
    let out := quantiseElem q x s u
    (q.fmt.intElems = false →
      let r := roundTo q.fmt.elem y q.rnd q.ovf q.ftz u
      out = ({ r with bits := if q.e ≠ 0 ∧ r.bits = 2 ^ (w - 1) then 0 else r.bits },
        r.trap || r.flags &&& (flagOF ||| flagSAT) != 0)) ∧
    (q.fmt.intElems = true → ∀ (n : Bool) (a d : Nat) (e : Int), y = .fin n a d e →
      let g := gridInt n a d e q.rnd u
      let lo : Int := if q.e ≠ 0 then 1 - 2 ^ (w - 1) else -2 ^ (w - 1)
      let hi : Int := 2 ^ (w - 1) - 1
      (lo ≤ g.1 → g.1 ≤ hi → out = ({ bits := wrapTo w g.1, flags := if g.2 then 0 else flagNX }, false)) ∧
      (g.1 < lo ∨ hi < g.1 → out.2 = true ∧
        (q.ovf = .trap → out.1.trap = true) ∧
        (q.ovf = .sat → out.1 = { bits := wrapTo w (if g.1 < 0 then lo else hi), flags := flagISAT }) ∧
        (q.ovf = .inf → out.1 = { bits := if q.e ≠ 0 ∧ wrapTo w g.1 = 2 ^ (w - 1) then wrapTo w lo else wrapTo w g.1 })))) ∧
  ((∀ v, rankAbove .nan v = !v.isNaN ∧ rankAbove v .nan = false) ∧
    ∀ (n m : Bool) (a d : Nat) (e : Int) (b k : Nat) (g : Int),
      rankAbove (.inf n) (.inf m) = false ∧ rankAbove (.inf n) (.fin m a d e) = true ∧ rankAbove (.fin m a d e) (.inf n) = false ∧
      rankAbove (.fin n a d e) (.fin m b k g) = (XV.fin false b k g).lt (.fin false a d e)) ∧
  (∀ (fs8 : Bool) (c : Nat), c < 0xFF →
    scaleValue fs8 0xFF = .nan ∧ (fs8 = false → scaleValue fs8 c = .fin false 1 1 ((c : Int) - 127)) ∧
    (fs8 = true → c < 8 → scaleValue fs8 c = .fin false c 1 (-14 - 3)) ∧
    (fs8 = true → 8 ≤ c → scaleValue fs8 c = .fin false (8 + c % 8) 1 (((c / 8 : Nat) : Int) - 15 - 3))) ∧
  (∀ (f : Fmt) (n : Nat) (v s : XV) (b : Bool) (a d k : Nat) (e g : Int), f.inHB = true →
    blockElem f n = (if f = .hbi8 then .ofInt (BitVec.ofNat 8 n).toInt else if f = .hbi4 then .ofInt (BitVec.ofNat 4 n).toInt
      else fpValue f.elem n) ∧
    [Fmt.hb8a, .hb8b, .hb4].map Fmt.elem = [.f8a, .f8b, .f4] ∧
    blockDecode v .nan = .nan ∧ blockDecode .nan s = .nan ∧ blockDecode (.inf b) (.fin false 0 d e) = .nan ∧
    (k ≠ 0 → blockDecode (.inf b) (.fin false k 1 g) = .inf b) ∧
    blockDecode (.fin b a d e) (.fin false k 1 g) = .fin b (a * k) d (e + g)) ∧
  (∀ (f : Fmt) (v : VReg), f.inHB = true →
    let w := f.width
    let entry := fun j => elemOf v 32 (18 + j)
    let header := fun b => elemOf v 8 (65 + 2 * b)
    let count := fun b => header b / 4 % 2 ^ 6
    let marks := fun b => (List.range 32).filter fun i => elemOf v w (32 * b + i) == 2 ^ (w - 1)
    let escapes := [0, 1].flatMap fun b => if (header b).testBit 1 then (marks b).map fun i => (b, i) else []
    (recordOk f v = true ↔
      (∀ b < 2, count b ≤ 32 ∧ count b = if (header b).testBit 1 then (marks b).length else 0) ∧
      elemOf v 8 68 ≤ 8 ∧ count 0 + count 1 ≤ elemOf v 8 68 ∧
      ∀ j p, escapes[j]? = some p → (entry j).testBit 31 = false ∧ entry j / 2 ^ 16 % 2 ^ 5 = p.2) ∧
    ∀ b < 2, ∀ i < 32,
      let scale := scaleValue ((header b).testBit 0) (elemOf v 8 (64 + 2 * b))
      (∀ j, escapes[j]? = some (b, i) → recValue f v b i = if scale = .nan then .nan else fpValue .bf16 (entry j % 2 ^ 16)) ∧
      ((b, i) ∉ escapes → recValue f v b i = blockDecode (blockElem f (elemOf v w (32 * b + i))) scale)) ∧
  (∀ r : Record, r.dense < 2 ^ 512 → r.scales < 2 ^ 32 → r.entries.length ≤ 8 → (∀ n ∈ r.entries, n < 2 ^ 32) →
    (∀ i < 64, elemOf r.value 8 i = r.dense / 2 ^ (8 * i) % 2 ^ 8) ∧
    elemOf r.value 16 32 = r.scales % 2 ^ 16 ∧ elemOf r.value 16 33 = r.scales / 2 ^ 16 ∧
    elemOf r.value 8 68 = r.entries.length ∧ (∀ i, 69 ≤ i → i < 72 → elemOf r.value 8 i = 0) ∧
    (∀ j < 8, elemOf r.value 32 (18 + j) = r.entries.getD j 0) ∧ ∀ i, 104 ≤ i → i < 128 → elemOf r.value 8 i = 0) ∧
  ∀ (q : QParams) (cp : Bool) (cap base j : Nat) (x : List (Bool × XV)) (r : Record),
    let b := (quantiseBlock q (x.map (·.2)) r.seed).2
    let t := recordBlock q cp cap base j x r
    let room := cap - r.entries.length
    (b.outliers.length ≤ room → t.entries.length = r.entries.length + b.outliers.length) ∧
    (room < b.outliers.length → t.entries.length = r.entries.length + room ∧
      (cp = true → (Cause.stippleOverflow, cap) ∈ t.traps) ∧ (cp = false → t.flags &&& flagSCLIP = flagSCLIP)) ∧
    (∀ n ∈ t.entries.drop r.entries.length, ∃ i ∈ b.outliers, n / 2 ^ 16 = (base + 32 * j + i) % 2 ^ 15) ∧
    (let w := q.fmt.width
     let kept := b.outliers.take room
     let lost := room < b.outliers.length
     let old := fun i => x.getD i (false, .nan)
     let code := fun i e => if i ∈ kept then 2 ^ (w - 1) else if i ∈ b.outliers then q.fmt.clipCode (old i).1 else e
     t.entries = r.entries ++ kept.map (fun i => (base + 32 * j + i) % 2 ^ 15 * 2 ^ 16 + (roundTo .bf16 (old i).2 .ne .inf false 0).bits) ∧
     t.scales = r.scales + ((b2n q.fs8 + 2 * (if q.e = 0 then 0 else 1) + 4 * kept.length) * 2 ^ 8 + b.code) * 2 ^ (16 * j) ∧
     t.flags = r.flags ||| b.flags ||| (if lost ∧ cp = false then flagSCLIP else 0) ∧
     t.traps = r.traps ++ (if lost ∧ cp = true then [(Cause.stippleOverflow, cap)] else []) ++
       (b.trap.map fun i => (Cause.overflow, 32 * j + i)).toList ∧
     (r.dense < 2 ^ (32 * w * j) → t.dense % 2 ^ (32 * w * j) = r.dense ∧
       ∀ i e, b.elems[i]? = some e → t.dense / 2 ^ (32 * w * j + w * i) % 2 ^ w = code i e % 2 ^ w)) ∧
    ∀ n : Bool, Fmt.clipCode .hbi8 n = (if n then 0x81 else 0x7F) ∧ Fmt.clipCode .hbi4 n = (if n then 0x9 else 0x7) ∧
      Fmt.clipCode .hb8a n = (if n then 0xFE else 0x7E) ∧ Fmt.clipCode .hb8b n = (if n then 0xFB else 0x7B) ∧
      Fmt.clipCode .hb4 n = if n then 0xF else 0x7

/-! ### The reduction slot (06 R168–R174) -/

/-- R168–R174, every format: under policies that do not trap, a reduction records its result for a reduction latch or the vector
registers with its flags, at the latency of its instruction; under policy 11 it does so or raises the overflow trap alone. RDRN
copies the bits where the formats are equal, and under RND 100 draws for each element where either format is a float one. RCLR
clears its latch after 1. R168–R172 for integer formats, under every policy: the sums are exact and R76 applies once to each
final value. RACC and RSUM add the selected elements, RMAX and RMIN take the extreme (that of no element is the format's other
end), RARGMAX gives the first greatest element with its index, RSCAN and RSEG the running sums with the carry of latch z,
exclusive under EXCL. R171, float formats: a NaN among the elements gives the default NaN, no element gives an infinity.
R169–R172 for float formats: every combination is a rounding with its own draw, an absent operand gives the other; RSUM and RACC
combine along the tree (`TreeOf`), RACC then with the latch element; RARGMAX takes the first greatest in the total order; RSCAN
and RSEG combine in the order of the scan (`ScanOf`, `CarryOf`); RCMB combines the two latches element by element. -/
def Obligations.ReductionResults : Prop :=
  (∀ (h : Hdr) (o : VRRRR) (s : State), s.guardOn h = true →
    let cls := h.cls.toNat
    let all := BitVec.allOnes 128
    let ends : Instr → Nat → (State → State → Prop) → Prop := fun i lat records =>
      ∃ (seed : Word) (fl : Flags) (t : State), records { s with issue := { s.issue with seed := seed } } t ∧
        (o.ovf ≠ .trap → exec i s = .next (t.putFlags cls lat fl)) ∧
        (o.ovf = .trap → exec i s = .next (t.putFlags cls lat fl) ∨
          ∃ g, exec i s = .next ({ s with issue := { s.issue with seed := seed } }.raise cls Cause.overflow g))
    let reg : Nat → VReg → Act := fun c v => Act.v c (physV s.arch.vrb o.d.toNat) v all
    let src := cvtFrom o.z
    let n := 1024 / max src.width o.fmt.width
    let draws := if src.isFloat || o.fmt.isFloat then n else 0
    let clusters := if o.sub.getLsbD 3 then List.range 8 else [o.sub.toNat % 8]
    ends (.racc h o) 6 (fun t u => ∃ v m, u = t.emit 6 cls (.a o.d.toNat v m)) ∧
    ends (.rsum h o) 9 (fun t u => ∃ v, u = t.emit 9 cls (.a o.d.toNat v all)) ∧
    (∃ v, exec (.rmax h o) s = .next (s.emit 9 cls (.a o.d.toNat v all))) ∧
    (∃ v, exec (.rmin h o) s = .next (s.emit 9 cls (.a o.d.toNat v all))) ∧
    (∃ v, exec (.rargmax h o) s = .next (s.emit 9 cls (.a o.d.toNat v all))) ∧
    (∀ i ∈ [Instr.rscan h o, Instr.rseg h o], ends i 11 fun t u => ∃ (vs : Nat → VReg) (z : VReg),
      u = (((List.range 8).foldl (fun t c => t.emit 11 cls (reg c (vs c))) t).emit 11 cls
        (.a o.z.toNat z (coverMask o.fmt.width [0])))) ∧
    ends (.rdrn h o) 4 (fun t u => ∃ v, t.issue.seed = drawn o.rnd draws s.issue.seed ∧
      u = clusters.foldl (fun t c => t.emit 4 cls (reg c v)) t ∧
      (o.rnd ≠ .st → src ≠ o.fmt → ∀ e < n, elemOf v o.fmt.width e = (roundElem o.fmt (elemValue src o.ftz
        (elemOf (s.arch.areg o.x.toNat) src.width e)) o.rnd o.ovf o.ftz 0).bits % 2 ^ o.fmt.width) ∧
      ∀ e, n ≤ e → elemOf v o.fmt.width e = 0) ∧
    (src = o.fmt → exec (.rdrn h o) s = .next (clusters.foldl (fun t c => t.emit 4 cls (reg c (s.arch.areg o.x.toNat)))
      { s with issue := { s.issue with seed := drawn o.rnd draws s.issue.seed } })) ∧
    exec (.rclr h o) s = .next (s.emit 1 cls (.a o.d.toNat 0 all)) ∧
    ends (.rcmb h o) 6 (fun t u => ∃ v, u = t.emit 6 cls (.a o.d.toNat v all))) ∧
  (∀ (h : Hdr) (o : VRRRR) (s : State), s.guardOn h = true → o.fmt.inVI = true →
    let f := o.fmt
    let w := f.width
    let n := 1024 / w
    let cls := h.cls.toNat
    let all := BitVec.allOnes 128
    let sel := (List.range (8 * n)).filter fun g => s.arch.fullSel o.y.toNat w g
    let el := fun g => intValue f (s.arch.fullElem o.x w g)
    let old : BitVec 6 → Nat → Int := fun r e => intValue f (elemOf (s.arch.areg r.toNat) w e)
    -- the elements of a source: those of the vector that the predicate selects, or those of a latch
    let cells : List (Nat × Int) := if o.sub.getLsbD 0 then (List.range n).map fun e => (e, old o.x e) else sel.map fun g => (g, el g)
    let bitsOf : Nat → Nat := fun g =>
      if o.sub.getLsbD 0 then elemOf (s.arch.areg o.x.toNat) w g else s.arch.fullElem o.x w g
    let word : Nat → VReg := fun v => BitVec.ofNat 1024 v
    let sum : List Nat → Int := fun gs => (gs.map el).sum
    let fit : Int → Rounded := fun v => intTo f v o.ovf
    -- each final value under R76: the first that traps, or the record with the flags of all
    let finals : Nat → List (Nat × Int) → State → Res := fun lat vs t =>
      match vs.find? fun v => (fit v.2).trap with
      | some v => .next (s.raise cls Cause.overflow v.1)
      | none => .next (t.putFlags cls lat (vs.foldl (fun fl v => fl ||| (fit v.2).flags) 0))
    let head := fun g => s.arch.fullSel o.y.toNat w g
    let run := fun g => (List.range (g + 1)).filter fun k => (List.range (g + 1)).all fun j => !(decide (k < j) && head j)
    let scanned := fun g => old o.z 0 + sum (sel.filter (· ≤ g))
    let segged := fun g => sum (run g) + (if (List.range (g + 1)).any head then 0 else old o.z 0)
    let before : (Nat → Int) → Nat → Int := fun inc g => if g = 0 then old o.z 0 else inc (g - 1)
    let excl := o.sub.getLsbD 0
    let scans : Instr → (Nat → Int) → (Nat → Int) → Prop := fun i inc out => ∃ vs : Nat → VReg,
      exec i s = finals 11 ((List.range (8 * n)).map (fun g => (g, out g)) ++ [(8 * n - 1, inc (8 * n - 1))])
        (((List.range 8).foldl (fun t c => t.emit 11 cls (.v c (physV s.arch.vrb o.d.toNat) (vs c) all)) s).emit 11 cls
          (.a o.z.toNat (word (fit (inc (8 * n - 1))).bits) (coverMask w [0]))) ∧
      ∀ c < 8, ∀ e < n, elemOf (vs c) w e = (fit (out (c * n + e))).bits
    let added := (List.range n).filter fun e => sel.any fun g => g % n == e
    let accum := fun e => old o.d e + sum (sel.filter fun g => g % n == e)
    let combined := fun e => if o.sub.toNat % 4 = 0 then old o.x e + old o.y e
        else if o.sub.toNat % 4 = 1 then max (old o.x e) (old o.y e) else min (old o.x e) (old o.y e)
    (∃ v, exec (.racc h o) s = finals 6 (added.map fun e => (e, accum e)) (s.emit 6 cls (.a o.d.toNat v (coverMask w added))) ∧
      ∀ e ∈ added, elemOf v w e = (fit (accum e)).bits) ∧
    exec (.rsum h o) s = finals 9 [(0, (cells.map (·.2)).sum)]
      (s.emit 9 cls (.a o.d.toNat (word (fit (cells.map (·.2)).sum).bits) all)) ∧
    exec (.rmax h o) s = .next (s.emit 9 cls (.a o.d.toNat (word (wrapTo w ((cells.map (·.2)).foldr max f.minInt))) all)) ∧
    exec (.rmin h o) s = .next (s.emit 9 cls (.a o.d.toNat (word (wrapTo w ((cells.map (·.2)).foldr min f.maxInt))) all)) ∧
    (cells = [] → exec (.rargmax h o) s = .next (s.emit 9 cls (.a o.d.toNat (word 0xFFFFFFFF) all))) ∧
    (∀ p ∈ cells, (∀ k ∈ cells, k.2 ≤ p.2 ∧ (k.1 < p.1 → k.2 < p.2)) →
      exec (.rargmax h o) s = .next (s.emit 9 cls (.a o.d.toNat (word (p.1 + bitsOf p.1 * 2 ^ 64)) all))) ∧
    scans (.rscan h o) scanned (if excl then before scanned else scanned) ∧
    scans (.rseg h o) segged (if excl then fun g => if head g then 0 else before segged g else segged) ∧
    (∃ v, exec (.rcmb h o) s = finals 6 ((List.range n).map fun e => (e, combined e)) (s.emit 6 cls (.a o.d.toNat v all)) ∧
      ∀ e < n, elemOf v w e = (fit (combined e)).bits)) ∧
  (∀ (o : VRRRR) (v : XV) (codes : List Nat) (max : Bool), o.fmt.isFloat = true →
    let vs := codes.map (fpSource o.fmt o.ftz)
    (XV.nan ∈ vs → pickBest max vs = some .nan) ∧
    (XV.nan ∉ vs → v ∈ vs → ∃ u ∈ vs, pickBest max vs = some u ∧ ∀ x ∈ vs, (if max then u.totalLt x else x.totalLt u) = false) ∧
    pickBest max [] = none ∧ pickNone o.fmt max = .inf max) ∧
  (∀ (o : VRRRR) (g : Nat) (k : Work) (a b : XV) (c : Option XV),
    comb o g k none c = (k, c) ∧ comb o g k c none = (k, c) ∧
    (o.fmt.isInt = true → comb o g k (some a) (some b) = (k, some (a.add o.rnd b).val)) ∧
    (o.fmt.isInt = false →
      let draw := drawIf o.rnd k.seed
      let r := roundTo o.fmt (a.add o.rnd b).val o.rnd o.ovf o.ftz draw.2
      ∃ k' : Work, comb o g k (some a) (some b) = (k', some (fpValue o.fmt r.bits)) ∧ k'.seed = draw.1 ∧
        k'.flags = k.flags ||| (r.flags ||| (a.add o.rnd b).flags) ∧
        (k.trap ≠ none ∨ r.trap = false → k'.trap = k.trap) ∧ (k.trap = none → r.trap = true → k'.trap = some g))) ∧
  (∀ (h : Hdr) (o : VRRRR) (s : State), s.guardOn h = true → o.fmt.inVF = true →
    let f := o.fmt
    let w := f.width
    let m := 10 - Nat.log2 w
    let n := 2 ^ m
    let cls := h.cls.toNat
    let all := BitVec.allOnes 128
    let value : Nat → XV := fpSource f o.ftz
    let code : XV → Nat := fun v => (roundTo f v .ne .inf false 0).bits
    let latch : BitVec 6 → Nat → XV := fun r e => value (elemOf (s.arch.areg r.toNat) w e)
    let el := fun g => value (s.arch.fullElem o.x w g)
    let picked := fun g => s.arch.fullSel o.y.toNat w g
    let cell : Nat → Option XV := fun g => if picked g then some (el g) else none
    let src := o.sub.getLsbD 0
    let excl := src
    let start : Work := { seed := s.issue.seed, flags := 0, trap := none }
    let ends : Instr → Nat → Work → (State → State) → Prop := fun i lat k records =>
      let t := { s with issue := { s.issue with seed := k.seed } }
      (k.trap = none → exec i s = .next ((records t).putFlags cls lat k.flags)) ∧
      ∀ g, k.trap = some g → exec i s = .next (t.raise cls Cause.overflow g)
    let scan : Instr → Bool → (Nat → Option XV) → (Nat → Bool) → Prop := fun i seg t heads =>
      ∃ (k k' : Work) (t' : Nat → Option XV) (f' : Nat → Bool) (inc : Nat → XV) (vs : Nat → VReg),
        ScanOf o (m + 3) start t heads k t' f' ∧ CarryOf o (8 * n) (latch o.z 0) k t' f' k' inc ∧
        ends i 11 k' (fun t => ((List.range 8).foldl (fun t c =>
          t.emit 11 cls (.v c (physV s.arch.vrb o.d.toNat) (vs c) all)) t).emit 11 cls
            (.a o.z.toNat (BitVec.ofNat 1024 (code (inc (8 * n - 1)))) (coverMask w [0]))) ∧
        ∀ c < 8, ∀ e < n, let g := c * n + e
          elemOf (vs c) w e = if excl = false then code (inc g) else if seg = true ∧ picked g = true then 0
            else code (if g = 0 then latch o.z 0 else inc (g - 1))
    (∃ k v, TreeOf o 0 (if src then m else m + 3) start (if src then fun e => some (latch o.x e) else cell) k v ∧
      ends (.rsum h o) 9 k fun t => t.emit 9 cls (.a o.d.toNat (BitVec.ofNat 1024 ((v.map code).getD 0)) all)) ∧
    (∃ (work : Nat → Work) (out : Nat → Option XV) (r : VReg), work 0 = start ∧
      (∀ e < n, ∃ k v, TreeOf o e 3 (work e) (fun c => cell (c * n + e)) k v ∧
        (work (e + 1), out e) = if v = none then (k, none) else comb o e k (some (latch o.d e)) v) ∧
      (∀ e < n, ∀ v, out e = some v → elemOf r w e = code v) ∧
      ends (.racc h o) 6 (work n) fun t =>
        t.emit 6 cls (.a o.d.toNat r (coverMask w ((List.range n).filter fun e => (out e).isSome)))) ∧
    (let cells := (List.range (if src then n else 8 * n)).filter fun g => src || picked g
     let bitsOf := fun g => if src then elemOf (s.arch.areg o.x.toNat) w g else s.arch.fullElem o.x w g
     let less : Nat → Nat → Bool := fun a b => totalLess (o.sub.getLsbD 1) (value (bitsOf a)) (value (bitsOf b))
     (cells = [] → exec (.rargmax h o) s = .next (s.emit 9 cls (.a o.d.toNat (BitVec.ofNat 1024 0xFFFFFFFF) all))) ∧
     (∀ p ∈ cells, (∀ k ∈ cells, less p k = false ∧ (k < p → less k p = true)) →
       exec (.rargmax h o) s = .next (s.emit 9 cls (.a o.d.toNat (BitVec.ofNat 1024 (p + bitsOf p * 2 ^ 64)) all))) ∧
     (∃ vs, vs = cells.map (fun g => value (bitsOf g)) ∧
       exec (.rmax h o) s = .next (s.emit 9 cls (.a o.d.toNat (BitVec.ofNat 1024 (code ((pickBest true vs).getD (.inf true)))) all)) ∧
       exec (.rmin h o) s = .next (s.emit 9 cls (.a o.d.toNat (BitVec.ofNat 1024 (code ((pickBest false vs).getD (.inf false)))) all)))) ∧
    scan (.rscan h o) false cell (fun _ => false) ∧ scan (.rseg h o) true (fun g => some (el g)) picked ∧
    ∃ (work : Nat → Work) (out : Nat → XV) (r : VReg), work 0 = start ∧
      (∀ e < n, (work (e + 1), some (out e)) = if o.sub.toNat % 4 = 0 then comb o e (work e) (some (latch o.x e)) (some (latch o.y e))
        else (work e, pickBest (o.sub.toNat % 4 == 1) [latch o.x e, latch o.y e])) ∧
      (∀ e < n, elemOf r w e = code (out e)) ∧ ends (.rcmb h o) 6 (work n) fun t => t.emit 6 cls (.a o.d.toNat r all))

/-! ### Indexed access, the tag table, scatter (07 R189–R199) -/

/-- R189–R193, Tables 1-3 and 1-4: IXPUSH without a tag window faults, on a full queue it holds a guarded context and traps an
exposed one, and otherwise reserves a DQ entry at the end of its step and enters AQ one step later with its descriptor or base,
stride, element size and the indices that its predicate selects. IXPOP holds or traps on a waiting head, traps on an empty queue
and on a poisoned head with the cause of its fault, and else frees the head and lands its elements in vd of all clusters after 2.
R27: AQ's occupancy counts an entry from its push on, before it has entered AQ. IXCNT reads it, the entries of DQ, and the state
and the hits of DQ's head; IXCLR clears both queues. -/
def Obligations.IndexedQueueResults : Prop :=
  ∀ (h : Hdr) (o : Idx) (s : State), s.guardOn h = true →
    let a := s.arch
    let cls := h.cls.toNat
    let full : Nat → State := fun n => if a.guarded then s.holdGroup else s.raise cls Cause.queueOverflow n
    let waiting := if a.guarded then s.holdGroup else s.raise cls Cause.timing 2
    let tagless : Prop := o.tk = 2 ∧ s.me.ten = false
    let w := o.fmt.width
    let first := if o.sub.getLsbD 2 then 128 else 0
    (tagless → exec (.ixpush h o) s = .next (s.raise cls Cause.ownership s.issue.die)) ∧
    (¬ tagless → 32 ≤ a.aqOccupancy → exec (.ixpush h o) s = .next (full 0)) ∧
    (¬ tagless → a.aqOccupancy < 32 → 32 ≤ a.dq.length → exec (.ixpush h o) s = .next (full 1)) ∧
    (¬ tagless → a.aqOccupancy < 32 → a.dq.length < 32 → ∃ (e : DqEntry) (q : AqEntry),
      exec (.ixpush h o) s = .next (({ s with nextId := s.nextId + 1 }.emit 0 cls (.dqPush e q)).emit 1 cls (.aqPush q)) ∧
      q.id = s.nextId ∧ q.tk = o.tk.toNat ∧ q.size = 2 ^ (o.sub.toNat % 4) ∧ q.base = (s.s o.y).toNat ∧ q.stride = o.value h ∧
      (∀ g < 128, q.idx[g]? = some (if a.fullSel o.d.toNat w (first + g) then some (intValue o.fmt (a.fullElem o.x w (first + g))) else none)) ∧
      e.id = q.id ∧ e.status = .wait ∧ e.size = q.size ∧ e.tk = q.tk ∧
      ∀ g, g ∈ e.waiting ↔ g < 128 ∧ a.fullSel o.d.toNat w (first + g) = true) ∧
    (a.dq = [] → exec (.ixpop h o) s = .next (s.raise cls Cause.queueUnderflow 1)) ∧
    (∀ e rest, a.dq = e :: rest →
      (e.status = .wait → exec (.ixpop h o) s = .next waiting) ∧
      (∀ g t, e.status = .poisoned g t → ∃ info, exec (.ixpop h o) s = .next (s.raise cls t.code info)) ∧
      (e.status = .landed → ∃ v : Nat → VReg,
        exec (.ixpop h o) s = .next ((List.range 8).foldl (fun t c => t.emit 2 cls (.v c (physV a.vrb o.d.toNat) (v c) (BitVec.allOnes 128)))
          (s.emit 0 cls (.dqPop e.id))) ∧
        ∀ c < 8, ∀ k < 1024 / w, elemOf (v c) w k = if c * (1024 / w) + k < 128 then dqElem e o.fmt (c * (1024 / w) + k) % 2 ^ w else 0)) ∧
    (∃ v : Word, exec (.ixcnt h o) s = .next (s.emit 1 cls (.s o.d.toNat v)) ∧
      (o.sub = 0 → v = BitVec.ofNat 64 a.aqOccupancy) ∧ (o.sub = 1 → v = BitVec.ofNat 64 a.dq.length) ∧
      (o.sub = 2 → v = BitVec.ofNat 64 (a.dq.filter fun e => e.status != .wait).length) ∧
      (o.sub = 3 → a.dq = [] → v = 0) ∧
      (∀ e rest, a.dq = e :: rest → (o.sub = 3 → e.status = .wait → v = 1) ∧ (o.sub = 3 → e.status = .landed → v = 2) ∧
        (∀ g t, o.sub = 3 → e.status = .poisoned g t → v = 3) ∧
        (o.sub = 4 → e.status = .landed → e.tk = 2 → v = e.hits.setWidth 64) ∧
        (o.sub = 5 → e.status = .landed → e.tk = 2 → v = e.hits.extractLsb' 64 64) ∧
        (o.sub = 4 ∨ o.sub = 5 → e.status ≠ .landed ∨ e.tk ≠ 2 → v = 0)) ∧
      (a.dq = [] → o.sub = 4 ∨ o.sub = 5 → v = 0)) ∧
    a.aqOccupancy = a.aq.length + (a.landing.filter fun l => match l.act with | .aqPush _ => true | _ => false).length ∧
    exec (.ixclr h o) s = .next (s.emit 0 cls .ixclr)

/-- R194, R195, Table 7-10: a context without a tag window, and a slot outside it, fault with ownership; otherwise TLOOK lands
the hit, the lowest free way or the full set of its key after 4, TLOOK word and key a half of an entry, and TSET, TCLR and TCLR
all change entries of the window after 4. -/
def Obligations.TagTableResults : Prop :=
  ∀ (h : Hdr) (o : Idx) (s : State), s.guardOn h = true →
    let cls := h.cls.toNat
    let lands : Nat → Res := fun v => .next (s.emit 4 cls (.s o.d.toNat (BitVec.ofNat 64 v)))
    let fault : Res := .next (s.raise cls Cause.ownership s.issue.die)
    let inWindow : Nat → Prop := fun n => s.me.tbase ≤ n / 4 ∧ n / 4 < s.me.tbase + 2 ^ s.me.tlog
    let set := tagSet s.me.tbase s.me.tlog (s.s o.x)
    let entry := fun n => SMap.get s.myDie.tags n
    let hit : Nat → Prop := fun n => (entry n).getLsbD 95 = true ∧ (entry n).extractLsb' 0 64 = s.s o.x
    let n := (s.s o.x).toNat % 2 ^ 12
    let m := (s.s o.d).toNat % 2 ^ 12
    (s.me.ten = false → ∀ i ∈ [Instr.tlook h o, Instr.tlookRead h o, Instr.tset h o, Instr.tclr h o, Instr.tclrAll h o], exec i s = fault) ∧
    (s.me.ten = true →
      (∀ w < 4, hit (4 * set + w) → (∀ u < w, ¬ hit (4 * set + u)) →
        exec (.tlook h o) s = lands (4 * set + w + ((entry (4 * set + w)).extractLsb' 64 28).toNat * 2 ^ 32)) ∧
      ((∀ w < 4, ¬ hit (4 * set + w)) →
        (∀ w < 4, (entry (4 * set + w)).getLsbD 95 = false → (∀ u < w, (entry (4 * set + u)).getLsbD 95 = true) →
          exec (.tlook h o) s = lands (2 ^ 63 + 2 ^ 62 + (4 * set + w))) ∧
        ((∀ w < 4, (entry (4 * set + w)).getLsbD 95 = true) → exec (.tlook h o) s = lands (2 ^ 63 + 4 * set))) ∧
      (inWindow n → exec (.tlookRead h o) s = .next (s.emit 4 cls (.s o.d.toNat
        (if o.sub.getLsbD 0 then (entry n).extractLsb' 64 64 else (entry n).extractLsb' 0 64)))) ∧
      (¬ inWindow n → exec (.tlookRead h o) s = fault) ∧
      (∃ v : BitVec 128, exec (.tset h o) s = .next (s.emit 4 cls
          (.tag (4 * tagSet s.me.tbase s.me.tlog (s.s o.d) + o.value h % 4) v)) ∧
        v.extractLsb' 0 64 = s.s o.d ∧ v.extractLsb' 64 28 = (s.s o.x).extractLsb' 0 28 ∧ v.getLsbD 95 = true ∧
        v.extractLsb' 96 32 = (s.s o.x).extractLsb' 32 32) ∧
      (inWindow m → exec (.tclr h o) s = .next (s.emit 4 cls (.clearTags m 1))) ∧ (¬ inWindow m → exec (.tclr h o) s = fault) ∧
      exec (.tclrAll h o) s = .next (s.emit 4 cls (.clearTags (4 * s.me.tbase) (4 * 2 ^ s.me.tlog))))

/-- R196, R197, Tables 7-11 and 7-12: SACFG sets, reads and clears a region after 1, a setting that breaks R196 faulting; a set
that lands leaves SAT, NANV and OVF as they stand, and a clear clears these three alone; SCAT faults on a region that is not
configured for it and on a cell index outside it, holds or traps where the engine holds 64 pushes, and else enters the engine
after 1 with the elements that its predicate selects, ascending, each with its cell and its value. -/
def Obligations.ScatterResults : Prop :=
  (∀ (h : Hdr) (o : Idx) (s : State), s.guardOn h = true →
    let a := s.arch
    let cls := h.cls.toNat
    let r := o.value h % 8
    let cfg := tget a.regions r default
    let first := if o.sub.getLsbD 0 then 128 else 0
    let chosen := (List.range 128).filter fun j => a.fullSel o.y.toNat 32 (first + j)
    let cells := chosen.map fun j => a.fullElem o.d 32 (first + j)
    let values := chosen.map fun j => if o.fmt = .f64 then a.fullElem o.x 64 j else a.fullElem o.x 32 (first + j)
    let usable : Prop := cfg.conf = true ∧ (o.fmt = .f64 → cfg.wide = true)
    let base := s.s o.d
    let desc := s.s o.x
    let len := (desc.extractLsb' 16 32).toNat
    let cell := if desc.getLsbD 0 then 16 else 4
    let bad : Prop := desc.extractLsb' 10 6 ≠ 0 ∨ desc.extractLsb' 48 16 ≠ 0 ∨ 127 < (desc.extractLsb' 2 8).toNat ∨ len = 0 ∨
      base.toNat % cell ≠ 0 ∨ (desc.getLsbD 1 = false ∧
        ¬ (a.bwinBase.toNat ≤ base.toNat ∧ base.toNat + len * cell ≤ a.bwinLimit.toNat))
    (bad → ∃ v, exec (.sacfgSet h o) s = .next (s.raise cls Cause.scatterConfig v)) ∧
    (¬ bad → ∃ c, exec (.sacfgSet h o) s = .next (s.emit 1 cls (.scatSet r c)) ∧
      c.conf = true ∧ c.base = base ∧ c.wide = desc.getLsbD 0 ∧ c.translated = desc.getLsbD 1 ∧
      c.f = (desc.extractLsb' 2 8).toNat ∧ c.len = len) ∧
    (∃ v : Word, exec (.sacfgStat h o) s = .next ((s.emit 1 cls (.s o.d.toNat v)).emit 1 cls (.scatClose r)) ∧
      v.getLsbD 0 = cfg.sat ∧ v.getLsbD 1 = cfg.nanv ∧ v.getLsbD 2 = cfg.ovf ∧ v.getLsbD 3 = cfg.conf ∧ v.getLsbD 4 = cfg.wide ∧
      v.extractLsb' 5 11 = 0 ∧ (v.extractLsb' 16 16).toNat = (tget a.scat r default).pending.length % 2 ^ 16 ∧
      v.extractLsb' 32 32 = 0) ∧
    exec (.sacfgClr h o) s = .next (s.emit 1 cls (.scatClr r)) ∧
    (¬ usable → ∃ v, exec (.scat h o) s = .next (s.raise cls Cause.scatterConfig v)) ∧
    (usable → (∃ k ∈ cells, cfg.len ≤ k) → ∃ v, exec (.scat h o) s = .next (s.raise cls Cause.scatterBounds v)) ∧
    (usable → (∀ k ∈ cells, k < cfg.len) → 64 ≤ a.scatOccupancy →
      exec (.scat h o) s = .next (if a.guarded then s.holdGroup else s.raise cls Cause.queueOverflow 3)) ∧
    (usable → (∀ k ∈ cells, k < cfg.len) → a.scatOccupancy < 64 → ∃ es,
      exec (.scat h o) s = .next ({ s with nextId := s.nextId + 1 }.emit 1 cls (.scatPush r es)) ∧
      es.map (·.cell) = cells ∧ es.map (·.value) = values ∧
      ∀ e ∈ es, e.push = s.nextId ∧ e.region = r ∧ e.cfg = cfg ∧ (e.f64 = true ↔ o.fmt = .f64))) ∧
  ∀ (s : State) (d c cls g r : Nat) (cfg : ScatRegion), d < 8 → c < 3 → r < 8 →
    let old := tget (s.ctx d c).arch.regions r default
    let regions := fun (a : Act) => ((s.applyAct d c cls g a).ctx d c).arch.regions
    tget (regions (.scatSet r cfg)) r default = { cfg with sat := old.sat, nanv := old.nanv, ovf := old.ovf } ∧
    tget (regions (.scatClr r)) r default = { old with sat := false, nanv := false, ovf := false } ∧
    ∀ k < 8, k ≠ r → tget (regions (.scatSet r cfg)) k default = tget (s.ctx d c).arch.regions k default ∧
      tget (regions (.scatClr r)) k default = tget (s.ctx d c).arch.regions k default

/-! ### Plates, the networks, the Tracer (07 R176–R188) -/

/-- R181, R182: whatever the switch bits, a network of 2^m ports permutes them: what a write sends from a position reaches the
column whose word a read brings to that position, and the other way round; with no switch set every position stands over its own
column. -/
def Obligations.NetworkIsPermutation : Prop :=
  ∀ (m : Nat) (sw : Nat → Nat → Bool) (p : Nat), 0 < m → p < 2 ^ m →
    traceRead m sw p < 2 ^ m ∧ traceWrite m sw (traceRead m sw p) = p ∧ traceRead m sw (traceWrite m sw p) = p ∧
    traceRead m (fun _ _ => false) p = p

/-- R179, R183: a network access whose plate needs a quarter that the context does not own faults with ownership, and one with
an enabled column outside the rows of the bank or outside BWIN with bank-bounds, both where both hold, and then does nothing
else. R176, R181–R184, Table 7-4: a network access of a slot whose plate passes its checks. NRD and NRDL land in every cluster
after 8 the words of its present ports, of the column that the plate routes to the port's select, zero for a column that is not
enabled. NWR and NWRL land after 6, at every enabled column whose position is present, the bytes that predicate pn selects.
NFILL fills every enabled column, and NCOPY writes through the next plate what it read, after 10. Reads are stated for a context
without unjoined writes (R268). -/
def Obligations.NetworkResults : Prop :=
  (∀ (h : Hdr) (o : Net) (s : State), s.guardOn h = true →
    let cls := h.cls.toNat
    let base : Int := (s.s o.b).toInt + o.value h
    let inside : Route → Int → Nat → Prop := fun r b c => 0 ≤ b + r.row c ∧ b + r.row c < r.nrow ∧
      (s.arch.bwinBase.toNat : Int) ≤ 4 * ((b + r.row c) * r.ncol + c) ∧ 4 * ((b + r.row c) * r.ncol + c) + 4 ≤ s.arch.bwinLimit.toNat
    let owned : Route → Prop := fun r => r.qmask &&& s.me.groups.toNat = r.qmask
    ∀ p ∈ [(Instr.nrd h o, s.route o.pl.toNat), (Instr.nrdl h o, s.liveRoute (o.pl.toNat % 8)), (Instr.nwr h o, s.route o.pl.toNat),
           (Instr.nwrl h o, s.liveRoute (o.pl.toNat % 8)), (Instr.nfill h o, s.route o.pl.toNat)],
      let fs := s.netCheck p.2 base
      (fs ≠ [] → exec p.1 s = .next (s.raiseAll cls fs)) ∧
        ((Cause.ownership, s.issue.die) ∈ fs ↔ ¬ owned p.2) ∧
        ((∃ v, (Cause.bankBounds, v) ∈ fs) ↔ ∃ c < p.2.ncol, p.2.cen c = true ∧ ¬ inside p.2 base c) ∧
        ∀ f ∈ fs, f = (Cause.ownership, s.issue.die) ∨ f.1 = Cause.bankBounds) ∧
  (∀ (h : Hdr) (o : Net) (s : State), s.guardOn h = true → s.issue.vj = true ∨ s.me.unjoined = [] →
    let cls := h.cls.toNat
    let base : Int := (s.s o.b).toInt + o.value h
    let a := s.arch
    let image := s.route o.pl.toNat
    let live := s.liveRoute (o.pl.toNat % 8)
    let next := s.route (o.pl.toNat + 1)
    let wbase : Int := (s.s o.d).toInt + o.value h
    let port : Route → Nat → BitVec 32 := fun r p =>
      let c := r.colOf (r.sel p)
      if r.cen c then BitVec.ofNat 32 (Mem.nat s.myDie.bank (r.addr base c) 4) else 0
    let read : State := { s with free := s.free + 1 }
    (∀ p ∈ [(Instr.nrd h o, image), (Instr.nrdl h o, live)], s.netCheck p.2 base = [] → ∃ (v : Nat → VReg) (m : Nat → PReg),
      exec p.1 s = .next { read with issue := { s.issue with
        acts := s.issue.acts ++ (List.range 8).flatMap fun c =>
          if m c = 0 then [] else [(8, cls, Act.v c (physV a.vrb o.d.toNat) (v c) (m c))] } } ∧
      ∀ q < 256, (∀ j < 4, (m (q / 32)).getLsbD (4 * (q % 32) + j) = p.2.pen q) ∧
        (p.2.pen q = true → (v (q / 32)).extractLsb' (32 * (q % 32)) 32 = port p.2 q)) ∧
    (∀ p ∈ [(Instr.nwr h o, image), (Instr.nwrl h o, live)], s.netCheck p.2 base = [] → ∃ bs,
      exec p.1 s = .next (s.emit 6 cls (.bank true bs)) ∧
      ∀ x b, (x, b) ∈ bs ↔ ∃ c < p.2.ncol, ∃ j < 4, p.2.cen c = true ∧ p.2.pen (p.2.posOf c) = true ∧ x = p.2.addr base c + j ∧
        (let q := p.2.sel (p.2.posOf c)
         (a.preg (q / 32) o.sub.toNat).getLsbD (4 * (q % 32) + j) = true ∧ b = (a.vreg (q / 32) o.d).extractLsb' (8 * (4 * (q % 32) + j)) 8)) ∧
    (s.netCheck image base = [] → ∃ bs, exec (.nfill h o) s = .next (s.emit 6 cls (.bank true bs)) ∧
      ∀ x b, (x, b) ∈ bs ↔ ∃ c < image.ncol, ∃ j < 4, image.cen c = true ∧ x = image.addr base c + j ∧ b = (s.s o.d).extractLsb' (8 * j) 8) ∧
    (s.netCheck image base ++ s.netCheck next wbase ≠ [] →
      exec (.ncopy h o) s = .next (s.raiseAll cls (s.netCheck image base ++ s.netCheck next wbase))) ∧
    (s.netCheck image base = [] → s.netCheck next wbase = [] → ∃ bs, exec (.ncopy h o) s = .next (read.emit 10 cls (.bank true bs)) ∧
      ∀ x b, (x, b) ∈ bs ↔ ∃ c < next.ncol, ∃ j < 4, next.cen c = true ∧ next.pen (next.posOf c) = true ∧ x = next.addr wbase c + j ∧
        (let q := next.sel (next.posOf c)
         q < image.ncol ∧ image.pen q = true ∧ b = (port image q).extractLsb' (8 * j) 8)))

/-- R185, Table 7-5: NSEND, NRECV and NPASS belong to FG contexts; an edge that the die does not have faults, beside whatever else
their checks find; which values of s[d] name no edge and how NPASS passes its plate's stages are the model's choices (logs 12, 14);
NRECV and NPASS with no frame arriving in this count raise the late-arrival trap, and otherwise take the frame. NSEND's frame travels 20 counts with the words of its present ports, NPASS's 22 with what its stages bring to each port,
and NRECV writes after 6 what stands at each present port. R186–R188, Table 7-6: TRACE lands after 24 four live plates, its
result word in s[b], q7 that tells whether a remainder is left, and, for a predicate other than p0, the predicate of the
remainder in every cluster; the word counts the waves used, the indices placed and those left, which are all the indices that the
predicate requests; every index that is placed stands in one of the plates, its words' columns enabled at their rows and brought
to its ports. -/
def Obligations.EdgeFrameResults : Prop :=
  (∀ (h : Hdr) (o : Net) (s : State), s.guardOn h = true →
    let cls := h.cls.toNat
    let die := s.issue.die
    let r := s.route o.pl.toNat
    let base : Int := (s.s o.b).toInt + o.value h
    let e := (s.s o.d).toNat
    let away : Nat → Prop := fun k => neighbour die k = none
    let owned : Prop := r.qmask &&& s.me.groups.toNat = r.qmask
    let kept := fun (f : NFrame) => frameBytes die f.bytes
    let raises := fun (i : Instr) (f : Nat × Nat) => ∃ fs, f ∈ fs ∧ exec i s = .next (s.raiseAll cls fs)
    (s.issue.ctx = 1 → ∀ i ∈ [Instr.nsend h o, Instr.nrecv h o, Instr.npass h o], raises i (Cause.ownership, die)) ∧
    (4 ≤ e ∨ away e → raises (.nsend h o) (Cause.edgeAbsent, e)) ∧
    (e % 4 ≠ 0 ∨ 16 ≤ e ∨ away (e / 4) → raises (.nrecv h o) (Cause.edgeAbsent, e)) ∧
    (16 ≤ e ∨ e % 4 = e / 4 ∨ away (e / 4) ∨ away (e % 4) → raises (.npass h o) (Cause.edgeAbsent, e)) ∧
    (¬ owned → ∀ i ∈ [Instr.nsend h o, Instr.nrecv h o, Instr.npass h o], raises i (Cause.ownership, die)) ∧
    (s.issue.ctx ≠ 1 → s.netCheck r base = [] → s.issue.vj = true ∨ s.me.unjoined = [] →
      (e < 4 → ¬ away e → ∃ bs, exec (.nsend h o) s = .next ({ s with free := s.free + 1 }.emit 0 cls (.nframe e 20 bs)) ∧
        ∀ x b, (x, b) ∈ bs ↔ ∃ p < r.ncol, ∃ j < 4, r.pen p = true ∧ x = 4 * p + j ∧
          b = (if r.cen (r.colOf (r.sel p)) then BitVec.ofNat 32 (Mem.nat s.myDie.bank (r.addr base (r.colOf (r.sel p))) 4) else 0).extractLsb' (8 * j) 8) ∧
      (e % 4 = 0 → e < 16 → ¬ away (e / 4) →
        (s.arriving (e / 4) = none → ∃ info, exec (.nrecv h o) s = .next (s.raise cls Cause.lateArrival info)) ∧
        (∀ f, s.arriving (e / 4) = some f → ∃ bs,
          exec (.nrecv h o) s = .next ((s.emit 0 cls (.ntake (e / 4))).emit 6 cls (.bank true bs)) ∧
          ∀ x b, (x, b) ∈ bs ↔ ∃ c < r.ncol, ∃ j < 4, r.cen c = true ∧ r.pen (r.posOf c) = true ∧ x = r.addr base c + j ∧
            byteAt (kept f) (4 * r.sel (r.posOf c) + j) = some b))) ∧
    (s.issue.ctx ≠ 1 → owned → e < 16 → e % 4 ≠ e / 4 → ¬ away (e / 4) → ¬ away (e % 4) →
      (s.arriving (e / 4) = none → ∃ info, exec (.npass h o) s = .next (s.raise cls Cause.lateArrival info)) ∧
      (∀ f, s.arriving (e / 4) = some f → ∃ bs,
        exec (.npass h o) s = .next ((s.emit 0 cls (.ntake (e / 4))).emit 0 cls (.nframe (e % 4) 22 bs)) ∧
        ∀ x b, (x, b) ∈ bs ↔ ∃ p < r.ncol, ∃ j < 4, x = 4 * p + j ∧ byteAt (kept f) (4 * r.colOf p + j) = some b))) ∧
  (∀ (h : Hdr) (o : Net) (s : State), s.guardOn h = true →
    let cls := h.cls.toNat
    let wanted := (List.range 128).filter fun g => (s.arch.preg (g / 16) o.sub.toNat).getLsbD (8 * (g % 16))
    let words := fun g => traceWords (o.value h == 1) g (elemOf (s.arch.vreg (g / 16) o.d) 64 (g % 16) % 2 ^ 32)
    ∃ (plates : Nat → LivePlate) (waves placed : Nat) (left : List Nat) (mask : Nat → PReg),
      exec (.trace h o) s = .next { s with issue := { s.issue with
        acts := s.issue.acts ++ (List.range 4).map (fun k => (24, cls, Act.lp (o.pl.toNat + k) (plates k))) ++
        [(24, cls, .s o.b.toNat (BitVec.ofNat 64 (waves + placed * 2 ^ 8 + left.length * 2 ^ 16))), (24, cls, .q 7 (decide (left ≠ [])))] ++
        (if o.sub = 0 then [] else (List.range 8).map fun c =>
          (24, cls, Act.p c (physP s.arch.vrb o.sub.toNat) (mask c) (BitVec.allOnes 128))) } } ∧
      waves ≤ 4 ∧ placed + left.length = wanted.length ∧ (∀ g ∈ left, g ∈ wanted) ∧
      (∀ g ∈ wanted, g ∉ left → ∃ k < waves, ∀ w ∈ words g,
        let r := Machine.liveRoute (plates k)
        r.cen (w.1 % 256) = true ∧ r.row (w.1 % 256) = w.1 / 256 ∧ r.pen w.2 = true ∧ r.colOf (r.sel w.2) = w.1 % 256) ∧
      ∀ c < 8, ∀ e < 16, (mask c).getLsbD (8 * e) = true ↔ 16 * c + e ∈ left)

/-! ### Tiles, latches, scales, the weight buffer (08 R200–R227) -/

/-- R30, R40, R46, R220, R298: in guarded mode a tile slot of an owned, powered group that touches a busy tile waits. Every
other tile slot goes on in this step: one of a group that the context does not own raises ownership, one of an owned group that
is not powered the timing trap, and one that touches a busy tile the timing trap, each beside what its own checks find (the
model's choice, log 36); MSTAT
touches nothing and reads a group that is not powered as zero. -/
def Obligations.TileGates : Prop :=
  ∀ (h : Hdr) (o : Tile) (q : TileSt) (s : State), s.guardOn h = true →
    let g := h.cls.toNat - 2
    let cls := h.cls.toNat
    let b := (s.group g).tileBits
    let busy := fun t => (b t).busy = true
    let traps := fun (i : Instr) (code info : Nat) => ∃ t, exec i s = .next t ∧
      { code := code, info := info, cls := cls, clus := none } ∈ t.issue.traps
    let words := [Instr.mma h o, .mmaz h o, .mmaF64 h o, .mclr h o, .mcopy h o, .mfree h o, .mfreeLatch h o, .mldw h o, .msel h o, .mst h q, .mqst h q]
    let chained := fun (pair : Bool) t => (b t).mma = true ∧ (b t).pair = pair ∧ (b t).cnt ≤ 21 + o.n.toNat + o.cap.toNat
    let f64 := o.fa == .f64
    let touches : Instr → Prop := fun i =>
      (i = .mclr h o ∨ i = .mcopy h o ∨ i = .mfree h o) ∧ busy o.td.toNat ∨ i = .mcopy h o ∧ busy o.tx.toNat ∨
      i = .mfree h o ∧ (b o.td.toNat).form = true ∧ busy (partner o.td.toNat) ∨
      (i = .mst h q ∨ i = .mqst h q) ∧ (busy q.td.toNat ∨ (b q.td.toNat).form = true ∧ busy (partner q.td.toNat)) ∨
      i = .mma h o ∧ busy o.td.toNat ∧ ¬ chained false o.td.toNat ∨
      i = .mmaz h o ∧ busy o.td.toNat ∧ ¬ chained f64 o.td.toNat ∨
      i = .mmaF64 h o ∧ busy o.td.toNat ∧ ¬ chained true o.td.toNat ∨
      (i = .mmaF64 h o ∨ i = .mmaz h o ∧ f64 = true) ∧ busy (o.td.toNat + 1) ∧ ¬ chained true (o.td.toNat + 1)
    (s.me.groups.getLsbD g = false → (∀ i ∈ words, traps i Cause.ownership s.issue.die) ∧
      exec (.mstat h o) s = .next (s.raise cls Cause.ownership s.issue.die)) ∧
    (s.me.groups.getLsbD g = true → (s.group g).powered = false → (∀ i ∈ words, traps i Cause.timing (4 + 16 * g)) ∧
      exec (.mstat h o) s = .next (s.emit 1 cls (.s o.b.toNat 0))) ∧
    (s.me.groups.getLsbD g = true → (s.group g).powered = true → ∀ i ∈ words, touches i →
      (s.arch.guarded = true → exec i s = .next s.waitTile) ∧ (s.arch.guarded = false → traps i Cause.timing 1)) ∧
    (s.arch.guarded = false → ∀ i ∈ words, touches i → traps i Cause.timing 1) ∧
    (s.me.groups.getLsbD g = false ∨ s.arch.guarded = false → ∀ e ∈ s.mmaFaults h (mmaArgs h o false false (s.selectOf h o))
      (aStream (s.s o.b).toNat) ((aStream (s.s o.b).toNat).row + if o.sp then 0 else h.wide), traps (.mma h o) e.1 e.2)

/-- R209, R225, R226, Table 8-9: in an owned, powered group whose tiles are idle, MCLR clears TD after 4 and MCOPY gives TD the
words of TX after 16 unless TX holds a pair; MFREE frees its tile, with the partner of a pair, or its latch after 1; MSEL loads
the select store after 8; MSTAT reads the status word, every field of either view, after 1. A tile under an operation is busy from the issue step. -/
def Obligations.TileResults : Prop :=
  ∀ (h : Hdr) (o : Tile) (s : State), s.guardOn h = true →
    let g := h.cls.toNat - 2
    let cls := h.cls.toNat
    let x := s.group g
    let t := o.td.toNat
    let form := fun t => (x.tileBits t).form
    let busy : State → Nat → Nat → State := fun u t lat => u.emit 0 cls (.busy g t lat false false none)
    s.me.groups.getLsbD g = true → x.powered = true →
    ((x.tileBits t).busy = false → exec (.mclr h o) s = .next ((busy s t 4).emit 4 cls (.tileSet g t []))) ∧
    ((x.tileBits t).busy = false → (x.tileBits o.tx.toNat).busy = false →
      (form o.tx.toNat = true → exec (.mcopy h o) s = .next (s.raise cls Cause.operandMismatch g)) ∧
      (form o.tx.toNat = false → ∃ cells, exec (.mcopy h o) s = .next ((busy s t 16).emit 16 cls (.tileSet g t cells)) ∧
        (SMap.wf x.tiles = true → ∀ a < 8, ∀ r < 64, ∀ c < 256,
          ((cells.find? fun p => p.1 == tileKey a t r c).map (·.2)).getD 0 = SMap.get x.tiles (tileKey a o.tx.toNat r c)))) ∧
    ((x.tileBits t).busy = false → form t = false → exec (.mfree h o) s = .next ((busy s t 1).emit 1 cls (.tileFree g t))) ∧
    ((x.tileBits t).busy = false → form t = true → (x.tileBits (partner t)).busy = false →
      exec (.mfree h o) s = .next ((busy ((busy s t 1).emit 1 cls (.tileFree g t)) (partner t) 1).emit 1 cls (.tileFree g (partner t)))) ∧
    exec (.mfreeLatch h o) s = .next (s.emit 1 cls (.latchFree g o.tx.toNat)) ∧
    exec (.msel h o) s = .next (s.emit 8 cls (.select g (o.selectPlate h))) ∧
    ∃ v : Word, exec (.mstat h o) s = .next (s.emit 1 cls (.s o.b.toNat v)) ∧
      (o.n.getLsbD 0 = false → v.extractLsb' 0 15 = BitVec.ofNat 15 (x.tileBits t).cnt ∧ v.getLsbD 15 = (x.tileBits t).pair ∧
        v.getLsbD 30 = (x.annexOf o.tx.toNat).lsp ∧ v.getLsbD 31 = (x.annexOf o.tx.toNat).linuse ∧
        v.extractLsb' 43 10 = (x.annexOf o.tx.toNat).llen ∧ v.extractLsb' 19 5 = 0 ∧ v.extractLsb' 53 11 = 0) ∧
      (o.n.getLsbD 0 = true → (∀ i < 4, v.getLsbD (16 + i) = (x.annexOf i).linuse) ∧ v.getLsbD 20 = x.selv ∧
        v.extractLsb' 32 11 = x.selp ∧ v.extractLsb' 21 11 = 0 ∧ v.extractLsb' 43 21 = 0) ∧
      (o.n.getLsbD 0 = false → v.getLsbD 16 = (x.tileBits t).busy ∧ v.getLsbD 17 = form t ∧ v.getLsbD 18 = (x.tileBits t).inuse ∧
        v.extractLsb' 24 5 = (x.annexOf o.tx.toNat).fmtl ∧ v.getLsbD 29 = (x.annexOf o.tx.toNat).lvalid ∧
        v.extractLsb' 32 11 = (x.annexOf o.tx.toNat).lplate) ∧
      (o.n.getLsbD 0 = true → ∀ i < 8, v.getLsbD i = (x.tileBits i).busy ∧ v.getLsbD (8 + i) = (x.tileBits i).inuse)

/-- R203–R206, R210, R211: MWB moves a plate's read into the weight buffer after 12; an address off its 4 KiB frame or past the
buffer, a quarter that is not owned and a plate that fails its checks fault, each beside the others. MSCLD lands N + 1 entries of
the linear view in a scale register after 6, and faults where its group is not owned or not powered or its entries are misaligned
or out of bounds. MLDW raises every fault of its descriptor, its select store and its eight images; with none it lands in a latch
after 32, of each array's image, the elements, the scale entries of a format in HB and the list, unless a block header or a list
of a format in HB is malformed. That all faults met are raised is the model's choice (log 36). Reads are stated for a context
without unjoined writes (R268). -/
def Obligations.WeightAndScaleResults : Prop :=
  ∀ (h : Hdr) (o : Tile) (q : Net) (k : Scale) (s : State), s.guardOn h = true → s.issue.vj = true ∨ s.me.unjoined = [] →
    let cls := h.cls.toNat
    let g := h.cls.toNat - 2
    let w := (s.s q.d).toNat
    let r := s.route q.pl.toNat
    let base : Int := (s.s q.b).toInt + q.value h
    let a := (s.s k.b + BitVec.ofInt 64 (k.value h)).toNat
    let n := k.n.toNat + 1
    let mwbFaults := (if w % 4096 ≠ 0 ∨ 2 ^ 24 ≤ w then [(Cause.wbufBounds, w)] else []) ++
      (if s.me.groups.getLsbD (w / 2 ^ 22 % 4) then [] else [(Cause.ownership, s.issue.die)]) ++ s.netCheck r base
    let mscldFaults := (if s.me.groups.getLsbD k.tg.toNat = false then [(Cause.ownership, s.issue.die)]
        else if (s.group k.tg.toNat).powered then [] else [(Cause.timing, 4 + 16 * k.tg.toNat)]) ++
      (if a % 2 ≠ 0 then [(Cause.misaligned, a)]
        else if s.arch.bwinBase.toNat ≤ a ∧ a + 2 * n ≤ s.arch.bwinLimit.toNat then [] else [(Cause.bankBounds, a)])
    let desc := (s.s o.b).toNat
    let wadr := desc % 2 ^ 24
    let len := desc / 2 ^ 24 % 2 ^ 10
    let hb := o.fb.inHB
    let nb := if o.sp then 8 else 4
    let eb := latchBytes o.fb
    let image := fun t => wadr + 64 * t * (desc / 2 ^ 34 % 2 ^ 16)
    let size := eb + (if hb then 512 * nb else 0) + 4 * len
    let scale := fun t i => Mem.nat s.myDie.wbuf (image t + eb + 2 * i) 2
    let entry := fun t i => Mem.nat s.myDie.wbuf (image t + eb + 512 * nb + 4 * i) 4
    let x := s.group g
    let faults := s.mldwFaults g o (if o.sp then some (o.selectPlate h) else none) wadr len (desc / 2 ^ 34 % 2 ^ 16) size (desc / 2 ^ 50)
    let scan := fun t => bScan o.fb nb (keptOf o.fb (s.selectOf h o) (keffOf o.fb (s.selectOf h o)))
      (latchElem o.fb fun i => (Mem.bytes s.myDie.wbuf (image t) size).getD i 0) (scale t)
    let wellFormed : Prop := hb = true → ∀ t < 8, (scan t).1 = true ∧ listOk (scan t).2 ((List.range len).map (entry t)) = true
    (mwbFaults ≠ [] → exec (.mwb h q) s = .next (s.raiseAll cls mwbFaults)) ∧
    (mwbFaults = [] → ∃ bs, exec (.mwb h q) s = .next ({ s with free := s.free + 1 }.emit 12 cls (.wbuf bs)) ∧
      ∀ x b, (x, b) ∈ bs ↔ ∃ p < r.ncol, ∃ j < 4, r.pen p = true ∧ x = w + (4 * p + j) ∧
        b = (if r.cen (r.colOf (r.sel p)) then BitVec.ofNat 32 (Mem.nat s.myDie.bank (r.addr base (r.colOf (r.sel p))) 4) else 0).extractLsb' (8 * j) 8) ∧
    (mscldFaults ≠ [] → exec (.mscld h k) s = .next (s.raiseAll cls mscldFaults)) ∧
    (mscldFaults = [] → exec (.mscld h k) s = .next ({ s with free := s.free + 1 }.emit 6 cls (.scale k.tg.toNat k.kj k.kn.toNat
      ((List.range n).map fun i => BitVec.ofNat 16 (Mem.nat s.myDie.bank (a + 2 * i) 2))))) ∧
    (s.me.groups.getLsbD g = true → x.powered = true →
      (faults ≠ [] → exec (.mldw h o) s = .next (s.raiseAll cls faults)) ∧
      (faults = [] → ¬ wellFormed → exec (.mldw h o) s = .next (s.raise cls Cause.stippleMalformed 0)) ∧
      (faults = [] → wellFormed → exec (.mldw h o) s = .next (s.emit 32 cls (.latch g o.tx.toNat o.fb o.sp
        (if o.sp then o.selectPlate h else 0) len
        ((List.range 8).map fun t => placeBytes 0 (Mem.bytes s.myDie.wbuf (image t) eb))
        ((List.range 8).map fun t => if hb then (List.range (256 * nb)).map fun i => BitVec.ofNat 16 (scale t i) else [])
        ((List.range 8).map fun t => (List.range len).map fun i => BitVec.ofNat 32 (entry t i)))))) ∧
    ((Cause.tileDescriptor, g) ∈ faults ↔ 2 ^ 50 ≤ desc ∨ wadr % 64 ≠ 0 ∨ 512 < len ∨ len ≠ 0 ∧ hb = false) ∧
    ((Cause.operandMismatch, o.tx.toNat) ∈ faults ↔ o.sp = true ∧ (x.selv = false ∨ x.selp.toNat ≠ o.selectPlate h)) ∧
    ((Cause.wbufBounds, o.tx.toNat) ∈ faults ↔ ∃ t < 8, image t < g * 2 ^ 22 ∨ (g + 1) * 2 ^ 22 < image t + size)

/-- R212–R220: an MMA, MMAZ or FP64 MMA on an owned, powered group whose tiles are idle, or busy with the same form that lands no
later, raises every fault that its checks find (all of them: the model's choice, log 36) and then nothing else; with none it faults on malformed headers or lists of a
format in HB, and otherwise makes its tiles busy at once and after 20 + N + CAP steps lands in each, for every one of its N rows,
the 256 columns and the eight arrays, the words of one value: in FP64 form the accumulator plus one product, for block operands
the blocks of R106 in ascending order, else the groups of eight of R107. R106–R108: a dot product whose products hold a NaN, or
infinities of both signs, is NaN; otherwise one of FP16 or BF16 adds the exact sum of its group to the accumulator with a single
rounding to FP32, and a block without escapes adds the exact sum of its elements' products, scaled once. -/
def Obligations.MatrixMultiplyResults : Prop :=
  (∀ (h : Hdr) (o : Tile) (s : State) (zero f64 : Bool) (i : Instr), s.guardOn h = true →
    (i, zero, f64) ∈ [(Instr.mma h o, false, false), (.mmaF64 h o, false, true), (.mmaz h o, true, o.fa == .f64)] →
    let g := h.cls.toNat - 2
    let cls := h.cls.toNat
    let sel := s.selectOf h o
    let m := mmaArgs h o zero f64 sel
    let d := aStream (s.s o.b).toNat
    let base : Int := d.row + (if o.sp then 0 else h.wide)
    let faults := s.mmaFaults h m d base
    let n := o.n.toNat + 1
    let lat := 20 + n + o.cap.toNat
    let tiles := if f64 then [o.td.toNat, o.td.toNat + 1] else [o.td.toNat]
    let rows := s.aRows m ((s.networkPlate d.pl).getD (plateRoute .m 0)) base d.rstep
    let row := fun r k => (rows.getD r []).getD k 0
    let listed := s.readBank false (64 * d.ladr) (4 * o.cap.toNat)
    let aList := (List.range o.cap.toNat).map fun i => natOfBytes ((listed.drop (4 * i)).take 4)
    let aEsc := (s.aScan m rows).2
    let wellFormed : Prop := o.fa.inHB = true → (s.aScan m rows).1 = true ∧ listOk aEsc aList = true
    let scale := fun e => scaleValue (e.testBit 8) (e % 256)
    let value := fun (a r c : Nat) =>
      let acc := s.accValue m a r c
      let col := s.bColumn m sel a c
      if f64 then
        let slot := ((col.find? fun q => q.2.1 == o.ks.toNat % 2 * 8 + o.js.toNat).map (·.2.2)).getD 0
        roundAcc .f64 (acc.add .ne ((fpValue .f64 (row r 0)).mul (fpValue .f64 slot)).val).val
      else if o.fa.inHB then
        dotBlocks (m.keff / 32) (fun k => mkOpnd o.fa (s.aScale m r (k / 32)) (row r k) (entryOf aEsc aList (r * m.keff + k)))
          (fun b => scale (s.aScale m r b)) (fun b => scale (s.bScale m a c b))
          (col.map fun q => (q.1, mkOpnd o.fb (s.bScale m a c (q.1 / 32)) q.2.2 (entryOf (s.bEscapes m sel a) (s.bEntries m a) (128 * c + q.2.1)))) acc
      else dotGroups m.keff (fun k => fpValue o.fa (row r k)) (col.map fun q => (q.1, fpValue o.fb q.2.2)) acc
    s.me.groups.getLsbD g = true → (s.group g).powered = true →
    (∀ t ∈ tiles, let b := (s.group g).tileBits t; b.busy = false ∨ b.mma = true ∧ b.pair = f64 ∧ b.cnt ≤ lat) →
    (faults ≠ [] → exec i s = .next (s.raiseAll cls faults)) ∧
    (faults = [] → ¬ wellFormed → exec i s = .next (s.raise cls Cause.stippleMalformed 0)) ∧
    (faults = [] → wellFormed → ∃ cells : Nat → List (Nat × BitVec 32), exec i s = .next { s with
        free := s.free + 1
        issue := { s.issue with acts := s.issue.acts ++ tiles.flatMap fun t =>
          [(0, cls, Act.busy g t lat f64 true (some f64)), (lat, cls, Act.tile g t (cells t))] } } ∧
      ∀ t ∈ tiles, ∀ key v, (key, v) ∈ cells t ↔ ∃ a < 8, ∃ r < n, ∃ c < 256, key = tileKey a t r c ∧
        v = if f64 then BitVec.ofNat 32 ((roundTo .f64 (value a r c) .ne .inf false 0).bits / 2 ^ (32 * (t - o.td.toNat)))
          else BitVec.ofNat 32 (roundTo .f32 (value a r c) .ne .inf false 0).bits)) ∧
  (∀ (acc : XV) (ps : List (XV × XV)),
    let qs := ps.map fun p => (p.1.mul p.2).val
    (XV.nan ∈ qs → dotGroup acc ps = .nan) ∧
    (XV.inf true ∈ qs → XV.inf false ∈ qs → dotGroup acc ps = .nan) ∧
    ((∀ v ∈ qs, v.isNaN = false ∧ v.isInf = false) →
      dotGroup acc ps = fpValue .f32 (roundTo .f32 (acc.add .ne (exactSum qs)).val .ne .inf false 0).bits)) ∧
  (∀ (acc sa sb : XV) (ps : List (Opnd × Opnd)), (∀ p ∈ ps, p.1.esc = false ∧ p.2.esc = false) →
    let full := ps.map fun p => (p.1.full.mul p.2.full).val
    let t := exactSum (ps.map fun p => (p.1.raw.mul p.2.raw).val)
    (XV.nan ∈ full → dotBlock acc sa sb ps = .nan) ∧
    (XV.inf true ∈ full → XV.inf false ∈ full → dotBlock acc sa sb ps = .nan) ∧
    ((∀ v ∈ full, v.isNaN = false ∧ v.isInf = false) → t.isZero = false → (t.mul (sa.mul sb).val).val.isZero = false →
      dotBlock acc sa sb ps = fpValue .f32 (roundTo .f32 (acc.add .ne (t.mul (sa.mul sb).val).val).val .ne .inf false 0).bits))

/-- R222–R224: MST and MQST on an owned, powered group whose tiles are idle raise every fault that their checks find. With none, MST
converts its cells by row, then array, then column, each with its draw, and lands them through its companion's plate after
8 + 16(NRG + 1) with the flags of the conversions; where one overflows under policy 11, the first raises its trap. MQST quantises
its blocks by row, array, half and block, and lands elements through the plate, and scale entries and lists in the linear view,
after 10 + 16(NRG + 1); a list entry outside the window, a list that is full under policy CP and an overflow fault beside the
others. The companion is the NWR of the group in progress: it names plate and base, and has no effect of its own. That
every fault met is raised, that the companion's own guard does not matter, and the flush of MST's sources under FTZ are the
model's choices (logs 36, 17, 28), as is which of two writes of one byte prevails (log 75). -/
def Obligations.TileStoreResults : Prop :=
  (∀ (h : Hdr) (o : Net) (s : State), exec (.nwrTile h o) s = .next s) ∧
  (∀ (h : Hdr) (o : Net) (s : State) (gr : Group) (w : SlotWord),
    decodeGroup ((s.code s.issue.die s.issue.ctx).drop (s.issue.pc.toNat / 8)) = some gr → w ∈ gr.slots →
    decodeSlot .m (s.issue.ctx == 2) w.cls w.word w.ext = .ok (.nwrTile h o) → w.cls = 14 → (∀ x ∈ gr.slots, x.cls = 14 → x = w) →
    s.companion = some (o.pl.toNat, (s.s o.b).toInt + o.value h)) ∧
  (∀ (h : Hdr) (o : TileSt) (s : State), s.guardOn h = true →
    let g := h.cls.toNat - 2
    let cls := h.cls.toNat
    let d := storeDesc (s.s o.b).toNat
    let n := o.nrg.toNat + 1
    let form := ((s.group g).tileBits o.td.toNat).form
    let base := (s.companion.getD (0, 0)).2
    let r := (s.networkPlate (s.companion.getD (0, 0)).1).getD (plateRoute .m 0)
    let through := fun (w : Nat) (images : List (List Nat)) => Act.bank true (storeBytes g w r base d.rstep images)
    let faults := fun q => s.storeFaults g o q d s.companion
    let w := o.fd.width
    let c := if w ≤ 8 then 256 else 2048 / w
    let total := 8 * n * 8 * c
    let out := fun e =>
      let v := s.tileCell g o.td.toNat (e / c % 8) (8 * o.rg.toNat + e / (8 * c)) (d.cs * c + e % c)
      roundElem o.fd (fpSource v.2 o.ftz v.1) o.rnd o.ovf o.ftz (drawIf o.rnd (drawn o.rnd e s.issue.seed)).2
    let t : State := { s with issue := { s.issue with seed := drawn o.rnd total s.issue.seed } }
    let images := (List.range n).map fun k => rowGroupImage c (fun a r i => (out (((r - 8 * o.rg.toNat) * 8 + a) * c + i)).bits) (o.rg.toNat + k)
    let flags := (List.range total).foldl (fun f e => f ||| (out e).flags) 0
    let q : QParams := { fmt := o.fd, fs8 := d.kind, e := if o.el = 3 then 4 else o.el.toNat, delta := o.dl.toNat, rnd := o.rnd,
                         ovf := o.ovf, ftz := false }
    let order := (List.range (8 * n)).flatMap fun i => (List.range 8).flatMap fun a => (List.range 2).flatMap fun hb =>
      (List.range 4).map fun blk => (8 * o.rg.toNat + i, a, hb, blk)
    let x := order.foldl (s.qstoreBlock g o d q) { seed := s.issue.seed, lists := [], scales := [], codes := [], flags := 0, traps := [] }
    let lin := qstoreLinear d x
    let inside := fun a => s.arch.bwinBase.toNat ≤ a ∧ a + 1 ≤ s.arch.bwinLimit.toNat
    let codes := x.codes.flatMap (·.2)
    let qimages := (List.range n).map fun k =>
      rowGroupImage 256 (fun a r i => codes.getD (((r - 8 * o.rg.toNat) * 8 + a) * 256 + i) 0) (o.rg.toNat + k)
    let u : State := { s with issue := { s.issue with seed := x.seed } }
    s.me.groups.getLsbD g = true → (s.group g).powered = true → ((s.group g).tileBits o.td.toNat).busy = false →
    (form = true → ((s.group g).tileBits (partner o.td.toNat)).busy = false) →
    (faults false ≠ [] → exec (.mst h o) s = .next (s.raiseAll cls (faults false))) ∧
    (faults false = [] → (∀ e < total, (out e).trap = false) →
      exec (.mst h o) s = .next ((t.emit (8 + 16 * n) cls (through w images)).putFlags cls (8 + 16 * n) flags)) ∧
    (faults false = [] → ∀ e < total, (out e).trap = true → (∀ k < e, (out k).trap = false) →
      exec (.mst h o) s = .next (t.raise cls Cause.overflow e)) ∧
    (o.ovf ≠ .trap → ∀ e, (out e).trap = false) ∧
    (faults true = [] → (∀ p ∈ lin, inside p.1) → x.traps = [] →
      exec (.mqst h o) s = .next (((u.emit (10 + 16 * n) cls (through w qimages)).emit (10 + 16 * n) cls (.bank false lin)).putFlags
        cls (10 + 16 * n) x.flags)) ∧
    (¬ (faults true = [] ∧ (∀ p ∈ lin, inside p.1) ∧ x.traps = []) → ∃ fs, exec (.mqst h o) s = .next (s.raiseAll cls fs) ∧
      (∀ f ∈ faults true ++ x.traps, f ∈ fs) ∧ ((∃ v, (Cause.bankBounds, v) ∈ fs) ∨ ∀ p ∈ lin, inside p.1)) ∧
    (d.cp = false → o.ovf ≠ .trap → x.traps = [])) ∧
  ∀ (s : State) (g : Nat) (o : TileSt) (d : StoreDesc) (q : QParams) (x : QStore) (r a hb blk : Nat),
    let cell := fun i => s.tileCell g o.td.toNat a r (128 * hb + 32 * blk + i)
    let b := (quantiseBlock q ((List.range 32).map fun i => fpValue (cell i).2 (cell i).1) x.seed).2
    let y := s.qstoreBlock g o d q x (r, a, hb, blk)
    let listed := fun (z : QStore) => (z.lists.filter fun l => l.1 == 2 * a + hb).length
    let fits := min (d.lcap - listed x) b.outliers.length
    listed y = listed x + fits ∧
    y.scales = x.scales ++ [(512 * (2 * a + hb) + 2 * (4 * r + blk),
      (b2n q.fs8 + (if q.e = 0 then 0 else 2) + 4 * fits) * 256 + b.code)] ∧
    (fits < b.outliers.length → d.cp = true → (Cause.stippleOverflow, d.lcap) ∈ y.traps) ∧
    (fits < b.outliers.length → d.cp = false → y.flags &&& flagSCLIP = flagSCLIP)

/-! ### Transfers, queues, barriers, Lanterns, re-base (09 R228–R257, 13 R346, R356–R358) -/

/-- R233–R237, Table 9-3: TDMA and RLD start a request for their bank range under the promise that PR names, RST reads its bank
bytes at once and puts them into the deferred set under a promise; a quantity that is no multiple of 64, a length outside 64 to
the limit and a range outside BWIN fault, and a TDMA of length 0 or outside BWIN faults too; one whose address is not pinned, which
crosses its page, lacks its permission or is not granted raises its fault. -/
def Obligations.TransferResults : Prop :=
  ∀ (h : Hdr) (o : Xfer) (s : State), s.guardOn h = true →
    let cls := h.cls.toNat
    let b := (s.s o.d).toNat
    let va := (s.s o.x).toNat
    let n := (s.s o.y).toNat
    let aligned : Prop := b % 64 = 0 ∧ n % 64 = 0 ∧ va % 64 = 0
    let inside : Prop := s.arch.bwinBase.toNat ≤ b ∧ b + n ≤ s.arch.bwinLimit.toNat
    let starts : Instr → ReqKind → Prop := fun i k => ∃ r : Req, exec i s = .next (s.emit 0 cls (.start r)) ∧
      r.kind = k ∧ r.pr = o.pr.toNat ∧ r.addr = s.s o.x ∧ r.bank = b ∧ r.size = n
    let misaligned : Instr → Prop := fun i => ∃ v, v ∈ [b, n, va] ∧ v % 64 ≠ 0 ∧ exec i s = .next (s.raise cls Cause.misaligned v)
    (¬ aligned → misaligned (.rld h o) ∧ misaligned (.rst h o) ∧ (s.issue.ctx ≠ 1 → misaligned (.tdmaIn h o) ∧ misaligned (.tdmaOut h o))) ∧
    (aligned → n = 0 ∨ 65536 < n → ∀ i ∈ [Instr.rld h o, .rst h o], exec i s = .next (s.raise cls Cause.misaligned n)) ∧
    (aligned → 0 < n → n ≤ 65536 → ¬ inside → ∀ i ∈ [Instr.rld h o, .rst h o], exec i s = .next (s.raise cls Cause.bankBounds b)) ∧
    (aligned → 0 < n → n ≤ 65536 → inside → starts (.rld h o) .rld ∧
      ∃ (ws : List DefWrite) (r : Req), exec (.rst h o) s = .next (({ s with free := s.free + 1 }.emit 0 cls (.defer ws)).emit 0 cls (.start r)) ∧
        r.kind = .enqueue ∧ r.pr = o.pr.toNat ∧ ws.length = n / 64 ∧
        (s.issue.vj = true ∨ s.me.unjoined = [] → ∀ i < n / 64, ∃ w, ws[i]? = some w ∧ w.addr = va + 64 * i ∧ w.mask = BitVec.allOnes 64 ∧ w.rst = some va ∧
          ∀ j < 64, w.data.extractLsb' (8 * j) 8 = Mem.byte s.myDie.bank (b + 64 * i + j))) ∧
    (∀ out, let i := if out then Instr.tdmaOut h o else Instr.tdmaIn h o
      (s.issue.ctx = 1 → exec i s = .next (s.raise cls Cause.ownership s.issue.die)) ∧
      (s.issue.ctx ≠ 1 → aligned → n = 0 → exec i s = .next (s.raise cls Cause.misaligned 0)) ∧
      (s.issue.ctx ≠ 1 → aligned → 0 < n → ¬ inside → exec i s = .next (s.raise cls Cause.bankBounds b)) ∧
      (s.issue.ctx ≠ 1 → aligned → 0 < n → inside →
        (2 ^ 57 ≤ va → exec i s = .next (s.raise cls Cause.addressRange va)) ∧
        (va < 2 ^ 57 → s.pinEntry va = none → exec i s = .next (s.raise cls Cause.unpinned va)) ∧
        (∀ p, va < 2 ^ 57 → s.pinEntry va = some p →
          (p.page + p.size < va + n → exec i s = .next (s.raise cls Cause.transferSpan va)) ∧
          (va + n ≤ p.page + p.size → (if out then p.wr else p.rd) = false → exec i s = .next (s.raise cls Cause.protection va))) ∧
        (∀ t, s.tdmaTarget va n out = .ok t → starts i (if out then .tdmaOut else .tdmaIn)) ∧
        (∀ c, s.tdmaTarget va n out = .error c → exec i s = .next (s.raise cls c va))))

/-- R238–R241, Table 9-4: a bank address or a length that is no multiple of 64, a length outside 64 to 65,536 and a range outside
BWIN fault; SEND faults on a route that does not exist and on a timed route without a slot, and otherwise hands
its frame to the edges or to the timed fabric with the bytes of the port's first count; RECV takes the frame of its key when it
has arrived with exactly the length asked, raises the late-arrival trap when it has not, and the receive-mismatch fault on
another length. Both belong to FG. -/
def Obligations.FrameResults : Prop :=
  ∀ (h : Hdr) (o : Xfer) (s : State), s.guardOn h = true →
    let cls := h.cls.toNat
    let b := (s.s o.d).toNat
    let w := (s.s o.x).toNat
    let n := (s.s o.y).toNat
    let seq := (s.s o.z).toNat % 2 ^ 32
    let pkg := w % 2 ^ 10
    let die := w / 2 ^ 10 % 2 ^ 4
    let chan := w / 2 ^ 14 % 2 ^ 8
    let read : State := { s with free := s.free + 1 }
    let legal : Prop := b % 64 = 0 ∧ n % 64 = 0 ∧ 0 < n ∧ n ≤ 65536 ∧ s.arch.bwinBase.toNat ≤ b ∧ b + n ≤ s.arch.bwinLimit.toNat
    (s.issue.ctx = 1 → ∀ i ∈ [Instr.send h o, .recv h o], exec i s = .next (s.raise cls Cause.ownership s.issue.die)) ∧
    (s.issue.ctx ≠ 1 → b % 64 ≠ 0 → ∀ i ∈ [Instr.send h o, .recv h o], exec i s = .next (s.raise cls Cause.misaligned b)) ∧
    (s.issue.ctx ≠ 1 → b % 64 = 0 → n % 64 ≠ 0 ∨ n = 0 ∨ 65536 < n →
      ∀ i ∈ [Instr.send h o, .recv h o], exec i s = .next (s.raise cls Cause.misaligned n)) ∧
    (s.issue.ctx ≠ 1 → b % 64 = 0 → n % 64 = 0 → 0 < n → n ≤ 65536 →
      ¬ (s.arch.bwinBase.toNat ≤ b ∧ b + n ≤ s.arch.bwinLimit.toNat) →
      ∀ i ∈ [Instr.send h o, .recv h o], exec i s = .next (s.raise cls Cause.bankBounds b)) ∧
    (s.issue.ctx ≠ 1 → legal →
      (s.routeBad w = true → exec (.send h o) s = .next (s.raise cls Cause.edgeAbsent die)) ∧
      (s.routeBad w = false → pkg = s.pkg.toNat → ∃ first, exec (.send h o) s = .next (read.emit 0 cls (.sendFrame die chan seq b n first)) ∧
        first.length = min n (portRate s.issue.die)) ∧
      (s.routeBad w = false → pkg ≠ s.pkg.toNat → s.sendCarry pkg n = none →
        exec (.send h o) s = .next (s.raise cls Cause.fabricSlot s.gangStep)) ∧
      (s.routeBad w = false → pkg ≠ s.pkg.toNat → s.sendCarry pkg n ≠ none → ∃ first,
        exec (.send h o) s = .next (read.emit 0 cls (.sendTimed pkg die chan seq b n first))) ∧
      (s.myDie.staged (pkg, die, chan, seq) = none → ∃ v, exec (.recv h o) s = .next (s.raise cls Cause.lateArrival v)) ∧
      (∀ f, s.myDie.staged (pkg, die, chan, seq) = some f →
        (s.bel < f.ready → ∃ v, exec (.recv h o) s = .next (s.raise cls Cause.lateArrival v)) ∧
        (f.ready ≤ s.bel → f.data.length ≠ n → exec (.recv h o) s = .next (s.raise cls Cause.receiveMismatch s.gangStep)) ∧
        (f.ready ≤ s.bel → f.data.length = n → exec (.recv h o) s = .next (s.emit 0 cls (.takeFrame (pkg, die, chan, seq) b)))))

/-- R243–R245, R355–R358, Table 9-9: XPOSE and XRED belong to FG; a member that the exchange record does not list gets the
descriptor fault, an issue off the record's START the mismatch trap. XPOSE faults on a map that is misaligned or breaks R356, on
one that is not the record's, and on a buffer outside the window; XRED on a length that is no multiple of 64 and on a buffer
outside the window; both on a frame that finds no slot. Otherwise the exchange begins at once under its promise. The fault of a
misaligned map or length, and the window checks of the map and of XRED, are the model's choices (log 70). -/
def Obligations.CollectiveResults : Prop :=
  ∀ (h : Hdr) (o : Xfer) (s : State), s.guardOn h = true →
    let cls := h.cls.toNat
    let k := o.value h
    let d := (s.s o.d).toNat
    let x := (s.s o.x).toNat
    let y := (s.s o.y).toNat
    let t := s.gangStep
    let inside := fun a n => s.arch.bwinBase.toNat ≤ a ∧ a + n ≤ s.arch.bwinLimit.toNat
    let faults := fun (i : Instr) c v => exec i s = .next (s.raise cls c v)
    (s.issue.ctx = 1 → ∀ i ∈ [Instr.xpose h o, .xred h o], faults i Cause.ownership s.issue.die) ∧
    (s.issue.ctx ≠ 1 → s.exchangeOf k = none → ∀ i ∈ [Instr.xpose h o, .xred h o], faults i Cause.collDescriptor k) ∧
    (∀ e r, s.issue.ctx ≠ 1 → s.exchangeOf k = some (e, r) →
      (t % periodOf s.myTimetable ≠ e.start → ∀ i ∈ [Instr.xpose h o, .xred h o], faults i Cause.collMismatch t) ∧
      (t % periodOf s.myTimetable = e.start →
        let bytes := s.bankBytes s.issue.die s.issue.ctx false true d 192
        let m := readStencil bytes
        let carried := fun flits => s.exchangeCarry s.myGang s.me.member e t s.myGang.carried flits
        let flits := exchangeFlits e m.esz r (m.countTo r)
        let esz := (xredFmt (o.sub.toNat / 4 % 8)).width / 8
        let same := exchangeFlits e esz r fun _ => y / esz
        (d % 64 ≠ 0 → faults (.xpose h o) Cause.collDescriptor k) ∧
        (d % 64 = 0 → ¬ inside d 192 → faults (.xpose h o) Cause.bankBounds d) ∧
        (d % 64 = 0 → inside d 192 →
          (m.ok e.npart = false → faults (.xpose h o) Cause.collDescriptor k) ∧
          (m.ok e.npart = true → natOfBytes (shake256 bytes 8) ≠ e.mchk → faults (.xpose h o) Cause.collMismatch k) ∧
          (m.ok e.npart = true → natOfBytes (shake256 bytes 8) = e.mchk →
            (¬ inside x (m.extent m.src) → faults (.xpose h o) Cause.bankBounds x) ∧
            (inside x (m.extent m.src) → ¬ inside y (m.extent m.dst) → faults (.xpose h o) Cause.bankBounds y) ∧
            (inside x (m.extent m.src) → inside y (m.extent m.dst) →
              (carried flits = none → faults (.xpose h o) Cause.fabricSlot t) ∧
              (carried flits ≠ none → ∃ q, exec (.xpose h o) s = .next (s.emit 0 cls (.exchange k r x y 0 (some bytes) 0 0 q)) ∧
                q.kind = .collective ∧ q.pr = o.pr.toNat)))) ∧
        (y % 64 ≠ 0 → faults (.xred h o) Cause.collDescriptor k) ∧
        (y % 64 = 0 → ¬ inside d y → faults (.xred h o) Cause.bankBounds d) ∧
        (y % 64 = 0 → inside d y → ¬ inside x y → faults (.xred h o) Cause.bankBounds x) ∧
        (y % 64 = 0 → inside d y → inside x y →
          (carried same = none → faults (.xred h o) Cause.fabricSlot t) ∧
          (carried same ≠ none →
            ∃ q, exec (.xred h o) s = .next (s.emit 0 cls (.exchange k r d x y none (o.sub.toNat % 4) (o.sub.toNat / 4 % 8) q)) ∧
              q.kind = .collective ∧ q.pr = o.pr.toNat))))

/-- R33, R247, R252–R254: CQPOST takes an entry of the atomic log, which holds 256 for a context other than a handler, and
starts its claim with the 64 bytes of its packet; BARINIT starts the two words of a bank barrier or defers them; BARARR records
its arrival; both fault on an address off 16 bytes. OQPUSH faults without a partner context, holds or traps on a full queue and
else sends its word; OQPOP frees a poppable head and lands its value after 1. -/
def Obligations.QueueAndBarrierResults : Prop :=
  ∀ (h : Hdr) (o : Xfer) (s : State), s.guardOn h = true →
    let cls := h.cls.toNat
    let a := s.arch
    let x := (s.s o.x).toNat
    let b := (s.s o.y).toNat
    let partner := s.ctx ((s.issue.die + 4) % 8) s.issue.ctx
    let n := s.me.atomPos + (s.issue.acts.filter fun e => match e.2.2 with | .logAtomic _ => true | _ => false).length
    let starts : Instr → (Req → Prop) → Prop := fun i p => ∃ r, exec i s = .next (s.emit 0 cls (.start r)) ∧ r.pr = o.pr.toNat ∧ p r
    (x % 64 ≠ 0 → exec (.cqpost h o) s = .next (s.raise cls Cause.misaligned x)) ∧
    (x % 64 = 0 → b % 64 ≠ 0 → exec (.cqpost h o) s = .next (s.raise cls Cause.misaligned b)) ∧
    (x % 64 = 0 → b % 64 = 0 → ¬ (a.bwinBase.toNat ≤ b ∧ b + 64 ≤ a.bwinLimit.toNat) → exec (.cqpost h o) s = .next (s.raise cls Cause.bankBounds b)) ∧
    (x % 64 = 0 → b % 64 = 0 → a.bwinBase.toNat ≤ b → b + 64 ≤ a.bwinLimit.toNat →
      (s.issue.ctx ≠ 2 ∧ 256 ≤ n → exec (.cqpost h o) s = .next (s.raise cls Cause.atomicLog x)) ∧
      (¬ (s.issue.ctx ≠ 2 ∧ 256 ≤ n) → ∃ (pkt : List Byte) (r : Req),
        exec (.cqpost h o) s = .next (({ s with free := s.free + 1 }.emit 0 cls (.logAtomic n)).emit 0 cls (.start r)) ∧
        r.kind = .claim o.d.toNat pkt n ∧ r.addr = s.s o.x ∧ r.pr = o.pr.toNat ∧
        (s.issue.vj = true ∨ s.me.unjoined = [] → pkt = Mem.bytes s.myDie.bank b 64))) ∧
    (x % 16 ≠ 0 → ∀ i ∈ [Instr.barinit h o, .bararr h o], exec i s = .next (s.raise cls Cause.misaligned x)) ∧
    (x % 16 = 0 → (s.s o.x).getLsbD 63 = true →
      (¬ (a.bwinBase.toNat ≤ x - 2 ^ 63 ∧ x - 2 ^ 63 + 16 ≤ a.bwinLimit.toNat) →
        ∀ i ∈ [Instr.barinit h o, .bararr h o], exec i s = .next (s.raise cls Cause.bankBounds x)) ∧
      (a.bwinBase.toNat ≤ x - 2 ^ 63 → x - 2 ^ 63 + 16 ≤ a.bwinLimit.toNat →
        starts (.barinit h o) (fun r => r.kind = .barinit (s.s o.y) ∧ r.addr = s.s o.x))) ∧
    (x % 16 = 0 → (s.s o.x).getLsbD 63 = false → ∃ (ws : List DefWrite) (r : Req),
      exec (.barinit h o) s = .next ((s.emit 0 cls (.defer ws)).emit 0 cls (.start r)) ∧ ∃ w, ws = [w] ∧ w.addr = x / 64 * 64 ∧
        w.data.extractLsb' (8 * (x % 64)) 64 = (s.s o.y) &&& 0x7FFFFFFFFFFFFFFF#64 ∧
        w.data.extractLsb' (8 * (x % 64) + 64) 64 = (s.s o.y) &&& 0x7FFFFFFFFFFFFFFF#64) ∧
    (x % 16 = 0 → ((s.s o.x).getLsbD 63 = true → a.bwinBase.toNat ≤ x - 2 ^ 63 ∧ x - 2 ^ 63 + 16 ≤ a.bwinLimit.toNat) →
      ∃ r, exec (.bararr h o) s = .next ((s.emit 0 cls (.arrive { addr := s.s o.x, value := s.s o.y, scope := o.scope })).emit 0 cls (.start r)) ∧
        r.kind = .enqueue ∧ r.pr = o.pr.toNat) ∧
    (partner.run = .absent → exec (.oqpush h o) s = .next (s.raise cls Cause.ownership s.issue.die)) ∧
    (partner.run ≠ .absent → 64 ≤ partner.arch.oq.length →
      exec (.oqpush h o) s = .next (if a.guarded then s.holdGroup else s.raise cls Cause.queueOverflow 2)) ∧
    (partner.run ≠ .absent → partner.arch.oq.length < 64 → exec (.oqpush h o) s = .next (s.emit 0 cls (.oqPush (s.s o.x)))) ∧
    (a.oq = [] → exec (.oqpop h o) s = .next (s.raise cls Cause.queueUnderflow 2)) ∧
    ∀ e rest, a.oq = e :: rest →
      (e.poppable = true → exec (.oqpop h o) s = .next ((s.emit 0 cls .oqPop).emit 1 cls (.s o.d.toNat e.value))) ∧
      (e.poppable = false → exec (.oqpop h o) s = .next (if a.guarded then s.holdGroup else s.raise cls Cause.timing 3))

/-- R255–R257: LPARK and LWAKE ask a Lantern of the gang's timetable for their mask and fault with ownership otherwise (that an
identity of 14 or more, or one not served, faults so is the model's choice, log 23); TTSEL
selects a phase that the timetable has and returns the old one, all ones for another; RESYNC holds its group until it is
released, and then lands the number of periods added. LPARK, LWAKE and RESYNC belong to FG. -/
def Obligations.FabricControlResults : Prop :=
  ∀ (h : Hdr) (o : Xfer) (s : State), s.guardOn h = true →
    let cls := h.cls.toNat
    let l := (s.s o.x).toNat
    let listed : Prop := l < 14 ∧ ∃ e ∈ lanEntries s.myTimetable, e.lan = l
    (s.issue.ctx = 1 → ∀ i ∈ [Instr.lpark h o, .lwake h o, .resync h o], exec i s = .next (s.raise cls Cause.ownership s.issue.die)) ∧
    (s.issue.ctx ≠ 1 → ¬ listed → ∀ i ∈ [Instr.lpark h o, .lwake h o], exec i s = .next (s.raise cls Cause.ownership s.issue.die)) ∧
    (s.issue.ctx ≠ 1 → listed → exec (.lpark h o) s = .next (s.emit 0 cls (.lantern l (s.s o.y) false none)) ∧
      exec (.lwake h o) s = .next (s.emit 0 cls (.lantern l (s.s o.y) true (if o.sub.getLsbD 0 then some (s.s o.z).toNat else none)))) ∧
    (l < phasesOf (s.timetable s.myGang) →
      exec (.ttsel h o) s = .next ((s.emit 0 cls (.selectPhase l)).emit 1 cls (.s o.d.toNat (BitVec.ofNat 64 s.myGang.phase)))) ∧
    (phasesOf (s.timetable s.myGang) ≤ l → exec (.ttsel h o) s = .next (s.emit 1 cls (.s o.d.toNat (BitVec.allOnes 64)))) ∧
    (s.issue.ctx ≠ 1 →
      (∀ m, s.me.resynced = some m → exec (.resync h o) s = .next (s.emit 1 cls (.s o.d.toNat m))) ∧
      (s.me.resynced = none → exec (.resync h o) s = .next
        (s.modCtx s.issue.die s.issue.ctx fun x => { x with atResync := some (s.s o.x) }).holdGroup))

/-! ### Decoding and encoding (02, 03) -/

/-- Tables 2-3 to 2-6, 3-1 to 3-10: words written out from the encodings decode to the instructions that they stand for. -/
def Obligations.SampleWords : Prop :=
  decodeSlot .v false 0 0x0200410000000080#64 none =
    .ok (.addi { cls := 0, g := 0, gn := false, ext := none } { d := 4, x := 4, fn := 0, imm := 128 }) ∧
  decodeSlot .v false 0 0x0A00310500200000#64 none =
    .ok (.cmp { cls := 0, g := 0, gn := false, ext := none } { d := 3, x := 4, y := 5, z := 0, fn := 2, rnd := .ne }) ∧
  decodeSlot .v false 0 0x55000003FFFFFFF8#64 none =
    .ok (.loop { cls := 0, g := 0, gn := false, ext := none } { fn := 0, x := 0, y := 0, off := 0x3FFFFFFF8 }) ∧
  decodeSlot .v false 1 0x400070C6FFFFFFF0#64 none =
    .ok (.lds { cls := 1, g := 0, gn := false, ext := none } { d := 7, x := 3, fn := 6, imm := 0xFFFFFFF0 }) ∧
  decodeSlot .v false 2 0x1400800420280000#64 none =
    .ok (.vfma { cls := 2, g := 0, gn := false, ext := none }
      { d := 8, x := 0, y := 4, z := 8, fmt := .f32, ovf := .inf, rnd := .ne, ftz := false, sub := 0 }) ∧
  decodeSlot .v false 12 0x0000C0070C004000#64 none =
    .ok (.nrd { cls := 12, g := 0, gn := false, ext := none } { d := 12, pl := 7, b := 3, roff := 64, sub := 0 }) ∧
  decodeSlot .v false 11 0x0000240A0B0C0008#64 none =
    .ok (.ixpush { cls := 11, g := 0, gn := false, ext := none } { d := 2, x := 16, y := 10, tk := 0, fmt := .i64, sub := 3, imm := 8 }) ∧
  decodeSlot .m false 2 0x01019D63F1034000#64 none =
    .ok (.mma { cls := 2, g := 0, gn := false, ext := none }
      { td := 3, tx := 1, fa := .hb4, fb := .hb8a, n := 63, cap := 8, b := 6, ks := 4, js := 0, sp := false })

/-- DECODE AND ENCODE AGREE (R56–R64, Tables 2-3 to 2-6): for every slot instruction that is well-formed for a die type, with
every operand at every value that its encoding admits, decoding its encoded slot word gives it back. -/
def Obligations.SlotRoundTrip : Prop :=
  ∀ (k : DieKind) (handler : Bool) (i : Instr) (h : Hdr) (w : Word),
    i.WellFormed k handler → i.hdr = some h → encodeSlot i = some w → decodeSlot k handler h.cls w h.ext = .ok i

/-! ### Steps, groups, slots (01 R14, R35–R38, 02 R53, R57, 11 R300) -/

/-- A step does the next thing of its count: an event of the table at the head of the agenda runs with its meaning; a slot word
that the sealed image holds and that decodes runs with the meaning of its instruction; a new count is planned when nothing is
left. Where the image holds no such word, or it does not decode, the step stops with the fault of unsealed code. -/
def Obligations.StepRunsDecoded : Prop :=
  ∀ (s : State) (ms : List Micro),
    let t : State := { s with agenda := ms }
    (∀ i, s.agenda = .ev i :: ms → step s = exec i t) ∧
    (∀ cls off ext w i, s.agenda = .slot cls off ext :: ms → (s.code s.issue.die s.issue.ctx)[off]? = some w →
      decodeSlot (kindOf s.issue.die) true cls w ext = .ok i → step s = exec i t) ∧
    (∀ cls off ext, s.agenda = .slot cls off ext :: ms → (s.code s.issue.die s.issue.ctx)[off]? = none → step s = .fault .notSealedCode) ∧
    (∀ cls off ext w e, s.agenda = .slot cls off ext :: ms → (s.code s.issue.die s.issue.ctx)[off]? = some w →
      decodeSlot (kindOf s.issue.die) true cls w ext = .error e → step s = .fault .notSealedCode) ∧
    (s.agenda = .commit :: ms → step s = .next t.endGroup) ∧
    (s.agenda = [] → step s = .next s.planCount)

/-- Every slot instruction answers a next state, whatever its operands and whatever the state: what it cannot do it raises as a
trap or waits for (R38–R40). R57: a slot that is guarded off has no effect at all. A cluster instruction tests its guard for
each element instead (R141). THE FRAME OF A SLOT: R14, R35: every slot instruction but the four that may wait changes nothing
when its meaning runs but the record of the group under execution: no register, no flag, no byte of any memory, no queue; what
it records takes effect when its group issues and its result lands. -/
def Obligations.SlotFrame : Prop :=
  (∀ (i : Instr) (h : Hdr) (s : State), i.hdr = some h → ∃ t, exec i s = .next t) ∧
  (∀ (i : Instr) (h : Hdr) (s : State), i.hdr = some h → clustered i = false → s.guardOn h = false → exec i s = .next s) ∧
  (∀ (i : Instr) (h : Hdr) (s t : State), i.hdr = some h → waits i = false → exec i s = .next t →
    SlotOnly s t ∧ t.dies = s.dies ∧ t.hbm = s.hbm ∧ t.agenda = s.agenda ∧ t.calendar = s.calendar)

/-- The frame of FENCE, DRAIN, WAITB and RESYNC: they change no register, flag or captured state of any context and no byte of
any memory of the package. -/
def Obligations.WaitingFrame : Prop :=
  ∀ (i : Instr) (h : Hdr) (s t : State), i.hdr = some h → waits i = true → exec i s = .next t →
    t.hbm = s.hbm ∧ ∀ d, (t.die d).bank = (s.die d).bank ∧ (t.die d).wbuf = (s.die d).wbuf ∧ (t.die d).tags = (s.die d).tags ∧
      (t.die d).groups = (s.die d).groups ∧ ∀ c,
        let a := (s.ctx d c).arch
        let b := (t.ctx d c).arch
        b.pc = a.pc ∧ b.s = a.s ∧ b.q = a.q ∧ b.v = a.v ∧ b.p = a.p ∧ b.a = a.a ∧ b.lp = a.lp ∧ b.lc = a.lc ∧ b.ec = a.ec ∧ b.vrb = a.vrb ∧
        b.flags = a.flags ∧ b.seed = a.seed ∧ b.gbase = a.gbase ∧ b.guarded = a.guarded ∧ b.trapCause = a.trapCause ∧
        b.landing = a.landing ∧ b.dq = a.dq ∧ b.aq = a.aq ∧ b.oq = a.oq ∧ b.regions = a.regions ∧ b.bwinBase = a.bwinBase ∧
        b.bwinLimit = a.bwinLimit ∧ b.promise = a.promise

/-- R14, R34–R37, R53, R125: the group of a present context that holds nothing, traps nothing and ends no region issues as one
step: the pc goes to the branch target or past its bundles, the generator's draws take effect, every recorded result enters the
landing buffer behind those in flight with its latency, and no register but these changes. An idle bundle is a group without
slots that takes n + 1 steps. -/
def Obligations.GroupIssues : Prop :=
  (∀ (n : BitVec 5) (ck vj : Bool) (s : State), exec (.idleBundle n ck vj) s = .next { s with issue := { s.issue with idle := some n.toNat } }) ∧
  ∀ (s : State), s.issue.die < 8 → s.issue.ctx < 3 → s.issue.hold = false → s.issue.tileWait = false → s.issue.traps = [] →
    (∀ a ∈ s.issue.acts, ∀ k, a.2.2 ≠ .exit k) → s.issue.ck = false ∨ s.me.committed = true →
    let i := s.issue
    let x := s.me
    let y := s.endGroup.ctx i.die i.ctx
    y.arch = { x.arch with
      pc := i.branch.getD (i.pc + BitVec.ofNat 64 (8 * i.size))
      seed := i.seed
      landing := x.arch.landing ++ i.acts.map fun a =>
        { act := a.2.2, rem := a.1, cls := a.2.1, born := x.steps, gstep := s.gangStep } } ∧
    y.stepped = true ∧ y.idleLeft = i.idle.getD 0 ∧ y.committed = false ∧ y.nonEmpty = (if i.idle = none then x.nonEmpty + 1 else 0) ∧
    y.unjoined = (if i.vj then [] else x.unjoined) ∧
    s.endGroup.hbm = s.hbm ∧ (∀ d, (s.endGroup.die d).bank = (s.die d).bank) ∧
    ∀ d c, (d, c) ≠ (i.die, i.ctx) → (s.endGroup.ctx d c).arch = (s.ctx d c).arch

/-- R14, R19, R22, R24, R25, R26, R27, R31, R32, R33, R35, R42, R44, R56, R119, R125, R133, R135, R138, R185, R190, R193, R197, R198, R202,
R206, R208, R214, R239, R241, R253, R254, R255, R256: results as they land. s[n] takes its value, q0 and p0 read as ones whatever lands; a
vector register, a predicate and a reduction latch take what the mask selects; live planes, LC, VRB, EC, FLAGS and the guarded mark take
theirs; a write of the bank wall, the weight buffer, the tag store, a tile, a latch, a scale register changes exactly what it names; an
operation makes its tile busy; entries are pushed into and popped from AQ, DQ and OQ; a scatter push joins the open window of its
region, which the 64th element or a SACFG closes; deferred writes and arrivals join those of the region; frames leave and are taken;
EXIT and RETT end the context. Stated for a context without duplicated registers (R322) and memories in their canonical form
(MemoriesStayCanonical). Which count a free choice takes is free (log 4); the number that an entry is known by is the model's (log 1). -/
def Obligations.LandingResults : Prop :=
  ∀ (s : State) (d c cls g : Nat), d < 8 → c < 3 → (s.ctx d c).dup = [] →
    let x := (s.ctx d c).arch
    let u : Act → State := fun a => s.applyAct d c cls g a
    let after : Act → Arch := fun a => ((u a).ctx d c).arch
    let gr : Nat → TileGroup := fun k => tget (s.die d).groups k default
    let gr' : Act → Nat → TileGroup := fun a k => tget ((u a).die d).groups k default
    -- registers
    (∀ n v, n < 64 → after (.s n v) = { x with s := x.s.setIfInBounds n v }) ∧
    (∀ n b, n < 8 → (after (.q n b)).qreg n = (b || n == 0) ∧ ∀ k < 8, k ≠ n → (after (.q n b)).qreg k = x.qreg k) ∧
    (∀ k n v m, k < 8 → n < 64 →
      (∀ i < 128, ((after (.v k n v m)).vphys k n).extractLsb' (8 * i) 8 = (if m.getLsbD i then v else x.vphys k n).extractLsb' (8 * i) 8) ∧
      ∀ k' n', (k', n') ≠ (k, n) → (after (.v k n v m)).vphys k' n' = x.vphys k' n') ∧
    (∀ k, x.preg k 0 = BitVec.allOnes 128) ∧ x.qreg 0 = true ∧
    (∀ k n v m, k < 8 → n < 16 →
      let pr : Arch → Nat → Nat → PReg := fun a k n => tget (tget a.p k default) n 0
      (0 < n → pr (after (.p k n v m)) k n = (pr x k n &&& ~~~m) ||| (v &&& m)) ∧
      (∀ k' n', (k', n') ≠ (k, n) ∨ n = 0 → pr (after (.p k n v m)) k' n' = pr x k' n') ∧
      { after (.p k n v m) with p := x.p } = x) ∧
    (∀ n v m, n < 4 →
      (∀ i < 128, ((after (.a n v m)).areg n).extractLsb' (8 * i) 8 = (if m.getLsbD i then v else x.areg n).extractLsb' (8 * i) 8) ∧
      ∀ k, k ≠ n → (after (.a n v m)).areg k = x.areg k) ∧
    (∀ n l, n < 8 → after (.lp n l) = { x with lp := x.lp.setIfInBounds n l }) ∧
    (∀ f, after (.flags f) = { x with flags := x.flags ||| f }) ∧
    (∀ v, after (.lc v) = { x with lc := v }) ∧ (∀ v, after (.vrb v) = { x with vrb := v }) ∧
    (∀ b, after (.guarded b) = { x with guarded := b }) ∧
    (c = 0 → ∀ v, after (.sysreg 0x0D v) = { x with ec := v.setWidth 8 } ∧ after (.sysreg 0x0B v) = { x with vrb := v.setWidth 5 } ∧
      after (.sysreg 0x0C v) = { x with lc := v } ∧ after (.sysreg 0x09 v) = { x with flags := x.flags &&& ~~~(v.setWidth 8) } ∧
      after (.sysreg 0x0A v) = { x with seed := v }) ∧
    -- memories
    (∀ plate bs, Memory.wf (s.die d).bank = true → (bs.map (·.1)).Nodup →
      (∀ a b, (a, b) ∈ bs → Mem.byte ((u (.bank plate bs)).die d).bank a = b) ∧
      ∀ a, a ∉ bs.map (·.1) → Mem.byte ((u (.bank plate bs)).die d).bank a = Mem.byte (s.die d).bank a) ∧
    (∀ bs, Memory.wf (s.die d).wbuf = true → (bs.map (·.1)).Nodup →
      (∀ a b, (a, b) ∈ bs → Mem.byte ((u (.wbuf bs)).die d).wbuf a = b) ∧
      ∀ a, a ∉ bs.map (·.1) → Mem.byte ((u (.wbuf bs)).die d).wbuf a = Mem.byte (s.die d).wbuf a) ∧
    (SMap.wf (s.die d).tags = true → ∀ n v k, SMap.get ((u (.tag n v)).die d).tags n = v ∧
      (∀ a, a ≠ n → SMap.get ((u (.tag n v)).die d).tags a = SMap.get (s.die d).tags a) ∧
      ∀ a, SMap.get ((u (.clearTags n k)).die d).tags a =
        (if n ≤ a ∧ a < n + k then SMap.get (s.die d).tags a &&& ~~~((1 : BitVec 128) <<< 95) else SMap.get (s.die d).tags a)) ∧
    (∀ k kj n es, k < 4 → n < 8 → es.length ≤ 64 →
      let reg : Arch → Bool → Nat → Nat → Nat → BitVec 16 := fun a j k n i =>
        tget (tget (tget (if j then a.jreg else a.kreg) k default) n default) i 0
      ∀ k' n' i, (k' = k ∧ n' = n ∧ i < es.length → reg (after (.scale k kj n es)) kj k' n' i = es.getD i 0) ∧
        (¬ (k' = k ∧ n' = n ∧ i < es.length) → reg (after (.scale k kj n es)) kj k' n' i = reg x kj k' n' i) ∧
        reg (after (.scale k kj n es)) (!kj) k' n' i = reg x (!kj) k' n' i) ∧
    -- tiles and latches
    (∀ k t, k < 4 → t < 8 → (∀ n pair mma form, (form = some false → ((gr k).tileBits t).form = false) →
      let a : Act := .busy k t n pair mma form
      let old := (gr k).tileBits t
      (gr' a k).tileBits t = { busy := true, cnt := n, pair := pair, form := form.getD old.form, inuse := old.inuse || form.isSome, mma := mma } ∧
      (∀ j, j ≠ t → (gr' a k).tileBits j = (gr k).tileBits j) ∧ (∀ j, j ≠ k → gr' a j = gr j) ∧ (gr' a k).tiles = (gr k).tiles) ∧
      (∀ n pair mma, ((gr k).tileBits t).form = true →
        let a : Act := .busy k t n pair mma (some false)
        ((gr' a k).tileBits t).form = false ∧ ((gr' a k).tileBits (if t % 2 = 0 then t + 1 else t - 1)).form = false ∧
        ((gr' a k).tileBits t).busy = true ∧ ((gr' a k).tileBits t).cnt = n)) ∧
    (∀ k t cells, k < 4 → t < 8 → SMap.wf (gr k).tiles = true → (cells.map (·.1)).Nodup →
      let mine : Nat → Bool := fun a => a / 16384 % 8 == t
      let put : Nat → BitVec 32 → BitVec 32 := fun a old => ((cells.find? fun p => p.1 == a).map (·.2)).getD old
      (∀ a, SMap.get (gr' (.tile k t cells) k).tiles a = put a (SMap.get (gr k).tiles a)) ∧ (gr' (.tile k t cells) k).bits = (gr k).bits ∧
      (∀ a, SMap.get (gr' (.tileSet k t cells) k).tiles a = put a (if mine a then 0 else SMap.get (gr k).tiles a)) ∧
      ((gr' (.tileSet k t cells) k).tileBits t).inuse = true ∧ ((gr' (.tileSet k t cells) k).tileBits t).form = false ∧
      (∀ a, SMap.get (gr' (.tileFree k t) k).tiles a = if mine a then 0 else SMap.get (gr k).tiles a) ∧
      (gr' (.tileFree k t) k).tileBits t = { (gr k).tileBits t with form := false, inuse := false } ∧
      ∀ j, j ≠ k → gr' (.tile k t cells) j = gr j ∧ gr' (.tileSet k t cells) j = gr j ∧ gr' (.tileFree k t) j = gr j) ∧
    (∀ k w f sp pl ll bs sc st, k < 4 → w < 4 → SMap.wf (gr k).latches = true → SMap.wf (gr k).scales = true → SMap.wf (gr k).lists = true →
      (∀ l ∈ bs, (l.map (·.1)).Nodup ∧ ∀ p ∈ l, p.1 < 32768) → (∀ l ∈ sc, l.length ≤ 2048) → (∀ l ∈ st, l.length ≤ 512) →
      let y := gr' (.latch k w f sp pl ll bs sc st) k
      let z := gr' (.latchFree k w) k
      tget y.annex w default = { lvalid := true, fmtl := f.code, lsp := sp, lplate := BitVec.ofNat 11 pl, llen := BitVec.ofNat 10 ll, linuse := true } ∧
      tget z.annex w default = default ∧
      (∀ w', w' ≠ w → tget y.annex w' default = tget (gr k).annex w' default ∧ tget z.annex w' default = tget (gr k).annex w' default) ∧
      (∀ a w' b, a < 8 → w' < 4 → b < 32768 →
        SMap.get y.latches ((a * 4 + w') * 32768 + b) = (if w' = w then (((bs.getD a []).find? fun p => p.1 == b).map (·.2)).getD 0
          else SMap.get (gr k).latches ((a * 4 + w') * 32768 + b)) ∧
        SMap.get z.latches ((a * 4 + w') * 32768 + b) = (if w' = w then 0 else SMap.get (gr k).latches ((a * 4 + w') * 32768 + b))) ∧
      (∀ a w' i, a < 8 → w' < 4 → i < 2048 → SMap.get y.scales ((a * 4 + w') * 2048 + i) =
        (if w' = w then (sc.getD a []).getD i 0 else SMap.get (gr k).scales ((a * 4 + w') * 2048 + i))) ∧
      (∀ a w' i, a < 8 → w' < 4 → i < 512 → SMap.get y.lists ((a * 4 + w') * 512 + i) =
        (if w' = w then (st.getD a []).getD i 0 else SMap.get (gr k).lists ((a * 4 + w') * 512 + i))) ∧
      ∀ j, j ≠ k → gr' (.latch k w f sp pl ll bs sc st) j = gr j ∧ gr' (.latchFree k w) j = gr j) ∧
    (∀ k n, k < 4 → gr' (.select k n) k = { gr k with selv := true, selp := BitVec.ofNat 11 n }) ∧
    -- queues
    (∀ q, (x.dqEntry? q.id = none → u (.aqPush q) = s) ∧ (∀ e, x.dqEntry? q.id = some e → x.aq.length < 32 → after (.aqPush q) = { x with aq := x.aq ++ [q] } ∧
      (x.aq = [] → ∃ n, { at_ := s.now + 1 + n, phase := phEdge, what := .ev (.aqEntryIssue d c) } ∈ (u (.aqPush q)).calendar))) ∧
    (∀ e q, e.waiting = [] → x.dq.length < 32 → after (.dqPush e q) =
      { x with dq := x.dq ++ [{ e with gstep := g, step := (s.ctx d c).steps, stages := [], skip := [] }] }) ∧
    (∀ id, after (.dqPop id) = { x with dq := x.dq.filter fun e => e.id != id }) ∧
    ((after .ixclr).aq = [] ∧ (after .ixclr).dq = [] ∧ (∀ l ∈ (after .ixclr).landing, ∀ q, l.act ≠ .aqPush q) ∧
      ∀ l ∈ x.landing, (∀ q, l.act ≠ .aqPush q) → l ∈ (after .ixclr).landing) ∧
    (after .oqPop = { x with oq := x.oq.tail }) ∧
    (∀ v, let m := (d + 4) % 8
      (s.ctx m c).arch.oq.length < 64 →
      ((u (.oqPush v)).ctx m c).arch = { (s.ctx m c).arch with
        oq := (s.ctx m c).arch.oq ++ [{ id := s.nextId, value := v, ready := s.bel + 24, poppable := false }] } ∧
      { at_ := s.now + 24, phase := phStart, what := .ev (.oqEntryPoppable m c s.nextId) } ∈ (u (.oqPush v)).calendar) ∧
    -- scatter
    (∀ r e, r < 8 → (s.ctx d c).run ≠ .exited →
      let t := tget x.scat r default
      let q := t.open_ ++ [{ e with gstep := g }]
      (q.length < 64 → e.cut = false → after (.scatPush r [e]) = { x with scat := x.scat.setIfInBounds r { t with open_ := q } }) ∧
      (64 ≤ q.length ∨ e.cut = true →
        after (.scatPush r [e]) = { x with scat := x.scat.setIfInBounds r { open_ := [], closed := t.closed ++ [q] } } ∧
        ∃ n, { at_ := s.now + n, phase := phEnd, what := .ev (.scatterWindowPerform d c r) } ∈ (u (.scatPush r [e])).calendar)) ∧
    (∀ r cfg, r < 8 → (∀ l ∈ x.landing, ∀ es, l.act = .scatPush r es → es = []) →
      let t := tget x.scat r default
      let old := tget x.regions r default
      let shut := if t.open_ = [] then x.scat else x.scat.setIfInBounds r { open_ := [], closed := t.closed ++ [t.open_] }
      after (.scatClose r) = { x with scat := shut } ∧
      after (.scatSet r cfg) = { x with scat := shut, regions := x.regions.setIfInBounds r { cfg with sat := old.sat, nanv := old.nanv, ovf := old.ovf } } ∧
      after (.scatClr r) = { x with scat := shut, regions := x.regions.setIfInBounds r { old with sat := false, nanv := false, ovf := false } }) ∧
    (∀ r cfg, r < 8 → (∃ l ∈ x.landing, ∃ e es, l.act = .scatPush r (e :: es)) →
      (after (.scatClose r)).scat = x.scat ∧ (after (.scatSet r cfg)).scat = x.scat ∧ (after (.scatClr r)).scat = x.scat ∧
      (after (.scatClose r)).landing = x.landing.map (Landing.cutPush r)) ∧
    -- what the region defers
    (∀ ws, c < 2 → (s.ctx d c).run ≠ .exited →
      let y := { s.ctx d c with deferred := (s.ctx d c).deferred ++ ws.map fun w => { w with cls := cls, step := (s.ctx d c).steps } }
      y.deferredGranules.length ≤ (if c = 0 then 32768 else 4096) → (u (.defer ws)).ctx d c = y) ∧
    (∀ r, c < 2 → (s.ctx d c).run ≠ .exited →
      let y := { s.ctx d c with arrivals := (s.ctx d c).arrivals ++ [r] }
      y.deferredGranules.length ≤ (if c = 0 then 32768 else 4096) → (u (.arrive r)).ctx d c = y) ∧
    -- frames and requests
    (∀ e h bs, neighbour d e = none → u (.nframe e h bs) = s) ∧
    (∀ e h bs k, neighbour d e = some k → s.edges = BitVec.allOnes 14 → s.edgeLate = [] →
      ((u (.nframe e h bs)).die k).nframes = (s.die k).nframes ++
        [{ id := s.nextId, edge := farEdge e, arrive := s.bel + h, gang := (s.ctx d c).gang, fromDie := d, bytes := bs }] ∧
      { at_ := s.now + h, phase := phStart, what := .ev (.nsendFrameArrival k s.nextId) } ∈ (u (.nframe e h bs)).calendar) ∧
    (∀ e, ((u (.ntake e)).die d).nframes = (s.die d).nframes.filter fun f => !(f.edge == e && f.arrive == s.bel)) ∧
    (∀ dst ch q b n first, ∃ y, (u (.sendFrame dst ch q b n first)).sends = s.sends ++ [y] ∧ y.id = s.nextId ∧ y.fromDie = d ∧ y.fromCtx = c ∧
      y.gang = (s.ctx d c).gang ∧ y.dstPkg = s.pkg.toNat ∧ y.dstDie = dst ∧ y.chan = ch ∧ y.seq = q ∧ y.bank = b ∧ y.n = n ∧ y.data = first ∧
      y.issued = s.bel ∧ y.path = dirPath d dst) ∧
    (∀ pkg die ch q b n first G, s.gangOf d c = some G →
      let gs := (s.belfry - BitVec.ofNat 64 G.gbase).toNat
      ∀ e sl z a, carry (s.timetable G) G.carried G.phase (s.ctx d c).member pkg 0 gs (1 + n / 64) = some (e, sl, z, a) → e.lan < 14 →
        ∃ y, (u (.sendTimed pkg die ch q b n first)).sends = s.sends ++ [y] ∧ y.id = s.nextId ∧ y.fromDie = d ∧ y.dstPkg = pkg ∧ y.dstDie = die ∧
          y.chan = ch ∧ y.seq = q ∧ y.n = n ∧ y.data = first ∧ y.ident = e.lan ∧ y.entry = e.ix ∧ y.leave = G.gbase + 64 * (gs / 64 + 2) ∧
          y.arrive = G.gbase + a ∧ y.path = toPort (portOf e.lan) d ∧
          ((u (.sendTimed pkg die ch q b n first)).lantern e.lan).txq = (s.lantern e.lan).txq ++ y.flits) ∧
    (∀ key b f, (s.die d).staged key = some f → ((u (.takeFrame key b)).ctx d c).taken = (s.ctx d c).taken ++ [key] ∧
      ((u (.takeFrame key b)).ctx d c).takes = (s.ctx d c).takes ++ [(s.nextId, b, f.data)]) ∧
    (∀ i m w arm, ∃ k < 256, (u (.lantern i m w arm)).lanternReqs = s.lanternReqs ++
        [{ id := s.nextId, ident := i, mask := m, wake := w, arm := arm, die := d, gang := (s.ctx d c).gang, at_ := s.now + 1 + k }] ∧
      { at_ := s.now + 1 + k, phase := phStart, what := .ev (.lanternRequestAct s.nextId) } ∈ (u (.lantern i m w arm)).calendar) ∧
    (∀ p G, s.gangOf d c = some G → (u (.selectPhase p)).gang? G.id = some { G with nextPhase := some p } ∧
      { at_ := s.now + (leastCongruent (s.bel + 1) 0 G.tp - s.bel), phase := phStart, what := .ev (.phaseSwitch G.id) } ∈
        (u (.selectPhase p)).calendar) ∧
    -- the end of a context
    (∀ k, c < 2 → (s.ctx d c).deferred = [] → (s.ctx d c).arrivals = [] → (s.ctx d c).deferScat = [] → (s.ctx d c).taken = [] →
      (s.ctx d c).reqs = [] → x.scatIdle = true →
      let y := (u (.exit k)).ctx d c
      y.run = .exited ∧ y.succ = k ∧ y.before = [] ∧ y.staging = [] ∧ y.atomLog = [] ∧ y.arch.s = x.s ∧ (u (.exit k)).pendings = s.pendings) ∧
    (∀ k G, c = 2 → s.gangOf d 2 = some G →
      let v := (s.ctx d 2).served
      ((u (.exit k)).ctx d 2).run = .absent ∧ (u (.exit k)).agenda = .ev (.gangAbort G.id .trap) :: s.agenda ∧
      ∀ n, ((checkpointOffsets (s.code d v)).length < n →
          u (.rett n) = s.abortByTrap G d v { code := 0x08, info := n, cls := 0, clus := none }) ∧
        (n ≤ (checkpointOffsets (s.code d v)).length → ((u (.rett n)).ctx d 2).run = .absent))

/-! ### Traps (01 R38, R45, R46, 12 R315–R320) -/

/-- R46, Table 12-3: of several traps of one bundle the record keeps one that none of the others outranks; the priorities 1 to 41
of the table's causes. R317, R318: the
causes at or below 0x09 are fatal, soft errors and the timing causes recover by themselves, every other asks for a handler and
is fatal without one; a fifth rollback in a row to one checkpoint aborts the gang instead. -/
def Obligations.TrapRanksAndClasses : Prop :=
  ([0x01, 0x02, 0x03, 0x04, 0x05, 0x06, 0x07, 0x08, 0x09, 0x10, 0x11, 0x20, 0x21, 0x22, 0x23, 0x24, 0x25, 0x26, 0x27,
    0x30, 0x31, 0x32, 0x33, 0x34, 0x35, 0x36, 0x37, 0x38, 0x39, 0x3A, 0x3B, 0x3C, 0x3D, 0x3E, 0x3F, 0x40, 0x41, 0x42,
    0x50, 0x60, 0x61].map causePriority = (List.range 41).map (· + 1)) ∧
  (∀ (ts : List Trap), (ts = [] ↔ leadTrap ts = none) ∧
    ∀ t, leadTrap ts = some t → t ∈ ts ∧ ∀ u ∈ ts, causePriority t.code < causePriority u.code ∨
      (causePriority t.code = causePriority u.code ∧ t.cls ≤ u.cls)) ∧
  (∀ (s : State) (d c : Nat) (g : Gang) (t : Trap),
    (t.code ≤ 0x09 → s.effectiveClass d t.code = .fatal) ∧
    (t.code = 0x10 ∨ t.code = 0x60 ∨ t.code = 0x61 → s.effectiveClass d t.code = .automatic) ∧
    (0x09 < t.code → t.code ≠ 0x10 → t.code ≠ 0x60 → t.code ≠ 0x61 →
      (s.handlerOf d = none → s.effectiveClass d t.code = .fatal) ∧ (s.handlerOf d ≠ none → s.effectiveClass d t.code = .handler)) ∧
    (4 ≤ g.tries → (s.startRollback g d c t).agenda = .ev (.gangAbort g.id .trap) :: s.agenda))

/-- R38, R45, R46, R304, R310, R315, R318, Table 1-14: TAKING A TRAP. None of the group's results is kept. A fatal cause (every
class H cause on a die without a handler image is one) writes TRAPCAUSE with V and FATAL, TRAPSTEP and TRAPINFO of the faulting
context and aborts its gang at once; any other stops the context and turns the gang to rollback, the other members to stop
within 16 counts on this package. -/
def Obligations.TakingATrap : Prop :=
  ∀ (s : State) (d c : Nat) (t : Trap) (g : Gang), d < 8 → c < 2 → s.gangOf d c = some g → (s.ctx d c).run = .running → g.state = .running →
    t.code < 256 → t.cls < 16 → g.id ∈ s.gangs.map (·.id) →
    let u := s.takeTrap d c [t]
    (s.effectiveClass d t.code = .fatal →
      let a := (u.ctx d c).arch
      a.trapCause.getLsbD 63 = true ∧ a.trapCause.getLsbD 62 = true ∧ a.trapCause.getLsbD 61 = trapValid (s.ctx d c).arch.trapCause ∧
      (a.trapCause.extractLsb' 0 8).toNat = t.code ∧ (a.trapCause.extractLsb' 16 4).toNat = t.cls ∧ a.trapInfo = BitVec.ofNat 64 t.info ∧
      (t.gstep = none → a.trapStep = s.belfry - BitVec.ofNat 64 g.gbase) ∧ a.pc = (s.ctx d c).arch.pc ∧ a.s = (s.ctx d c).arch.s ∧
      a.landing = (s.ctx d c).arch.landing ∧ u.agenda = .ev (.gangAbort g.id .trap) :: s.agenda) ∧
    (s.effectiveClass d t.code ≠ .fatal → g.tries < 4 →
      (u.ctx d c).run = .stopped ∧ (u.ctx d c).arch = (s.ctx d c).arch ∧ u.agenda = s.agenda ∧
      ∀ y ∈ u.gangs, y.id = g.id → y.state = .rollback ∧ y.faultAt = s.bel ∧
        ∀ m ∈ y.members, (m.die = d ∧ m.ctx = c → m.trap = some t ∧ m.stopAt = some s.bel) ∧
          ∃ b, m.stopAt = some b ∧ s.bel ≤ b ∧ b ≤ s.bel + 16)


/-! ### Events of a context (11 R300, R301, R307; 01 R32–R35, R40; 03 R121, R128) -/

/-- R300, R301, R307: SEQUENCER_CYCLE: an absent or stopped foreground context lets the handler's and the background's turns
come; an idle bundle under way takes its next step; 63 non-empty groups since the last idle step insert one; otherwise the group
at the pc starts, its slots before the other turns, while a gang's checkpoint group that has not committed holds its member. The
65,537th step of a region ends it. INSERTED_IDLE_STEP and HOLD_RELEASE (R128) change no register. R40, R307: HOLD_OVERRUN and
REGION_OVERRUN are traps of cause 0x01. R35: RESULT_LANDING at the end of a step: the results in flight come a step nearer, one
that is due takes effect, and the step is counted. R121: PROMISED_VALUE_LANDING writes the register that the promise names. R32:
R219: at the end of a step of its owner a busy tile's counter falls by one, and the operation completes where none is left.
TILE_OPERATION_COMPLETE clears busy and PAIR of a tile whose counter has run down, and of no other. R33: OQ_ENTRY_POPPABLE lets
an entry be popped from its count on. -/
def Obligations.ContextEvents : Prop :=
  ((∀ (s : State) (d : Nat), d < 8 →
    let x := s.ctx d 0
    let cyc := exec (.sequencerCycle d) s
    let rest : List Micro := .handler d :: .background d :: s.agenda
    let after : List Micro → State := fun ms => { s with mask := 0, fgHeld := false, agenda := ms ++ rest }
    let runs : Prop := x.run = .running ∧ x.regionSteps < 65536
    (x.run = .absent ∨ x.run = .stopped → cyc = .next (after [])) ∧
    (x.run = .running → 65536 ≤ x.regionSteps → x.idleLeft ≠ 0 → cyc = .next (after [.ev (.regionOverrun d 0)])) ∧
    (runs → x.idleLeft ≠ 0 → ∃ t, cyc = .next t ∧ t.agenda = rest ∧
      t.ctx d 0 = { x with stepped := true, held := 0, nonEmpty := 0, idleLeft := x.idleLeft - 1 }) ∧
    (runs → x.idleLeft = 0 → 63 ≤ x.nonEmpty → cyc = .next (after [.ev (.insertedIdleStep d 0)])) ∧
    (runs → x.idleLeft = 0 → x.nonEmpty < 63 → ∀ g, s.groupAt d 0 = some g →
      (g.ck = false ∨ x.committed = true → ∃ t, cyc = .next t ∧ t.agenda = s.slotMicros d 0 g ++ .commit :: rest ∧
        t.dies = s.dies ∧ t.hbm = s.hbm ∧ t.issue.die = d ∧ t.issue.ctx = 0 ∧ t.issue.pc = x.arch.pc ∧ t.issue.size = g.size ∧
        t.issue.acts = [] ∧ t.issue.seed = x.arch.seed ∧ t.issue.idle = none ∧ t.issue.branch = none) ∧
      (g.ck = true → x.committed = false → ∃ t, cyc = .next t ∧ t.fgHeld = true ∧ t.ctx d 0 = { x with held := x.held + 1 }))) ∧
  (∀ (s : State) (d c : Nat), d < 8 → c < 3 →
    let x := s.ctx d c
    (∃ t, exec (.insertedIdleStep d c) s = .next t ∧ t.agenda = s.agenda ∧ t.hbm = s.hbm ∧
      t.ctx d c = { x with stepped := true, held := 0, nonEmpty := 0 }) ∧
    (∃ t, exec (.holdRelease d c) s = .next t ∧ t.agenda = s.agenda ∧ t.hbm = s.hbm ∧ t.ctx d c = { x with held := 0 }) ∧
    let overBy : Trap := { code := 0x01, info := x.regionSteps, cls := 0, clus := none }
    exec (.holdOverrun d c) s = .next (s.takeTrap d c [overBy]) ∧ exec (.regionOverrun d c) s = .next (s.takeTrap d c [overBy]))) ∧
  (∀ (s : State) (d c : Nat), d < 8 → c < 3 →
    let x := s.ctx d c
    (d < 4 → c < 2 → (∀ l ∈ x.arch.landing, l.rem ≠ 0 ∧ l.atOnce = false) →
      ∃ t, exec (.resultLanding d c) s = .next t ∧ t.hbm = s.hbm ∧ (t.die d).bank = (s.die d).bank ∧
        t.ctx d c = { x with
          arch := { x.arch with landing := x.arch.landing.map fun l => { l with rem := l.rem - 1 } }
          stepped := false, steps := x.steps + 1
          regionSteps := if x.run = .exited then x.regionSteps else x.regionSteps + 1 }) ∧
    (4 ≤ d → c < 2 → (∀ l ∈ x.arch.landing, l.rem ≠ 0 ∧ l.atOnce = false) →
      ∃ t, exec (.resultLanding d c) s = .next t ∧ ∀ g < 4, ∀ k < 8,
        let b := (tget (s.die d).groups g default).tileBits k
        let counts : Bool := x.groups.getLsbD g && b.busy
        (tget (t.die d).groups g default).tileBits k = { b with cnt := if counts then b.cnt - 1 else b.cnt } ∧
        (counts = true → b.cnt ≤ 1 → Micro.ev (.tileOperationComplete d g k) ∈ t.agenda)) ∧
    (∀ n v cls born g, d < 4 → c < 2 → x.dup = [] → x.arch.landing = [{ act := .s n v, rem := 0, cls := cls, born := born, gstep := g }] →
      ∃ t, exec (.resultLanding d c) s = .next t ∧
        (t.ctx d c).arch = { x.arch with s := x.arch.s.setIfInBounds n v, landing := [] } ∧ (t.ctx d c).steps = x.steps + 1) ∧
    (∀ id r n w, x.dup = [] → x.req? id = some r → x.run = .running → r.landed = false → r.landed? = some (n, w) →
      ∃ t, exec (.promisedValueLanding d c id) s = .next t ∧
        (t.ctx d c).arch = { x.arch with s := x.arch.s.setIfInBounds n w } ∧ (t.ctx d c).req? id = some { r with landed := true }) ∧
    (∀ g t, g < 4 → t < 8 → ((tget (s.die d).groups g default).tileBits t).cnt = 0 →
      ∃ u, exec (.tileOperationComplete d g t) s = .next u ∧
        (tget (u.die d).groups g default).tileBits t =
          { (tget (s.die d).groups g default).tileBits t with busy := false, pair := false, mma := false } ∧
        ∀ g' t', (g', t') ≠ (g, t) →
          (tget (u.die d).groups g' default).tileBits t' = (tget (s.die d).groups g' default).tileBits t') ∧
    (∀ id, ∃ t, exec (.oqEntryPoppable d c id) s = .next t ∧
      t.ctx d c = { x with arch := { x.arch with
        oq := x.arch.oq.map fun e => if e.id = id ∧ e.ready ≤ s.bel then { e with poppable := true } else e } }))

/-! ### Events of the engines (05 R121–R124, 07 R185–R198, 09 R229–R262, 13 R328) -/

/-- The events of indexed access, scatter and translation, and the errors that the package detects. R190: AQ_ENTRY_ISSUE takes
the first entry from AQ; one that awaits nothing is LANDED. R191: IX_ELEMENT_RETURN gives an element its value, the last one
ends WAIT. R198: SCATTER_WINDOW_PERFORM performs the first closed window at its bank cells, in order of first occurrence, or
defers that of a translated region; a float cell takes the rounded sum of its part and a wide cell the integers of its elements,
with their flags. R328: TRANSLATION_WALK fills a slice of the die. R236: BURST_RETRY moves a timed burst and every later one of
its queue and channel to the next granted slot, with the granule's landing count of R234 and RETRY where it passes PSTEP; or the
scalar request where no timed one is there, which takes a later slot, with RETRY; MEMORY_UNCORRECTABLE poisons the granule. R321, Table 12-3: SOFT_ERROR and BANK_UNCORRECTABLE are traps of causes
0x10 and 0x09. R46: SLOT is the lowest class of the group that reads the scalar or vector register; which class meets any other
error is free, the model's choice (log 82), as is the place of a free count (log 4). -/
def Obligations.IndexedAndErrorEvents : Prop :=
  (∀ (s : State) (d c : Nat), d < 8 → c < 3 →
    let x := s.ctx d c
    (∀ q rest, x.arch.aq = q :: rest → s.elementsStop d c = false →
      let u := s.modArch d c fun a => { a with aq := rest }
      exec (.aqEntryIssue d c) s = .next (((u.sendEntry d c q (u.toSend d c q)).planAq d c).modDq d c q.id DqEntry.settle) ∧
      ∀ e, x.arch.dqEntry? q.id = some e → e.status = .wait → e.waiting = [] → rest = [] →
        ∃ t, exec (.aqEntryIssue d c) s = .next t ∧ (t.ctx d c).arch.aq = [] ∧
          (t.ctx d c).arch.dqEntry? q.id = some { e with status := .landed }) ∧
    (∀ id g e v, x.arch.dqEntry? id = some e → s.elementsStop d c = false → g ∈ e.waiting →
      e.got.find? (fun p => p.1 == g) = some (g, none, v) → ∃ t, exec (.ixElementReturn d c id g) s = .next t ∧
        (t.ctx d c).arch.dqEntry? id = some ({ e with got := e.got.filter fun p => p.1 != g }.take g v)) ∧
    (∀ r w rest, r < 8 → (tget x.arch.scat r default).closed = w :: rest →
      (w.all (fun e => !e.cfg.translated) = true →
        let u := s.modArch d c fun a => { a with scat := tset a.scat r { tget x.arch.scat r default with closed := rest } }
        exec (.scatterWindowPerform d c r) s = .next { (cellsOf w).foldl (fun s es => s.bankCell d c es) u with free := s.free + 1 }) ∧
      (w.any (fun e => e.cfg.translated) = true → ∃ t, exec (.scatterWindowPerform d c r) s = .next t ∧
        (tget (t.ctx d c).arch.scat r default).closed = rest ∧ (t.ctx d c).deferScat = x.deferScat ++ [w] ∧
        (t.die d).bank = (s.die d).bank)) ∧
    (x.run = .running → ∀ kind num,
      let t (k : Nat) : Trap := { code := 0x10, info := kind % 16 + num % 256 * 256, cls := k,
                                  clus := if d < 4 ∧ 2 ≤ k ∧ k ≤ 9 then some (k - 2) else none }
      (∀ k rest, s.readers d c (kind % 16) (num % 256) = k :: rest →
        exec (.softError d c kind num) s = .next (s.takeTrap d c [t k])) ∧
      (s.readers d c (kind % 16) (num % 256) = [] →
        ∃ k < 16, exec (.softError d c kind num) s = .next ({ s with free := s.free + 1 }.takeTrap d c [t k]))) ∧
    (x.run ≠ .absent → ∀ addr, ∃ k < 16, exec (.bankUncorrectable d c addr) s =
      .next ({ s with free := s.free + 1 }.takeTrap d c
        [{ code := 0x09, info := addr, cls := k, clus := if d < 4 ∧ 2 ≤ k ∧ k ≤ 9 then some (k - 2) else none }]))) ∧
  (∀ (s : State) (d asid va : Nat) (l : Leaf), d < 8 → s.walk asid va = .ok l →
    (∀ c < 3, ∀ r ∈ (s.ctx d c).reqs, r.untranslated = false) →
    ∃ t, exec (.translationWalk d asid va) s = .next t ∧ l ∈ (t.die d).slices ∧ t.hbm = s.hbm) ∧
  (∀ (s : State) (stack channel frame d j : Nat), d < 8 → (s.die d).slotq = [(stack, frame, j, channel)] →
    (∀ k < 8, k ≠ d → (s.die k).slotq = []) →
    exec (.burstRetry stack channel frame) s = .next (s.retryTimed d (stack, frame, j, channel))) ∧
  (∀ (s : State) (stack channel frame : Nat), (∀ k < 8, (s.die k).slotq = []) →
    (∀ r x, s.erringScalar stack channel frame = some (r, x) → exec (.burstRetry stack channel frame) s = .next (s.retryScalar r x)) ∧
    (s.erringScalar stack channel frame = none → exec (.burstRetry stack channel frame) s = .next s) ∧
    ∀ (q : ScalarReq) (x : Nat) (w : Nat × Micro × Micro) (e : Dated), s.scalarBook = [q] → q.stack = stack → q.channel = channel →
      q.slot = some x → x / 128 = frame → q.work = some w → e ∈ s.calendar → e.what = w.2.2 →
      s.erringScalar stack channel frame = some (q, x)) ∧
  (∀ (s : State) (stack off : Nat), ∃ t, exec (.memoryUncorrectable stack off) s = .next t ∧
    (∀ p, p ∈ t.poison ↔ p ∈ s.poison ∨ p = (stack, off / 64 * 64)) ∧ t.hbm = s.hbm ∧ t.dies = s.dies) ∧
  (∀ (s : State) (d : Nat) (a : BurstSlot), d < 8 →
    let granted := ((s.pairsOf d 0).filter fun p => p.1 == a.1).map (·.2)
    let t := s.retryTimed d a
    let later : BurstSlot → Bool := fun b =>
      b.1 == a.1 && b.2.2.2 == a.2.2.2 && (decide (a.2.1 < b.2.1) || b.2.1 == a.2.1 && decide (a.2.2.1 ≤ b.2.2.1))
    let next : BurstSlot → BurstSlot := fun b => match granted.find? (b.2.2.1 < ·) with
      | some k => (b.1, b.2.1, k, b.2.2.2)
      | none => (b.1, b.2.1 + (if refreshes b.2.2.2 (b.2.1 + 1) then 2 else 1), granted.headD 0, b.2.2.2)
    granted ≠ [] → (t.die d).slotq = (s.die d).slotq.map (fun b => if later b then next b else b) ∧
      ∀ r g b, (s.ctx d 0).reqs = [r] → r.grans = [g] → g.slot = some b → g.done = false → later b = true →
        (s.ctx d 1).reqs = [] → (s.ctx d 2).reqs = [] → s.pendings = [] →
        let due := burstDue d (s.pairsOf d 0) (next b)
        ∃ q, (t.ctx d 0).reqs = [q] ∧ q.grans = [{ g with slot := some (next b), due := due, data := none }] ∧
          (pastStep due r.pstep = true → q.retry = true) ∧ (pastStep due r.pstep = false → q.retry = r.retry)) ∧
  (∀ (d stack f b c r : Nat) (pairs : List (Nat × Nat)),
    (pairs.filter fun p => (hops d p.1 == 0) == (hops d stack == 0)).idxOf? (stack, b) = some r →
    burstDue d pairs (stack, f, b, c) =
      128 * (f + 1) + (if hops d stack = 0 then 64 else 224) + (160 * r + c) / (if d < 4 then 32 else 128)) ∧
  (∀ (s : State) (r : ScalarReq) (x n : Nat) (m : Micro) (d c id : Nat) (v : Req), d < 8 → c < 3 →
    r.work = some (n, m, .done d c id) → (s.ctx d c).req? id = some v →
    let t := s.retryScalar r x
    { r with slot := none, from_ := x + 1 } ∈ t.scalarBook ∧ (r.slot ≠ none → r ∉ t.scalarBook) ∧
    (∀ e ∈ t.calendar, e.what ≠ .done d c id) ∧
    ∃ q, (t.ctx d c).req? id = some q ∧ q.retry = true ∧ q.value = none) ∧
  (∀ (s : State) (d c : Nat) (e : ScatElem) (rest : List ScatElem), d < 8 → c < 3 → e.region < 8 →
    let t := s.bankCell d c (e :: rest)
    let n := if e.cfg.wide then 16 else 4
    let a := (e.cfg.base.toNat + n * e.cell) % 2 ^ 64
    let o := cellUpdate (e :: rest) (natOfBytes (s.bankBytes d c false false a n))
    let old := tget (s.ctx d c).arch.regions e.region default
    (t.die d).bank = Mem.write (s.die d).bank (placeBytes a (bytesOfNat n o.value)) ∧
    tget (t.ctx d c).arch.regions e.region default =
      { old with sat := old.sat || o.sat, nanv := old.nanv || o.nanv, ovf := old.ovf || o.ovf }) ∧
  (∀ w, cellsOf w = (w.map (·.cell)).eraseDups.map fun c => w.filter fun e => e.cell == c) ∧
  (∀ (e : ScatElem) (rest : List ScatElem) (old : Nat),
    let o := cellUpdate (e :: rest) old
    let value : ScatElem → XV := fun e => fpValue (if e.f64 then .f64 else .f32) e.value
    let most : Int := 2 ^ 127 - 1
    let whole : ScatElem → Int := fun e => match value e with
      | .fin n a d k => (gridInt n a d (k + (e.cfg.f : Int)) .ne 0).1
      | .inf n => if n then -most - 1 else most + 1
      | .nan => 0
    let sum : XV → XV → Rounded := fun a b => roundTo .f32 (a.add .ne b).val .ne .inf false 0
    let part := rest.foldl (fun p e => fpValue .f32 (sum p (value e)).bits) (value e)
    (e.cfg.wide = true →
      (o.value : Int) = (old + ((e :: rest).map fun e => max (-most) (min most (whole e))).sum) % 2 ^ 128 ∧ o.ovf = false ∧
      (o.nanv = true ↔ ∃ x ∈ e :: rest, value x = .nan) ∧ (o.sat = true ↔ ∃ x ∈ e :: rest, most < whole x ∨ whole x < -most)) ∧
    (e.cfg.wide = false →
      o.value = (sum (fpValue .f32 old) part).bits ∧ o.sat = false ∧ (o.nanv = true ↔ fpValue .f32 o.value = .nan) ∧
      ((sum (fpValue .f32 old) part).flags &&& flagOF ≠ 0 → o.ovf = true) ∧
      (o.ovf = true → (sum (fpValue .f32 old) part).flags &&& flagOF ≠ 0 ∨ ∃ p, ∃ x ∈ rest, (sum p (value x)).flags &&& flagOF ≠ 0)))

/-- The events of transfers, of released writes and of atomics. R234, R237: a granule of a TDMA or RLD lands whole in the bank.
R262: a released write performs its masked bytes at its home in a bank wall or a stack, an elastic one where its bursts find a
slot of the frame and its channel does not refresh (R230, R231). R123, R271: an atomic performs indivisibly at its home, after what
its context released before it to the same word, and its old value is kept for its return; R124: the value fills the atomic log.
R253: an arrival updates the barrier's 16 bytes: the count falls by the value, or wraps to 0 and turns the top bit of the other
word. -/
def Obligations.MemoryEvents : Prop :=
  (∀ (s : State) (d c id k : Nat) (r : Req) (g : Gran) (v : Nat), d < 8 → c < 3 →
    let x := s.ctx d c
    x.req? id = some r → r.gran? k = some g → g.done = false → x.run ≠ .stopped → g.data = some v →
    let lands := s.landGran d c r g v (x.stepsBefore r.step)
    (g.due % 2 ^ 64 = s.bel → exec (.tdmaGranuleLand d c id k) s = .next lands) ∧
    exec (.rldGranuleLand d c id k) s = .next lands ∧
    (lands.die d).bank = Mem.write (s.die d).bank (placeBytes g.bank (bytesOfNat 64 v))) ∧
  (∀ (s : State) (id : Nat) (p : Pending), s.pendings.find? (fun p => p.id == id) = some p → p.sent = false →
    p.slot = none ∨ p.due = s.bel → s.blockedPending p = false →
    (∀ w d a, p.write = some w → p.home = some (.bank d a) → d < 8 → Memory.wf (s.die d).bank = true →
      ∃ t, exec (.deferredWritePerform id) s = .next t ∧ t.hbm = s.hbm ∧ t.pendings = s.pendings.filter (fun p => p.id != id) ∧
        ∀ b, Mem.byte (t.die d).bank b = if a ≤ b ∧ b < a + 64 ∧ w.mask.getLsbD (b - a) = true
          then w.data.extractLsb' (8 * (b - a)) 8 else Mem.byte (s.die d).bank b) ∧
    (∀ w k o, p.write = some w → p.home = some (.stack k o) →
      let done := fun (u : State) => (u.writeHomeMasked (.stack k o) w.data.toNat w.mask.toNat 64).performed id
      (p.slot ≠ none → exec (.deferredWritePerform id) s = .next (done s)) ∧
      (p.slot = none → exec (.deferredWritePerform id) s = .next (s.elastically [.stack k o] (.ev (.deferredWritePerform id)) done))) ∧
    (p.write = none → exec (.deferredWritePerform id) s = .next (s.performCell p)) ∧
    (∀ a, p.arrival = some a → isBankAddr a.addr.toNat = true → ∀ n, s.readHome (.bank p.die (a.addr.toNat % 2 ^ 28)) 16 = .ok n →
      let count := n % 2 ^ 64
      let other := n / 2 ^ 64
      let new := if count < a.value.toNat then (other % 2 ^ 63 + 2 ^ 63) * 2 ^ 64 else (count - a.value.toNat) + other * 2 ^ 64
      exec (.barrierArrivalUpdate id) s =
        .next ((s.writeHome (.bank p.die (a.addr.toNat % 2 ^ 28)) (bytesOfNat 16 new)).performed id))) ∧
  (∀ (s : State) (d c id : Nat) (r : Req), (s.ctx d c).sentAtomics.find? (fun r => r.id == id) = some r →
    (∀ h, r.home = some h → s.settleWord d c id h = none →
      exec (.atomicPerform d c id) s = .next (s.scalarAgain (.ev (.atomicPerform d c id)))) ∧
    (∀ h op y z dst lg old u, r.home = some h → r.kind = .atomic op y z dst lg → r.value = none → r.poison = none →
      s.settleWord d c id h = some u → u.readHome h r.size = .ok old →
      let kept := fun (u : State) => u.modSent d c id fun r => { r with value := some old }
      let w := fun n => u.writeHome h (bytesOfNat r.size n)
      (op = .add → exec (.atomicPerform d c id) s = .next (kept (w ((old + y.toNat) % 2 ^ (8 * r.size))))) ∧
      (op = .inc → exec (.atomicPerform d c id) s = .next (kept (w ((old + 1) % 2 ^ (8 * r.size))))) ∧
      (op = .cas → old = y.toNat → exec (.atomicPerform d c id) s = .next (kept (w z.toNat))) ∧
      (op = .cas → old ≠ y.toNat → exec (.atomicPerform d c id) s = .next (kept u)) ∧
      (op = .xchg → exec (.atomicPerform d c id) s = .next (kept (w y.toNat)))) ∧
    (∀ v n, d < 8 → c < 3 → r.poison = none → r.value = some v → r.logIx = some n → (s.ctx d c).waitingAtomic n = none →
      ∃ t, exec (.atomicValueReturn d c id) s = .next t ∧ t.ctx d c = { s.ctx d c with
        atomLog := (s.ctx d c).atomLog.set n (.value v r.aux.1 r.aux.2)
        sentAtomics := (s.ctx d c).sentAtomics.filter fun q => q.id != id })) ∧
  (∀ (s : State) (d c id : Nat) (h : Machine.Home), s.pendings = [] → (∀ q ∈ (s.ctx d c).scalars, id ≤ q.id) → s.settleWord d c id h = some s) ∧
  ∀ (s t : State) (hs : List Machine.Home), s.elasticTurn hs = some t → { t with elasticBook := s.elasticBook } = s ∧
    ∀ h ∈ hs, ∀ p, s.burstAt h = some p → s.belfryOn = true → refreshes p.2 (s.bel / 128) = false ∧
      t.elasticBook.count (p.1, p.2, s.bel / 128) ≤ 3

/-- The events of frames and collectives. R185: an NSEND frame stands at its edge in its count, and one that no NRECV takes is
discarded with a timing trap of its sender. R242: a SEND frame for a die without a member of its gang gives its sender the timing
trap, with a notice where the sender is on another package (the model's choice, log 80). R347: a timed frame enters the staging of its receiver, from whose arrival count on
it can be taken. R241: the bytes of a RECV land at the transfer port's rate. R358: a frame of an exchange is held against its
receiver's staging share (R242), can be taken from its arrival count on, and raises the late-arrival trap at that count if it is
not there (R245); of a target, the granules complete by now land at the end of the count, each whole, and the collective ends with
DONE, or with the late-arrival trap where a granule is missing. -/
def Obligations.FrameEvents : Prop :=
  (∀ (s : State) (d id : Nat) (f : NFrame), d < 8 → (s.die d).nframes.find? (fun f => f.id == id) = some f →
    exec (.nsendFrameArrival d id) s = .next (s.schedule s.now phEnd (.ev (.frameNotTaken d id))) ∧
    exec (.frameNotTaken d id) s = .next ((s.modDie d fun x => { x with nframes := x.nframes.filter fun f => f.id != id }).takeTrap
      f.fromDie 0 [{ code := 0x60, info := 5 + 16 * Config.pairInfo d f.edge, cls := 0, clus := none }])) ∧
  (∀ (s : State) (f : Frame), ((s.ctx f.dstDie 0).run = .absent ∨ (s.ctx f.dstDie 0).gang ≠ f.gang) ∨ f.dstPkg ≠ s.pkg.toNat →
    (f.srcPkg = s.pkg.toNat → (s.ctx f.srcDie 0).run ≠ .absent → (s.ctx f.srcDie 0).gang = f.gang → exec (.timedFrameArrival f) s =
      .next (s.takeTrap f.srcDie 0 [{ code := 0x60, info := 5 + 16 * Config.pairInfo f.dstDie 4, cls := 0, clus := none }])) ∧
    (f.dstPkg = s.pkg.toNat → f.srcPkg ≠ s.pkg.toNat → exec (.timedFrameArrival f) s =
      .next { s with control := s.control ++ [.untaken f.srcPkg { f with data := [] }] })) ∧
  (∀ (s : State) (f : Frame) (g : Gang), f.dstDie < 8 → (s.ctx f.dstDie 0).run ≠ .absent → (s.ctx f.dstDie 0).gang = f.gang →
    f.dstPkg = s.pkg.toNat →
    (s.die f.dstDie).duplicate (f.srcPkg, f.srcDie, f.chan, f.seq) = false → s.gang? f.gang = some g →
    s.stagedBytes f.dstDie f.gang + f.data.length ≤ shareOf (s.timetable g) (s.ctx f.dstDie 0).prog →
    ∃ t, exec (.timedFrameArrival f) s = .next t ∧ (t.die f.dstDie).bank = (s.die f.dstDie).bank ∧
      (t.die f.dstDie).staging = (s.die f.dstDie).staging ++
        [{ key := (f.srcPkg, f.srcDie, f.chan, f.seq), gang := f.gang, ready := max f.op s.bel, data := f.data }]) ∧
  (∀ (s : State) (d c id k bank : Nat) (bs : List Byte), d < 8 → c < 3 → (s.ctx d c).run ≠ .stopped →
    (s.ctx d c).takes.find? (fun t => t.1 == id) = some (id, bank, bs) →
    let per := if d < 4 then 2048 else 8192
    ∃ t, exec (.recvGranuleLand d c id k) s = .next t ∧
      (t.die d).bank = Mem.write (s.die d).bank (placeBytes (bank + per * k) ((bs.drop (per * k)).take per))) ∧
  (∀ (s : State) (f : Frame) (x : Coll) (e : Xch) (g : Gang),
    s.colls.find? (fun x => x.gang == f.gang && x.xch == f.seq % 2 ^ 16) = some x → s.collRecord x = some e → s.gang? x.gang = some g →
    let r := (e.parts.findIdx? fun m => s.memberPkg g m == f.srcPkg).getD x.rank
    let num := f.seq / 2 ^ 16
    let full : Prop := r ≠ x.rank ∧ shareOf (s.timetable g) (s.ctx x.die x.ctx).prog < s.stagedBytes x.die x.gang + f.data.length
    (x.has r num = true → exec (.exchangeFrameArrival f) s = .next (s.landReady x e.npart)) ∧
    (x.has r num = false → full → exec (.exchangeFrameArrival f) s =
      .next (s.takeTrap x.die x.ctx [{ code := Cause.stagingOverflow, info := Config.pairInfo f.srcDie f.chan, cls := 0, clus := none }])) ∧
    (x.has r num = false → ¬ full →
      ∃ t, exec (.exchangeFrameArrival f) s = .next t ∧ t.dies = s.dies ∧ t.hbm = s.hbm ∧
        ∀ z ∈ t.colls, z.req = x.req → z = { x with recv := x.recv ++ [(r, num, max f.op s.bel, f.data)] })) ∧
  (∀ (s : State) (x : Coll) (r num : Nat), s.colls.find? (fun y => y.req == x.req) = some x →
    (x.ready r num s.bel = true → s.frameStep x.req r num = s) ∧
    (x.ready r num s.bel = false → (s.ctx x.die x.ctx).run = .running → s.frameStep x.req r num =
      s.takeTrap x.die x.ctx [{ code := 0x61, info := Config.pairInfo 8 0, cls := 15, clus := none }])) ∧
  (∀ (s : State) (x : Coll) (npart : Nat),
    let t := s.landReady x npart
    let grans := (((s.ctx x.die x.ctx).req? x.req).map fun r => r.grans).getD []
    { t with calendar := s.calendar } = s ∧
    ∀ e, e ∈ t.calendar ↔ e ∈ s.calendar ∨
      ∃ g ∈ grans, g.done = false ∧ g.data = none ∧ (x.granule npart s.bel g.bank).isSome = true ∧
        e = { at_ := s.now, phase := phEdge, what := .ev (.collectiveGranuleLand x.die x.ctx x.req g.k) }) ∧
  ∀ (s : State) (d c id : Nat) (r : Req), d < 8 → c < 3 → (s.ctx d c).req? id = some r → (s.ctx d c).run ≠ .stopped →
    (∀ k g y e bs, r.gran? k = some g → g.done = false → s.colls.find? (fun y => y.req == id) = some y → s.collRecord y = some e →
      y.granule e.npart s.bel g.bank = some bs →
      ∃ t, exec (.collectiveGranuleLand d c id k) s = .next t ∧ (t.die d).bank = Mem.write (s.die d).bank bs) ∧
    let u : State := { s.settleShares id with colls := (s.settleShares id).colls.filter fun y => y.req != id }
    ((∀ g ∈ r.grans, g.done = true) →
      exec (.collectiveComplete d c id) s = .next ((u.modReq d c id fun r => { r with landed := true }).reqDone d c id)) ∧
    ((∃ g ∈ r.grans, g.done = false) →
      exec (.collectiveComplete d c id) s = .next (u.reqPoison d c id 0x61 (Config.pairInfo 8 0)))

/-! ### Copies, launches and gangs (10 R247–R250, 11 R286–R308, 12 R309–R326) -/

/-- The events of copies and launches. R250: COPY_PACKET_START begins the copy at a queue's head; COPY_GRANULE_PERFORM writes a
destination granule whole and the next follows; COPY_COMPLETE raises the arrival, writes the record, and frees the queue. R288:
RESOURCE_CLAIM records what a long blocked task or head would use. R287: LAUNCH_ROUND serves the levels in turn, then the copy
queues. R289: TASK_COMPLETE performs the arrivals and then the completion record, after which the launch is gone. R299, R306, R370:
SUCCESSOR_START ends a successor whose die or stack is being taken offline, waits for a period boundary that fits, asks the other
packages of a gang that spans them, and starts it in place of the gang that named it. R296, R336: RESERVE_REQUEST refuses what the
package cannot place, answers nothing without lock, and otherwise places the gang; RESERVE_REPLY is noted at the gang's home and
is the decision at a member. The model's choices: how the packages of a gang that names a successor agree (log 68) and what their
messages hold (log 47), the completion of chains and of faulted queue accesses (log 49), the corners of a die that is taken
offline (log 55), the claim at another package (log 66), and the windows that a successor waits for (log 78). -/
def Obligations.LaunchEvents : Prop :=
  (∀ (s : State) (q : Nat) (y : Queue) (h p : List Byte) (n : Nat), s.queue? q = some y → y.stopped = false → y.launch = false →
    (∀ c ∈ s.copies, c.queue ≠ q) → s.rixPending y = false → s.headPacket y = (.bytes h, .bytes p) → p ≠ [] → y.seen = some n →
    copyBad p = false →
    let u := ({ s with free := s.free + 1 } : State).modQueue q fun x => { x with seen := some (x.seen.getD s.bel) }
    (bit 0 (natAt p 5 1) = false → exec (.copyPacketStart q) s = .next (u.beginCopy y h p)) ∧
    (∀ w, bit 0 (natAt p 5 1) = true → u.portRead q y.asid (natAt p 32 8) 8 = .bytes w →
      exec (.copyPacketStart q) s = .next (if natOfBytes w = 0 then u.beginCopy y h p else u.portForget q))) ∧
  (∀ (s : State) (q k : Nat) (y : Queue) (c : Copy), s.queue? q = some y → s.copies.find? (fun c => c.queue == q) = some c →
    (∀ bs d a, c.stage = 0 → c.performed = k → 64 * k < c.len → c.src.getD k none = some bs → d < 8 →
      s.reachPort y.asid ((c.dst + 64 * k) % 2 ^ 64) false true = .ok (.bank d a) → (s.saveSource y c (.bank d a)).2 = [] →
      ∃ t, exec (.copyGranulePerform q k) s = .next t ∧ (t.die d).bank = Mem.write (s.die d).bank (placeBytes a bs) ∧
        (c.len ≤ 64 * (k + 1) → t.agenda = .ev (.copyComplete q) :: s.agenda)) ∧
    (c.stage = 0 → c.abar = none →
      exec (.copyComplete q) s = .next ((s.modCopy q fun c => { c with stage := 1 }).soon (.ev (.copyComplete q)))) ∧
    (∀ a, c.stage = 0 → c.abar = some a → exec (.copyComplete q) s =
      .next ((s.modCopy q fun c => { c with stage := 1 }).portArrive y.asid q [] a c.len [.ev (.copyComplete q)])) ∧
    (∀ hd, c.stage = 1 → s.portRead q y.asid y.header 64 = .bytes hd → exec (.copyComplete q) s =
      .next (((s.portForget q).modCopy q fun c => { c with stage := 2 }).portRecord y.asid q (hCring hd) (hClsz hd) c.seq c.tag (64 * c.performed)
        c.cause c.status [] ((match y.vector with | some v => [.vector v] | none => []) ++ [.ev (.copyComplete q)]))) ∧
    (c.stage = 2 → exec (.copyComplete q) s = .next { s with copies := s.copies.filter fun x => x.queue != q })) ∧
  (∀ (s : State) (l : Nat) (t : Task) (b : Nat) (i : Image) (ms : List (Nat × Nat × BitVec 128)), s.task? l = some t →
    t.blockedAt = some b → s.imageOf t.record = some i → s.assign i.bytes t.record = some ms → b + Config.claimCounts ≤ s.bel →
    ∃ u, exec (.resourceClaim (2 * l)) s = .next u ∧
      u.claims = (s.claims.filter fun x => x.holder != 2 * l) ++
        [{ holder := 2 * l, level := t.level, hold := { bg := t.record.bg, image := i.handle, members := ms } }]) ∧
  (∀ (s : State), (s.ready = false → exec .launchRound s = .next s) ∧
    (s.ready = true → exec .launchRound s = .next ((State.roundLevels [0, 1, 2, 3] ((s.queueOrder 0 true).foldl State.noticeQueue s)).soonAll
      ((s.queueOrder s.rrCopy false).map fun q => .ev (.copyPacketStart q))))) ∧
  (∀ (s : State) (l status cause : Nat) (y : Launch), s.launch? l = some y →
    (y.completing = true → ∃ t, exec (.taskComplete l status cause) s = .next t ∧
      (∀ x, x ∈ t.launches ↔ x ∈ s.launches ∧ x.id ≠ l) ∧ ∀ x, x ∈ t.tasks ↔ x ∈ s.tasks ∧ x.launch ≠ l) ∧
    (y.completing = false →
      let a : State := { s with launches := s.launches.map fun x => if x.id = l then { x with completing := true } else x }
      let b := match y.abar with | some x => a.portArrive y.asid y.queue [] x y.arrv [] | none => a
      let done := fun (u : State) => u.portRecord y.asid y.queue y.cring y.clsz y.seq y.tag 0 cause status
        ((u.pendings.filter fun p => p.queue == some y.queue && p.arrival.isSome).map fun p => p.id)
        ((match y.vector with | some v => [.vector v] | none => []) ++ [.ev (.taskComplete l status cause)])
      (y.graph ≠ none → exec (.taskComplete l status cause) s = .next (done b)) ∧
      (y.graph = none → ∀ t ts, b.tasksOf l = t :: ts → exec (.taskComplete l status cause) s =
        .next (done (if t.record.dbar = 0 then b else b.portArrive y.asid y.queue [] t.record.dbar t.record.darrv []))))) ∧
  (∀ (s : State) (gid : Nat) (g : Gang) (u : Task), s.gang? gid = some g → g.state = .ended → g.succTask = some u.id → s.task? u.id = some u →
    let h := s.successorHold g u.record
    let ev := exec (.successorStart gid) s
    let leaving : Prop := s.leavingStack h = true ∨
      (∃ m ∈ h.members, (s.offBusy = true ∧ m.2.1 = s.offReq.toNat % 8) ∨ s.offline.getLsbD m.2.1 = true) ∨
      ∃ x ∈ s.holdGrants h, s.offline.getLsbD x.1 = true ∧ x.2 ≠ 0
    let waits : Prop := s.successorFits g h = false ∨ s.placeHold = true ∨ ∃ m ∈ h.members, s.closedDie m.2.1 = true
    ((∃ o ∈ s.placedHolds g.id, s.slotsConflict h o = true ∨ membersConflict h o = true) → s.successorFits g h = false) ∧
    (∀ n, g.resumeAt = some n → n ≤ s.bel → ev = .next (s.succeedGang g u h)) ∧
    (∀ n, g.resumeAt = some n → s.bel < n → ev = .next s) ∧
    (g.resumeAt = none → leaving → ev = .next ((((s.tellEnd g 4).freeGang g).dropGang gid).taskEnded u.id 4 0)) ∧
    (g.resumeAt = none → ¬ leaving → waits →
      ev = .next (s.scheduleBel (leastCongruent (s.bel + 1) 0 (s.recordPeriod u.record)) phStart (.ev (.successorStart gid)))) ∧
    (g.resumeAt = none → ¬ leaving → ¬ waits → g.others = 0 → ev = .next (s.succeedGang g u h)) ∧
    (g.resumeAt = none → ¬ leaving → ¬ waits → g.others ≠ 0 →
      ev = .next ((s.modGang gid fun x => { x with hold := h }).askPackages g u.record u.level (2 * u.id) (some u.index))) ∧
    ∀ x ∈ (s.succeedGang g u h).tasks, x.id = u.id → x.state = .running) ∧
  (∀ (s : State) (r : Reservation), (s.belfryOn = false → exec (.reserveRequest r) s = .next s) ∧
    (s.belfryOn = true → r.succ = none →
      let rec_ := reservedRecord r
      let ev := exec (.reserveRequest r) s
      let me := farHolder r.fromPkg r.holder
      (s.imageOf rec_ = none → ev = .next (s.answerReserve r none 6 0 1 false)) ∧
      ∀ i, s.imageOf rec_ = some i →
        (s.dieAbsent i.bytes rec_ = true → ev = .next (s.answerReserve r none 4 0 3 false)) ∧
        (s.dieAbsent i.bytes rec_ = false → s.assign i.bytes rec_ = none →
          ev = .next (s.answerReserve r none 6 0 4 false)) ∧
        ∀ ms, s.dieAbsent i.bytes rec_ = false → s.assign i.bytes rec_ = some ms →
          let h : Hold := { bg := rec_.bg, image := i.handle, members := ms }
          (s.timetableRefused i.bytes rec_ ms = true → ev = .next (s.answerReserve r none 6 0 5 false)) ∧
          (s.timetableRefused i.bytes rec_ ms = false → (s.ready = false ∨ s.fits h r.level me r.gang = false) → r.claim = false →
            ev = .next (s.answerReserve r none 0 0 0 (s.lacks h r.level me r.gang))) ∧
          (s.timetableRefused i.bytes rec_ ms = false → s.ready = true → s.fits h r.level me r.gang = true →
            ∃ t, ev = .next t ∧ ∃ g ∈ t.gangs, g.id = r.gang ∧ g.home = r.fromPkg ∧ g.state = .placing ∧ g.hold = h))) ∧
  (∀ (s : State) (y : Queue) (h p : List Byte),
    let n := natAt p 24 8 / 64
    let c : Copy := {
      queue := y.key, rix := hRix h, seq := natAt p 0 4, srcAt := natAt p 8 8, dst := natAt p 16 8, len := natAt p 24 8,
      abar := if bit 1 (natAt p 5 1) then some (natAt p 40 8) else none, tag := natAt p 48 8, performed := 0, stage := 0, status := 1,
      cause := 0, src := List.replicate n (if natAt p 4 1 = 2 then some ((List.range 8).flatMap fun _ => bytesOfNat 8 (natAt p 8 8)) else none) }
    let head (x : Queue) : Queue := if x.key = y.key then { x with seen := none } else x
    let u : State := { s with
      fetched := s.fetched.filter fun f => f.queue != y.key, queues := s.queues.map head, copies := s.copies ++ [c], rrCopy := y.ix + 1 }
    let v := u.portWriteNow y.asid y.key (y.header + 8) (bytesOfNat 8 (hRix h + 1))
    s.beginCopy y h p = { v with free := v.free + 1 }.schedule (v.now + 1 + Config.freeNat v.free) phEdge (.ev (.copyGranulePerform y.key 0))) ∧
  (∀ (s : State) (asid q a : Nat) (bs : List Byte), bs ≠ [] → a % 64 + bs.length ≤ 64 → ∃ p w, s.portWriteNow asid q a bs =
    { s with nextId := s.nextId + 1, pendings := s.pendings ++ [p] }.performWrite p w ∧ p.id = s.nextId ∧ p.queue = some q ∧
    p.asid = asid ∧ p.home = none ∧ w.addr = a / 64 * 64 ∧ w.data.toNat = natOfBytes bs * 256 ^ (a % 64) ∧
    ∀ i < 64, w.mask.getLsbD i = true ↔ a % 64 ≤ i ∧ i < a % 64 + bs.length) ∧
  (∀ (s : State) (asid q cring clsz seq tag bytes cause status : Nat) (after : List Nat) (note : List Micro), cring % 32 = 0 →
    let a := (cring + 32 * (seq % 2 ^ clsz)) % 2 ^ 64
    let t := s.portRecord asid q cring clsz seq tag bytes cause status after note
    ∃ p v w x, t.pendings = s.pendings ++ [p, v] ∧ p.write = some w ∧ v.write = some x ∧ p.after = after ∧ v.after = p.id :: after ∧
      p.queue = some q ∧ v.queue = some q ∧ p.note = [] ∧ v.note = note ∧ w.addr = a / 64 * 64 ∧ x.addr = a / 64 * 64 ∧
      w.data.toNat = (bytes % 2 ^ 64 + tag % 2 ^ 64 * 2 ^ 64 + cause % 2 ^ 16 * 2 ^ 128) * 256 ^ (a % 64) ∧
      x.data.toNat = (status % 2 ^ 8 + seq % 2 ^ 32 * 2 ^ 32) * 256 ^ (a % 64 + 24) ∧
      ∀ i < 64, (w.mask.getLsbD i = true ↔ a % 64 ≤ i ∧ i < a % 64 + 24) ∧
        (x.mask.getLsbD i = true ↔ a % 64 + 24 ≤ i ∧ i < a % 64 + 32)) ∧
  (∀ (s : State) (g : Gang) (u : Task) (h : Hold), u.saved = none → u.record.bg = false → h.bg = false →
    let t := s.succeedGang g u h
    let gb := g.resumeAt.getD s.bel
    t.hbm = s.hbm ∧ (∀ d, (t.die d).bank = (s.die d).bank) ∧
    (∃ n ∈ t.gangs, n.task = u.id ∧ n.state = .running ∧ n.startAt = s.bel ∧ n.gbase = gb ∧ n.members = h.toMembers ∧
      n.home = g.home ∧ n.others = g.others ∧ n.hold = h ∧ ∀ x ∈ t.gangs, x.id = n.id → x = n) ∧
    ∀ m ∈ h.members, m.2.1 < 8 →
      (t.ctx m.2.1 0).run = .running ∧ (t.ctx m.2.1 0).arch.gbase = BitVec.ofNat 64 gb ∧
      ∀ k < 4, bit k (mGrp m.2.2) = true → ∀ i < 8,
        ((tget (t.die m.2.1).groups k default).tileBits i).busy = false ∧ ((tget (t.die m.2.1).groups k default).tileBits i).cnt = 0) ∧
  (∀ (s : State) (g : Gang) (r : LaunchRecord) (start : Nat),
    let t := s.fixStart g r start
    let n := { g with startAt := start, gbase := if g.saved = [] then start else g.gbase }
    t.hbm = s.hbm ∧ n ∈ t.gangs ∧ (∀ x ∈ t.gangs, x.id = g.id → x = n) ∧
    { at_ := s.now + (start - s.bel), phase := phStart, what := .ev (.gangStart g.id) } ∈ t.calendar ∧
    (∀ i d k, g.cold[i]? = some (d, k) →
      let b := start + (if g.saved = [] then r.warmup else 0) - 256 * (g.coldAll - (g.coldBefore + i))
      { at_ := s.now + (b - s.bel), phase := phStart, what := .ev (.groupPowerUpBegin d k) } ∈ t.calendar ∧
      { at_ := s.now + (b + 256 - s.bel), phase := phStart, what := .ev (.groupPowered d k) } ∈ t.calendar) ∧
    (g.saved ≠ [] → ∀ d, (t.die d).bank = (s.die d).bank) ∧
    ∀ m ∈ g.hold.members, m.2.1 < 8 →
      let x := t.ctx m.2.1 (if g.bg then 1 else 0)
      x.run = .stopped ∧ x.gang = g.id ∧ x.arch.gbase = BitVec.ofNat 64 n.gbase) ∧
  (∀ (s : State) (q : Nat), s.portForget q = { s with fetched := s.fetched.filter fun f => f.queue != q }) ∧
  ∀ (s : State) (a : ReserveAnswer) (g : Gang), s.gang? a.gang = some g →
    (g.home = s.pkg.toNat → g.state ≠ .ended → exec (.reserveReply a) s = .next { s with reservations := s.reservations.map fun r =>
      if r.1 = g.id ∧ r.2.1 = a.pkg then (r.1, r.2.1, some a) else r }) ∧
    (g.home ≠ s.pkg.toNat → g.state = .placing → g.startAt = 0 →
      (∀ start t, a.ready = some start → s.task? g.task = some t → exec (.reserveReply a) s =
        .next (s.fixStart { g with coldBefore := a.before, coldAll := a.groups, places := a.dies } t.record start)) ∧
      (a.ready = none → g.saved = [] → ∃ t : State, exec (.reserveReply a) s = .next t ∧ (∀ x ∈ t.gangs, x.id ≠ g.id) ∧
        (a.status = 0 → t = s.dropGang g.id)) ∧
      (a.ready = none → g.saved ≠ [] → ∃ t : State, exec (.reserveReply a) s = .next t ∧
        (a.status ≠ 0 → ∀ x ∈ t.gangs, x.id ≠ g.id) ∧
        (a.status = 0 → ∀ x ∈ t.gangs, x.id = g.id → x.state = .saved ∧ x.hold = default)))

/-- The events of a gang's life. R297: GANG_START lets the members begin at S. R298: an array group of an owner begins its
power-up, is powered with everything zero, and is turned off when no context owns it. R308, R309: CHECKPOINT_COMMIT commits
every member in one count and the common checkpoint advances. R315: ROLLBACK_RESUME lets every member reissue with GBASE = C −
Gck. R319: HANDLER_START runs the handler image in the die's handler context. R323: RERUN_CHECKPOINT compares the reruns; equal
ones commit. R326: PREEMPT_SAVE saves the members and frees what they held. R304: GANG_ABORT ends the gang with FAULT and its
cause, or ABORTED; R135, R136, R299: GANG_END with OK, its successor follows, or one that its members do not name alike or that
may not follow is refused. R256: PHASE_SWITCH takes the selected phase. R257:
RESYNC_RELEASE moves GBASE and lands the periods added. The model's choices: the window, ASID and GBASE of a handler (log 33), no
dump for an abort from outside and the end of committed marks (log 50), and GANG_END at a package that is not the gang's home (log
68). -/
def Obligations.GangEvents : Prop :=
  (∀ (s : State) (d g : Nat), 4 ≤ d → d < 8 → g < 4 →
    let x := tget (s.die d).groups g default
    (s.ownsGroup d g = true → x.powered = false → ∃ t, exec (.groupPowerUpBegin d g) s = .next t ∧
      tget (t.die d).groups g default = { x with powering := true }) ∧
    (x.powering = true → ∃ t, exec (.groupPowered d g) s = .next t ∧
      tget (t.die d).groups g default = { (default : TileGroup) with powered := true }) ∧
    (s.ownsGroup d g = false → ∃ t, exec (.groupPowerDown d g) s = .next t ∧ tget (t.die d).groups g default = default)) ∧
  (∀ (s : State) (d c : Nat) (g : Gang) (h : Nat), d < 8 → s.gangOf d c = some g → s.handlerOf d = some h → g.state = .rollback →
    ((s.ctx d 2).run ≠ .absent → exec (.handlerStart d c) s = .next (s.schedule (s.now + 1) phStart (.ev (.handlerStart d c)))) ∧
    ((s.ctx d 2).run = .absent → ∃ t, exec (.handlerStart d c) s = .next t ∧
      let v := s.ctx d c
      let x := t.ctx d 2
      x.run = .running ∧ x.image = h ∧ x.gang = g.id ∧ x.asid = v.asid ∧ x.served = c ∧ x.arch.gbase = v.arch.gbase ∧
      x.arch.bwinBase = v.arch.bwinBase ∧ x.arch.bwinLimit = v.arch.bwinLimit ∧
      x.arch.pc = BitVec.ofNat 64 (entryOffset (s.imageBytes h) (programFor (s.imageBytes h) d)) ∧ x.arch.guarded = false)) ∧
  (∀ (s : State) (g : Gang),
    let t := s.beginMembers g
    t.hbm = s.hbm ∧ (∀ d, (t.die d).bank = (s.die d).bank) ∧
    ∀ m ∈ g.members, m.die < 8 → m.ctx < 3 → (t.ctx m.die m.ctx).run = .running ∧ (g.bg = false → (t.die m.die).marks = []) ∧
      (g.members = [m] → s.dupMap m.die m.ctx 0 = [] →
        (t.ctx m.die m.ctx).arch = (s.ctx m.die m.ctx).arch ∧ (t.ctx m.die m.ctx).ckpt = (s.ctx m.die m.ctx).arch)) ∧
  (∀ (s : State) (g : Gang),
    let t := s.freeGang g
    t.hbm = s.hbm ∧ (∀ d, (t.die d).bank = (s.die d).bank) ∧
    (∀ y, y ∈ t.colls ↔ y ∈ s.colls ∧ y.gang ≠ g.id) ∧ (∀ y, y ∈ t.sends ↔ y ∈ s.sends ∧ y.gang ≠ g.id) ∧
    (∀ i < 14, ∀ x, x ∈ (t.lantern i).txq ↔ x ∈ (s.lantern i).txq ∧ ¬ (x.timed = true ∧ x.seq = none ∧ ∃ r, x.run = some r ∧ r.1 = g.id)) ∧
    (∀ d c, (∀ m ∈ g.members, m.die ≠ d) → t.ctx d c = s.ctx d c) ∧
    ∀ m ∈ g.members, m.die < 8 → (∀ f, f ∈ (t.die m.die).staging ↔ f ∈ (s.die m.die).staging ∧ f.gang ≠ g.id) ∧
      ∀ c < 3, c = m.ctx ∨ c = 2 → (s.ctx m.die c).gang = g.id →
        let a := (s.ctx m.die c).arch
        (t.ctx m.die c).run = .absent ∧ (t.ctx m.die c).reqs = [] ∧ (t.ctx m.die c).sentAtomics = (s.ctx m.die c).sentAtomics ∧
        (t.ctx m.die c).arch = { a with aq := [], dq := [], oq := [], landing := [], scat := default }) ∧
  (∀ (s : State) (g : Gang),
    let t := s.rollbackAgain g
    t.hbm = s.hbm ∧ (∀ d, (t.die d).bank = (s.die d).bank) ∧
    (∀ m ∈ s.liveMembers g, m.die < 8 → m.ctx < 3 → t.ctx m.die m.ctx = { s.ctx m.die m.ctx with run := .stopped }) ∧
    let again (m : Member) : Member :=
      { m with trap := none, stopAt := some s.bel, handled := false, resumeAt := none, restored := false }
    ∀ x ∈ s.gangs, x.id = g.id → { x with state := .rollback, faultAt := s.bel, tries := x.tries + 1, resumeAt := none, stops := [],
                                          members := x.members.map again } ∈ t.gangs) ∧
  ∀ (s : State) (gid : Nat) (g : Gang), s.gang? gid = some g →
    (g.state = .placing → g.startAt = s.bel → g.saved = [] → exec (.gangStart gid) s =
      .next (((s.modTask g.task fun t => { t with state := .running, saved := none }).beginMembers g).modGang gid
        fun x => { x with state := .running })) ∧
    (g.state = .running → s.liveMembers g ≠ [] → (∀ m ∈ s.liveMembers g, s.atCk m = true) →
      let u := (s.liveMembers g).foldl (fun s m => s.commitMember m.die m.ctx) s
      exec (.checkpointCommit gid) s = .next ((u.modGang gid fun x =>
        { x with ckNum := x.ckNum + 1, gck := (u.bel + 2 ^ 64 - x.gbase) % 2 ^ 64, tries := 0, rerun := 0,
                 rerunSigs := [] }).asyncRequests gid)) ∧
    (g.state = .preempting → g.preempt = none → exec (.preemptSave gid) s =
      .next (((s.freeGang g).modGang gid fun x =>
        { x with state := .saved, saved := g.members.map s.saveMember, preempt := none, offline := false, hold := default }).modTask g.task
        fun t => { t with state := .ready, saved := some gid })) ∧
    (g.state = .preempting → ∀ a n, g.preempt = some (a, n) → n < ((g.members.map s.saveMember).map SavedMember.size).sum →
      (g.offline = false → exec (.preemptSave gid) s = .next ((s.resumePreempted g).mailDone 2 0)) ∧
      (g.offline = true → exec (.preemptSave gid) s = .next ((s.saveGang g (g.members.map s.saveMember)).mailDone 2 0) ∧
        ∀ x ∈ (s.saveGang g (g.members.map s.saveMember)).gangs, x.id = gid → x.state = .saved)) ∧
    (g.state = .rollback → g.resumeAt = some s.bel → g.members = [] → ∃ t, exec (.rollbackResume gid) s = .next t ∧
      ∀ x ∈ t.gangs, x.id = gid → x.state = .running ∧ x.resumeAt = none ∧ x.gbase = (s.bel + 2 ^ 64 - g.gck) % 2 ^ 64) ∧
    (∀ m, g.state = .rollback → g.resumeAt = some s.bel → g.members = [m] → (s.ctx m.die m.ctx).run = .stopped → m.die < 8 → m.ctx < 2 →
      m.resumeAt = none → ∃ t, exec (.rollbackResume gid) s = .next t ∧ (t.ctx m.die m.ctx).run = .running ∧
        (t.ctx m.die m.ctx).arch.gbase = BitVec.ofNat 64 ((s.bel + 2 ^ 64 - g.gck) % 2 ^ 64) ∧
        (t.ctx m.die m.ctx).arch.pc = (s.ctx m.die m.ctx).arch.pc) ∧
    (g.state = .running → g.rerun = 1 → g.tries < 4 → exec (.rerunCheckpoint gid) s =
      .next ((s.modGang gid fun x => { x with rerun := 2, rerunSigs := s.rerunRecord g }).rollbackAgain g)) ∧
    (g.state = .running → g.rerun ≠ 1 → (∀ r ∈ s.rerunRecord g, r ∈ g.rerunSigs) → exec (.rerunCheckpoint gid) s =
      .next ((s.modGang gid fun x => { x with rerun := 0 }).soon (.ev (.checkpointCommit gid)))) ∧
    (g.state = .running → g.rerun ≠ 1 → (∃ r ∈ s.rerunRecord g, r ∉ g.rerunSigs) → ∃ t d, exec (.rerunCheckpoint gid) s = .next t ∧
      (∃ r ∈ s.rerunRecord g, r.1 = d ∧ r ∉ g.rerunSigs) ∧ (d < 8 → t.retired.getLsbD d = true ∧ t.svc.getLsbD d = false)) ∧
    (g.state ≠ .saved →
      let k := s.recordPending g
      exec (.gangAbort gid .outside) s = .next (((k.freeGang g).dropGang gid).taskEnded g.lastTask 7 0) ∧
      exec (.gangAbort gid .trap) s = .next (((((k.writeDump g).msix (some 4)).freeGang g).dropGang gid).taskEnded g.lastTask 2
        ((g.cause.map (·.code)).getD 0))) ∧
    (∀ m t, g.members = [m] → m.trap = some t → m.die < 8 → m.ctx < 3 →
      (m.restored = true → s.recordPending g = s) ∧
      (m.restored = false → g.state = .rollback → ((s.recordPending g).ctx m.die m.ctx).arch =
        (s.ctx m.die m.ctx).arch.recordTrap t m.trapStep false m.second)) ∧
    (∀ a n, g.state = .preempting → g.preempt = some (a, n) → ((g.members.map s.saveMember).map SavedMember.size).sum ≤ n →
      ∃ t, exec (.preemptSave gid) s = .next t ∧ ∀ x ∈ t.gangs, x.id = gid → x.state = .saved ∧ x.saved = g.members.map s.saveMember) ∧
    (g.state = .draining → g.members ≠ [] →
      let named := fun (m : Member) => (s.ctx m.die m.ctx).succ
      let ends := fun status => exec (.gangEnd gid) s = .next ((((s.tellEnd g status).freeGang g).dropGang gid).taskEnded g.task status 0)
      ((∀ m ∈ g.members, named m = none) → ends 1) ∧
      (g.home = s.pkg.toNat → (∃ m ∈ g.members, ∃ k ∈ g.members, named m ≠ named k) → ends 5) ∧
      ∀ n, (∀ m ∈ g.members, named m = some n) →
        (g.home ≠ s.pkg.toNat → exec (.gangEnd gid) s = .next (s.modGang gid fun x =>
          { x with state := .ended, succTask := none, resumeAt := none, endedAt := s.bel })) ∧
        (g.home = s.pkg.toNat → s.successorOf g n = none → ends 5) ∧
        (∀ u, g.home = s.pkg.toNat → s.successorOf g n = some u → ∃ t, exec (.gangEnd gid) s = .next t ∧
          ∀ x ∈ t.gangs, x.id = gid → x.state = .ended ∧ x.succTask = some u.id)) ∧
    (∃ t, exec (.phaseSwitch gid) s = .next t ∧ t.dies = s.dies ∧ t.hbm = s.hbm ∧ ∀ x ∈ s.gangs, x.id = gid →
      { x with phase := x.nextPhase.getD x.phase, nextPhase := none } ∈ t.gangs) ∧
    ∀ (m : Member) (v : Word), g.state = .running → g.resumeAt = some s.bel → g.members = [m] → m.die < 8 → m.ctx < 3 →
      (s.ctx m.die m.ctx).atResync = some v → ∃ t, exec (.resyncRelease gid) s = .next t ∧
        (t.ctx m.die m.ctx).arch.gbase = s.belfry - v ∧
        (t.ctx m.die m.ctx).resynced = some (wordOfInt ((((s.belfry - v).toNat : Int) - g.gbase) / g.tp))

/-! ### Lanterns, links and elastic frames (13 R334–R354) -/

/-- The events of Lanterns and links. R353: groups that wake lock 1,920 counts later, those of a timed run by the start of its
first slot, and carry units from then on; parked groups stop; an armed wake fires what its threshold has met; R255: a request acts
at its port die. R351: a fault is detected within 64 counts, and the spare takes over with a replay from 64 counts before it; R352:
with no spare left the identity has failed. R348: flits are taken in LSEQ order, an elastic one without room or with a bad CRC is
asked for again, and a NACK puts the flits from the named one on before all others, or begins the stream anew; R347: a timed frame
with a bad flit is discarded whole. R343: BASE_TIMETABLE_INSTALL. R334: a flit of an edge is sent again 8 counts later, a second
failure takes the edge out of service. R335, R336: the arrival of an epoch, and the loss of the clock lock. The model's choices:
the NACK of an elastic flit with a bad CRC (log 57), an armed wake that fires once and which bytes meet its threshold (log 58),
the READY of an epoch and after a clock loss (log 59), and the flit that begins a stream anew (log 84). -/
def Obligations.LanternEvents : Prop :=
  (∀ (s : State) (i : Nat), i < 14 →
    let l := s.lantern i
    (∀ mask, ∃ t, exec (.groupLocked i mask) s = .next t ∧ t.dies = s.dies ∧ t.hbm = s.hbm ∧
      (t.lantern i).woken = l.woken ||| (mask &&& l.locking &&& ~~~l.parkNext) ∧ (t.lantern i).locking = l.locking &&& ~~~mask ∧
      (t.lantern i).parkNext = l.parkNext &&& ~~~(mask &&& l.locking)) ∧
    (∀ mask, let new := mask &&& ~~~l.woken &&& ~~~l.locking
      ∃ t, exec (.timetableWake i mask) s = .next t ∧ (t.lantern i).woken = l.woken ∧ (t.lantern i).locking = l.locking ||| new ∧
        (new ≠ 0 → { at_ := s.now + 1920, phase := phStart, what := .ev (.groupLocked i new) } ∈ t.calendar)) ∧
    (∀ mask, ∃ t, exec (.timetablePark i mask) s = .next t ∧ (t.lantern i).woken = l.woken &&& ~~~mask ∧
      (t.lantern i).locking = l.locking ∧ (t.lantern i).parkNext = l.parkNext ||| (mask &&& l.locking)) ∧
    (let new := l.firing &&& ~~~s.timedGroups i &&& ~~~l.woken &&& ~~~l.locking
      ∃ t, exec (.armedWake i) s = .next t ∧ (t.lantern i).firing = 0 ∧ (t.lantern i).locking = l.locking ||| new ∧
        (new ≠ 0 → { at_ := s.now + 1920, phase := phEnd, what := .ev (.groupLocked i new) } ∈ t.calendar)) ∧
    (∀ r, s.lanternReqs = [r] → r.ident = i → r.at_ = s.now → r.die < 8 →
      exec (.lanternRequestAct r.id) s = .next (({ s with lanternReqs := [] } : State).actLantern r)) ∧
    (∀ e, l.faultAt = some e → l.ls = 6 → l.resumeAt = some s.now → i % 7 ≠ 6 → ∃ t, exec (.failoverResume i) s = .next t ∧
      (t.lantern i).faultAt = none ∧ (t.lantern i).resumeAt = none ∧ (t.lantern i).dark = false ∧ (t.lantern i).ls = l.code ∧
      (t.lantern (if i < 7 then 6 else 13)).ls = 7 ∧
      let again (x : RingFlit) : Prop := e ≤ x.at_ + 64 ∨ ∃ y ∈ l.txq, y.seq = some x.seq
      (∀ earlier x later, l.ring = earlier ++ x :: later → again x → (∀ y ∈ earlier, ¬ again y) →
        ∃ rest, (t.lantern i).txq = (x :: later).map (fun x => x.again true) ++ rest ∧
          ∀ x ∈ rest, x.any = true ∧ ∃ y ∈ l.txq, y.seq = x.seq ∧ y.tail = x.tail ∧ y.left = x.left) ∧
      ((∀ x ∈ l.ring, ¬ again x) → (t.lantern i).txq = l.txq.map fun x => { x with any := true })) ∧
    (l.active = true → l.faultAt = none → ∃ t k, exec (.lanternFault i) s = .next t ∧ k ≤ 64 ∧
      (t.lantern i).faultAt = some s.now ∧ { at_ := s.now + k, phase := phStart, what := .detect i } ∈ t.calendar) ∧
    (l.ls = 6 → exec (.lanternFault i) s = .next ((s.failIdent i).setLs (if i < 7 then 6 else 13) 7)) ∧
    (s.belfryOn = true → s.identDown i = false → l.ls ≠ 1 → ∀ lseq timed,
      let ahead := (lseq + 2 ^ 32 - l.rxSeq) % 2 ^ 32
      (lseq ≠ l.rxSeq → ahead < 65536 ∨ 2 ^ 31 ≤ ahead → ∀ f, exec (.flitReceive i lseq f) s = .next s) ∧
      (65536 ≤ ahead → ahead < 2 ^ 31 → ∃ t, exec (.flitReceive i lseq { timed := true, crcOk := true, done := none }) s = .next t ∧
        (t.lantern i).rxSeq = (lseq + 1) % 2 ^ 32) ∧
      (lseq = l.rxSeq → timed = true ∨ l.rxBytes + 64 ≤ elasticBuffer →
        ∃ t, exec (.flitReceive i lseq { timed := timed, crcOk := true, done := none }) s = .next t ∧
          (t.lantern i).rxSeq = (l.rxSeq + 1) % 2 ^ 32 ∧ (t.lantern i).rxBytes = l.rxBytes + (if timed then 0 else 64)) ∧
      (lseq = l.rxSeq → ∀ n ok fr, ok = false ∨ elasticBuffer < l.rxBytes + 64 →
        exec (.flitReceive i lseq { frame := n, timed := false, crcOk := ok, done := fr }) s =
          .next { s with control := s.control ++ [.nack i lseq] }) ∧
      (lseq = l.rxSeq → ∀ n, (∃ t, exec (.flitReceive i lseq { frame := n, timed := true, crcOk := false, done := none }) s = .next t ∧
        (t.lantern i).rxSeq = (l.rxSeq + 1) % 2 ^ 32 ∧ (t.lantern i).rxBad.contains n = true) ∧
        ∀ ok fr, ok = false ∨ l.rxBad.contains n = true → ∃ t, exec (.flitReceive i lseq { frame := n, timed := true, crcOk := ok, done := some fr }) s = .next t ∧
          t.calendar = s.calendar ∧ t.agenda = s.agenda ∧ (t.lantern i).rxSeq = (l.rxSeq + 1) % 2 ^ 32)) ∧
    (s.belfryOn = false → ∀ lseq f, exec (.flitReceive i lseq f) s = .next s ∧ exec (.nack i lseq) s = .next s) ∧
    (s.belfryOn = true → s.identDown i = false → l.txq = [] → ∀ earlier x later, l.ring = earlier ++ x :: later → (∀ y ∈ earlier, y.seq ≠ x.seq) →
      ∃ t, exec (.nack i x.seq) s = .next t ∧ (t.lantern i).ring = l.ring ∧
        (t.lantern i).txq = ((x :: later).filter fun y => y.peer == x.peer).map fun y => y.again false) ∧
    (s.belfryOn = true → s.identDown i = true → l.ring = [] → ∀ lseq, ∃ t, exec (.nack i lseq) s = .next t ∧ t.dies = s.dies) ∧
    (s.belfryOn = true → s.identDown i = false → ∀ lseq, (∀ x ∈ l.ring, x.seq ≠ lseq) → ∃ t, exec (.nack i lseq) s = .next t ∧
      (t.lantern i).ring = l.ring.filter (fun r => r.flit.timed) ∧
      (∀ e v, e ∈ s.elastic → e.via = some (i, v) → .ev (.statusFrame
        (pathLost { (default : Frame) with chan := e.id, srcPkg := s.pkg.toNat } v 0)) ∈ t.agenda) ∧
      (s.elastic = [] → t.agenda = s.agenda ∧ (t.lantern i).txq = l.txq)) ∧
    ∀ b, s.newTT.find? (fun b => b.1 == i) = some b → ∃ t, exec (.baseTimetableInstall i) s = .next t ∧ b ∈ t.baseTT ∧
      (∀ x ∈ t.baseTT, x.1 = i → x = b) ∧ ∀ x ∈ t.newTT, x.1 ≠ i) ∧
  (∀ (s : State) (r : LanternReq), r.ident < 14 →
    let l := s.lantern r.ident
    let m := r.mask &&& ~~~s.timedGroups r.ident
    let new := m &&& ~~~l.woken &&& ~~~l.locking
    let t := s.actLantern r
    let u := t.lantern r.ident
    (s.identDown r.ident = true → t = s) ∧
    (s.identDown r.ident = false → r.wake = false →
      u.woken = l.woken &&& ~~~m ∧ u.locking = l.locking ∧ u.parkNext = l.parkNext ||| (m &&& l.locking)) ∧
    (s.identDown r.ident = false → r.wake = true → r.arm = none → u.woken = l.woken ∧ u.locking = l.locking ||| new ∧
      (new ≠ 0 → { at_ := s.now + 1920, phase := phEnd, what := .ev (.groupLocked r.ident new) } ∈ t.calendar)) ∧
    ∀ thr, s.identDown r.ident = false → r.wake = true → r.arm = some thr → u.woken = l.woken ∧ u.locking = l.locking ∧
      (l.queued < thr → u.armed = some (m, thr) ∧ u.firing = l.firing) ∧
      (thr ≤ l.queued → u.armed = none ∧ u.firing = l.firing ||| m ∧
        ∃ k ≤ 64, { at_ := s.now + k, phase := phStart, what := .ev (.armedWake r.ident) } ∈ t.calendar)) ∧
  (∀ (s : State) (e : Nat), e < 28 →
    (∃ t, exec (.edgeCrcFail e true) s = .next t ∧ t.edges = s.edges &&& ~~~((1 : BitVec 14) <<< (e % 14)) ∧
      ∀ g ∈ s.gangs, g.state ≠ .saved → (∃ m ∈ g.members, m.die ∈ edgeEnds (e % 14)) → .ev (.gangAbort g.id .outside) ∈ t.agenda) ∧
    (∃ t, exec (.edgeCrcFail e false) s = .next t ∧ t.edges = s.edges ∧ (e, s.bel + 8) ∈ t.edgeLate)) ∧
  (∀ s : State, ∃ t, exec .clockLockLoss s = .next t ∧ t.ready = false ∧ t.belfryOn = false ∧ t.dies = s.dies ∧ t.hbm = s.hbm ∧
    ∀ g ∈ s.gangs, g.state ≠ .saved → .ev (.gangAbort g.id .outside) ∈ t.agenda) ∧
  ∀ (s : State) (v delay : Nat), ∃ t, exec (.epochArrival v delay) s = .next t ∧ t.belfry = BitVec.ofNat 64 (v + delay) ∧
    t.belfryOn = true ∧ t.ready = (s.stage == 3 && s.berr == 0) ∧
    (∀ i < 14, (t.lantern i).txSeq = 0 ∧ (t.lantern i).rxSeq = 0 ∧ (t.lantern i).ring = []) ∧ t.dies = s.dies ∧ t.hbm = s.hbm ∧ t.gangs = s.gangs

/-- The events of elastic frames. R354: a frame that reaches its home reads, writes under its mask, or updates one word
indivisibly, and is answered with the data or the fault met; the access takes place where its burst does (R230, R231), else at a
later count. R349: a frame for another package goes on with HOP + 1. R190, R191: a row request is served whole from its table
entry, and the reply returns its elements, one that faulted with its cause and address. R349, R350, R327: a reply, a status frame,
a time-out of 2^22 counts and the host's completion reach the request that waits; stated for a scalar request. R336: outside the
domain none of what other packages ask is done. The fields of frames and the codes of an atomic are the model's layout (log 9). -/
def Obligations.ElasticEvents : Prop :=
  (∀ (s : State) (f : Frame), s.belfryOn = false →
    (∀ i ∈ [Instr.elasticRead f, .elasticWrite f, .elasticAtomic f, .elasticForward f, .rowRequest f], exec i s = .next s) ∧
    (f.port ≠ none → ∀ i ∈ [Instr.readReply f, .rowReply f, .statusFrame f], exec i s = .next s)) ∧
  (∀ (s : State) (f : Frame) (h : Machine.Home), s.belfryOn = true → s.domainHome f.addr = .ok h →
    (∀ u, s.elasticTurn [h] = some u →
      (∀ v, u.readHome h f.op = .ok v → exec (.elasticRead f) s = .next (u.replyTo f 0 (bytesOfNat f.op v))) ∧
      (∀ code, u.readHome h f.op = .error code → exec (.elasticRead f) s = .next (u.replyTo f code [])) ∧
      (h.inside = true → f.data.length ≤ 64 →
        exec (.elasticWrite f) s = .next ((u.writeHomeMasked h (natOfBytes f.data) f.op 64).replyTo f 0 [])) ∧
      (∀ w data, u.serveAtomic h f = .ok (w, data) → exec (.elasticAtomic f) s = .next (w.replyTo f 0 data)) ∧
      (∀ code, u.serveAtomic h f = .error code → exec (.elasticAtomic f) s = .next (u.replyTo f code []))) ∧
    (s.elasticTurn [h] = none → ∀ i ∈ [Instr.elasticRead f, .elasticAtomic f], exec i s = .next (s.laterOn (.ev i))) ∧
    (h.inside = true → 64 < f.data.length → exec (.elasticWrite f) s = .next (s.writeFlits f 0 f.dataFlits)) ∧
    (h.inside = false → exec (.elasticWrite f) s = .next (s.replyTo f 0x23 []))) ∧
  (∀ (s : State) (f : Frame) (code : Nat), s.belfryOn = true → s.domainHome f.addr = .error code →
    ∀ i ∈ [Instr.elasticRead f, .elasticWrite f, .elasticAtomic f], exec i s = .next (s.replyTo f code [])) ∧
  (∀ (s : State) (f : Frame) (e : FwdEntry), s.belfryOn = true → s.forwardEntry f.dstPkg = some e →
    (f.hop < 15 → exec (.elasticForward f) s = .next (s.enqueueFrame e { f with hop := f.hop + 1 })) ∧
    (15 ≤ f.hop → exec (.elasticForward f) s = .next (s.refusePath f))) ∧
  (∀ (s : State) (f : Frame), s.belfryOn = true → s.forwardEntry f.dstPkg = none → exec (.elasticForward f) s = .next (s.refusePath f)) ∧
  (∀ (s : State) (f : Frame), s.belfryOn = true →
    let e := s.rowEntry f
    let r := s.readRows f.dstDie f.asid e f.op (Frame.rowIndices f)
    (r.2.length = (Frame.rowIndices f).length → exec (.rowRequest f) s = .next (r.1.answer (s.rowAnswer f r.2) Instr.rowReply)) ∧
    ∀ i, Frame.rowIndices f = [i] → e.valid = false ∨ e.size ≠ f.op ∨ e.limit ≤ i →
      r.2 = [((e.base + i * e.stride) % 2 ^ 64, some 0x23, 0)] ∧ (s.rowAnswer f r.2).faults = [(0, 0x23, (e.base + i * e.stride) % 2 ^ 64)]) ∧
  (∀ (s : State) (f : Frame) (e : Elastic) (d c id g : Nat), s.belfryOn = true ∨ f.port = none →
    s.elastic.find? (fun e => e.id == f.chan) = some e → e.who = .elem d c id [g] →
    let u : State := { s with elastic := s.elastic.filter fun x => x.id != f.chan }
    (f.faults = [] → exec (.rowReply f) s = .next (u.elemBack d c id g (.ok (natOfBytes f.data)))) ∧
    ∀ cause a, f.faults = [(0, cause, a)] → exec (.rowReply f) s = .next (u.elemBack d c id g (.error (ixTrap cause a)))) ∧
  (∀ (s : State) (f : Frame) (code : Nat) (data : List Byte),
    let back : Frame := { kind := FrameKind.reply, hop := 0, srcPkg := s.pkg.toNat, srcDie := f.dstDie, dstPkg := f.srcPkg,
                          dstDie := f.srcDie, chan := f.chan, seq := 0, addr := 0, gang := 0, op := code, data := data }
    (f.srcPkg = s.pkg.toNat → s.replyTo f code data =
      { s with free := s.free + 1 }.schedule (s.now + Config.freeNat s.free) phEdge (.ev (.readReply back))) ∧
    (f.srcPkg ≠ s.pkg.toNat → s.replyTo f code data = s.sendOut back)) ∧
  (∀ (s : State) (h : Machine.Home) (f : Frame) (old : Nat),
    let size := f.op / 2 ^ 8 % 2 ^ 8
    let y := natOfBytes (f.data.take 8)
    let all := natOfBytes f.data
    let serves := fun (u : State) (bs : List Byte) => s.serveAtomic h f = .ok (u, bs)
    let updates := fun n => serves (s.writeHome h (bytesOfNat size n)) (bytesOfNat 8 old)
    (s.readHome h size = .ok old →
      (f.op % 2 ^ 8 = 0 → updates ((old + y) % 2 ^ (8 * size))) ∧ (f.op % 2 ^ 8 = 1 → updates ((old + 1) % 2 ^ (8 * size))) ∧
      (f.op % 2 ^ 8 = 2 → old = y → updates (natOfBytes ((f.data.drop 8).take 8))) ∧
      (f.op % 2 ^ 8 = 2 → old ≠ y → serves s (bytesOfNat 8 old)) ∧ (f.op % 2 ^ 8 = 3 → updates y)) ∧
    (s.readHome h 64 = .ok old → f.op % 2 ^ 8 = 4 →
      let wix := old % 2 ^ 64
      let lsz := old / 2 ^ 128 % 2 ^ 8
      let ring := old / 2 ^ 192 % 2 ^ 64
      let full : Prop := 2 ^ lsz ≤ (wix + 2 ^ 64 - old / 2 ^ 64 % 2 ^ 64) % 2 ^ 64
      let brings := fun v => bytesOfNat 8 v ++ bytesOfNat 8 ring ++ bytesOfNat 1 lsz
      (full → serves s (brings (2 ^ 64 - 1))) ∧
      (¬ full → serves ((s.writeHome h (bytesOfNat 8 (wix + 1))).noteClaim h ((ring + 64 * (wix % 2 ^ lsz)) % 2 ^ 64)) (brings wix))) ∧
    (s.readHome h 16 = .ok old → f.op % 2 ^ 8 = 5 →
      let count := old % 2 ^ 64
      let other := old / 2 ^ 64
      (all ≤ count → serves (s.writeHome h (bytesOfNat 16 (count - all + other * 2 ^ 64))) []) ∧
      (count < all → serves (s.writeHome h (bytesOfNat 16 ((other % 2 ^ 63 + 2 ^ 63) * 2 ^ 64))) [])) ∧
    (s.readHome h 4 = .ok old → f.op % 2 ^ 8 = 6 →
      let r := roundTo .f32 (((fpValue .f32 old).add .ne (fpValue .f32 all)).val) .ne .inf false 0
      serves (s.writeHome h (bytesOfNat 4 r.bits))
        (bytesOfNat 1 ((if fpValue .f32 r.bits = .nan then 1 else 0) + (if r.flags &&& flagOF = 0 then 0 else 2)))) ∧
    (s.readHome h 16 = .ok old → f.op % 2 ^ 8 = 7 → serves (s.writeHome h (bytesOfNat 16 ((old + all) % 2 ^ 128))) []) ∧
    ∀ code, s.readHome h (if f.op % 2 ^ 8 = 4 then 64 else if f.op % 2 ^ 8 = 5 ∨ f.op % 2 ^ 8 = 7 then 16 else if f.op % 2 ^ 8 = 6 then 4
      else size) = .error code → s.serveAtomic h f = .error code) ∧
  (∀ (s : State) (d c id : Nat) (q : Req), d < 8 → c < 3 → (s.ctx d c).req? id = some q →
    (∀ code info, q.poison = none → ∃ r, ((s.answerReq d c id (.error (code, info))).ctx d c).req? id = some r ∧
      r.poison = some { code := code, info := info.getD q.addr.toNat, cls := q.cls, clus := none }) ∧
    ∀ bs, q.kind ≠ .tdmaOut →
      let t := s.answerReq d c id (.ok bs)
      let v := natOfBytes (bs.take q.size)
      (q.ended = true → ∃ r, (t.ctx d c).req? id = some r ∧ r.value = some v) ∧
      (q.ended = false → (∃ r, (t.ctx d c).req? id = some r ∧ r.value = some (q.withOver v)) ∧
        (pastStep s.bel q.pstep = false →
          { at_ := s.now + (q.pstep - s.bel), phase := phPromise, what := .ev (.promisedValueLanding d c id) } ∈ t.calendar) ∧
        (pastStep s.bel q.pstep = true → q.replayed = true ∨ (s.ctx d c).arch.guarded = true →
          { at_ := s.now, phase := phPromise, what := .ev (.promisedValueLanding d c id) } ∈ t.calendar))) ∧
  (∀ (s : State) (d c id g : Nat) (e : DqEntry), d < 8 → c < 3 → (s.ctx d c).arch.dqEntry? id = some e → g ∈ e.waiting →
    s.elementsStop d c = false →
    let rest := e.waiting.filter fun x => x != g
    (∀ v, ((s.elemBack d c id g (.ok v)).ctx d c).arch.dqEntry? id = some { e with
      data := e.data ||| BitVec.ofNat 8192 (v % 2 ^ (8 * e.size) * 2 ^ (8 * e.size * g)), waiting := rest,
      status := if e.status = .wait ∧ rest = [] then .landed else e.status }) ∧
    ∀ tr, ∃ r, ((s.elemBack d c id g (.error tr)).ctx d c).arch.dqEntry? id = some r ∧ r.waiting = rest ∧ r.data = e.data ∧
      (e.status = .wait → r.status = .poisoned g tr) ∧
      ∀ k u, e.status = .poisoned k u → r.status = if g < k then .poisoned g tr else .poisoned k u) ∧
  ∀ (s : State) (n : Nat) (e : Elastic) (d c id : Nat), s.elastic.find? (fun e => e.id == n) = some e → e.who = .req d c id →
    let u : State := { s with elastic := s.elastic.filter fun x => x.id != n }
    (∀ f : Frame, f.chan = n → s.belfryOn = true ∨ f.port = none →
      (f.op = 0 → exec (.readReply f) s = .next (u.answerReq d c id (.ok f.data))) ∧
      (f.op ≠ 0 → exec (.readReply f) s = .next (u.answerReq d c id (.error (f.op, none)))) ∧
      exec (.statusFrame f) s = .next (u.answerReq d c id (.error (0x27, some (f.addr % 2 ^ 16))))) ∧
    exec (.pathLostTimeout n) s = .next (u.answerReq d c id (.error (0x27, some (e.pkg % 2 ^ 10 + 63 * 2 ^ 10)))) ∧
    (∀ bs, exec (.hostReadCompletion n (some bs)) s = .next (u.answerReq d c id (.ok bs))) ∧
    exec (.hostReadCompletion n none) s = .next (u.answerReq d c id (.error (0x23, none)))

/-! ### The mailbox, proofing, offline requests and the host port (14 R360–R371, 11 R306, 13 R328, R329) -/

/-- Table 14-6, R365: the mailbox commands. A command that ends leaves its STATUS and VALUE in MRES: 0 done, 1 a bad argument, 2
refused. QREG and QDEREG register and drop a queue (QDEREG only while its indices agree); ASIDROOT, QPAGE, ROWSRV and FWD write
their tables; PIN and PIN_REMOVAL the pin table (R329); INVAL drops slice entries and INVALIDATION_COMPLETE ends it once no
access uses them (R328); BASETT waits for its count; HANDLER, UNSEAL, STOP, PREEMPT, ATTEST and FWSTAGE have the effects of the
table. The layout of the arguments is the model's (log 53). -/
def Obligations.MailboxCommands : Prop :=
  ∀ s : State,
    let a := fun n => s.arg n
    let ends := fun (u : State) (status value : Nat) => (Host.Outcome.next (u.mailDone status value) : Res)
    (∀ (u : State) (st v : Nat), st < 256 → v < 2 ^ 48 → (u.mailDone st v).mcmdNow = none ∧
      ((u.mailDone st v).mres.extractLsb' 8 8).toNat = st ∧ ((u.mailDone st v).mres.extractLsb' 16 48).toNat = v) ∧
    (∀ h i, a 0 % 64 = 0 → a 1 = 0xFF → s.portRead registerKey (a 2 % 2 ^ 12) (a 0) 64 = .bytes h → headerBad h = false →
      let u := s.portForget registerKey
      let launch := natAt h 17 1 == 1
      u.freeIndex launch = some i → exec .qreg s = ends { u with queues := u.queues ++
        [{ (default : Queue) with ix := i, launch := launch, header := a 0, asid := a 2 % 2 ^ 12, vector := none }] } 0 i) ∧
    (a 0 % 64 ≠ 0 → exec .qreg s = ends s 1 0) ∧
    (∀ y h, s.queues.find? (fun y => y.ix == a 0 && b2n y.launch == a 1) = some y →
      s.portRead registerKey y.asid y.header 64 = .bytes h →
      let u := s.portForget registerKey
      (hWix h ≠ hRix h → exec .qdereg s = ends u 2 0) ∧
      (hWix h = hRix h → exec .qdereg s = ends { u with queues := u.queues.filter fun x => x.key != y.key } 0 0)) ∧
    (2 ^ 12 ≤ a 0 → exec .asidroot s = ends s 1 0) ∧
    (a 0 < 2 ^ 12 → a 1 = 0 ∨ (a 1 % 2 ^ 21 = 0 ∧ physOk (a 1) (2 ^ 21) = true) →
      exec .asidroot s = ends { s with roots := (a 0, BitVec.ofNat 64 (a 1)) :: s.roots.filter fun x => x.1 != a 0 } 0 0) ∧
    (a 0 < 1024 → a 1 % 2 ^ 16 = 0 → physOk (a 1) (2 ^ 16) = true →
      exec .qpage s = ends { s with qpages := (a 0, a 1) :: s.qpages.filter fun p => p.1 != a 0 } 0 0) ∧
    (a 0 < 4 → s.diePresent (a 0) = true → a 1 < 64 → a 4 = 1 ∨ a 4 = 2 ∨ a 4 = 4 ∨ a 4 = 8 → a 6 < 2 →
      exec .rowsrv s = ends (s.modDie (a 0) fun x => { x with rows :=
        (a 1, { base := a 2, stride := a 3, size := a 4, limit := a 5, valid := a 6 == 1 }) :: x.rows.filter fun p => p.1 != a 1 }) 0 0) ∧
    (a 0 < 1024 → a 1 < 2 → a 2 < 1024 → a 3 < 2 ^ 14 →
      let rest := s.fwd.filter fun e => e.pkg != a 0
      exec .fwd s = ends { s with fwd := if a 1 = 1 then { pkg := a 0, nextHop := a 2, mask := a 3 } :: rest else rest } 0 0) ∧
    (a 0 < 4096 → ∃ t k, exec .inval s = .next t ∧ t.mcmdNow = s.mcmdNow ∧ t.invalFrom = s.nextId ∧
      { at_ := s.now + k, phase := phEnd, what := .ev (.invalidationComplete (a 0) (a 1) (a 2)) } ∈ t.calendar ∧
      ∀ d < 8, ∀ l, l ∈ (t.die d).slices ↔ l ∈ (s.die d).slices ∧ l.meets (a 0) (a 1) (a 2) = false) ∧
    (∀ asid base len, s.openAccess asid base len = false → exec (.invalidationComplete asid base len) s = ends s 0 0) ∧
    (∀ asid base len, s.openAccess asid base len = true → exec (.invalidationComplete asid base len) s =
      .next (s.schedule (s.now + 1) phEnd (.ev (.invalidationComplete asid base len)))) ∧
    (∀ l : Leaf, l = { asid := a 2, page := a 3, size := a 4, tgt := 0, out := a 5, rd := bit 0 (a 6), wr := bit 1 (a 6) } →
      s.diePresent (a 0) = true → a 0 < 8 → a 1 < 512 → l.asid < 4096 → 4 ≤ a 6 → a 6 < 8 → l.size = 2 ^ 16 → l.page % 2 ^ 16 = 0 →
      l.page + 2 ^ 16 ≤ 2 ^ 57 → l.out % 2 ^ 16 = 0 → physOk l.out (2 ^ 16) = true → s.pinAt (a 0) (a 1) = none →
      ∃ t, exec .pin s = .next t ∧ (t.die (a 0)).pins = (a 1, l) :: (s.die (a 0)).pins ∧ t.hbm = s.hbm) ∧
    (∀ d e l, d < 8 → s.pinAt d e = some l → e ∈ (s.die d).unpins → s.pinHeld d l = false → s.pinBusy d l = false →
      ∃ t, exec (.pinRemoval d e) s = .next t ∧ ∀ p, p ∈ (t.die d).pins ↔ p ∈ (s.die d).pins ∧ p.1 ≠ e) ∧
    (∀ bs, a 0 < 14 → physOk (a 1) (16 * a 2) = true → s.physRead (a 1) (16 * a 2) = some bs →
      let es := (List.range (a 2)).map fun k => natAt bs (16 * k) 16
      (∀ e ∈ es, baseEntryBad (a 0) e = false) → anyShare (es.map (lanEntry 0)) = false → ∃ t, exec .basett s = .next t ∧
        (a 0, es.map (BitVec.ofNat 128)) ∈ t.newTT ∧ t.baseTT = s.baseTT) ∧
    (∀ bs, s.diePresent (a 0) = true → physOk (a 1) 64 = true → s.physRead (a 1) 64 = some bs →
      let rest := s.handlers.filter fun h => h.1 != a 0
      (natOfBytes bs = 0 → exec .handler s = ends { s with handlers := rest } 0 0) ∧
      (∀ i, natOfBytes bs ≠ 0 → s.imageAt (a 1) = some i → bit 0 (natAt i.bytes 6 1) = true → exec .handler s =
        ends (({ s with handlers := (a 0, i.handle) :: rest } : State).extendMeas (if a 0 < 4 then 5 else 6) i.digest) 0 0)) ∧
    (∀ i, s.imageAt (a 0) = some i →
      (s.imageNamed i = true → exec .unseal s = ends s 2 0) ∧
      (s.imageNamed i = false →
        let named := ((s.queues.filter fun y => y.launch).map s.queuedDigests).foldl Got.append (.bytes [])
        let u := s.portForget unsealKey
        (∀ ds, named = .bytes ds → digestIn i.digest ds = true → exec .unseal s = ends u 2 0) ∧
        (∀ ds, named = .bytes ds → digestIn i.digest ds = false →
          exec .unseal s = ends { u with images := u.images.filter fun x => x.handle != i.handle,
                                         handlers := u.handlers.filter fun h => h.2 != i.handle } 0 0) ∧
        ((∀ y ∈ s.queues, y.launch = false) → named = .bytes []))) ∧
    (∀ g, s.gang? (a 0) = some g →
      exec .stop s = ends (s.modGang g.id fun x => { x with stop := true }) 0 0 ∧
      (physOk (a 1) (a 2) = true → g.state = .running ∨ g.state = .rollback ∨ g.state = .placing →
        exec .preempt s = .next (s.modGang g.id fun x => { x with preempt := some (a 1, a 2) }))) ∧
    (s.gang? (a 0) = none → exec .stop s = ends s 1 0 ∧ exec .preempt s = ends s 1 0) ∧
    (∀ nonce, physOk (a 0) 32 = true → s.physRead (a 0) 32 = some nonce →
      let body := s.reportBody nonce
      physOk (a 1) (body.length + 4627) = true → exec .attest s = ends (s.physWrite (a 1)
        (body ++ (List.range 4627).map fun i => (Config.deviceSignature (shake256 body 64)).getD i 0)) 0 0) ∧
    ∀ bs, a 1 ≠ 0 → physOk (a 0) (a 1) = true → s.physRead (a 0) (a 1) = some bs → ∃ t, exec .fwstage s = .next t ∧ t.mcmdNow = none ∧
      ((t.mres.extractLsb' 8 8 = 0 ∧ t.flash = bs) ∨ (t.mres.extractLsb' 8 8 = 2 ∧ t.flash = s.flash))

/-- Proofing, offline requests and resets. R368: PROOFING_SUBMIT begins proofing, or sets OVR while one is under way; R66, R67:
PROOFING_DONE seals an image that passes under a new handle and reports the failure of any other. R306: OFFLINE_REQUEST,
FRAME_MOVE and OFFLINE_DONE. R360: the resets of the function abort every gang and take READY away until READY_RETURN. R50,
R366: POWER_ON_RESET boots, or stops at the first check that fails. One frame moved a count and the corners of an offline request
are the model's choices (log 55), as are the clearing by the count before READY returns and the corners of FLR (log 60). -/
def Obligations.ProofingAndResetEvents : Prop :=
  (∀ (s : State) (v : Word),
    (s.pstat.getLsbD 0 = true → exec (.proofingSubmit v) s = .next { s with pstat := s.pstat ||| 2 }) ∧
    (s.pstat.getLsbD 0 = false → ∃ t, exec (.proofingSubmit v) s = .next t ∧ t.psubl = v ∧ t.pstat.getLsbD 0 = true ∧
      t.images = s.images ∧ ∃ k, { at_ := s.now + 1 + k, phase := phEnd, what := .ev .proofingDone } ∈ t.calendar)) ∧
  (∀ s : State, s.pstat.getLsbD 0 = true →
    (s.proofing = none → ∃ t, exec .proofingDone s = .next t ∧ t.pstat.getLsbD 0 = false ∧ t.images = s.images ∧
      t.pres64 = (⟨0, 0, .source, 15, 0⟩ : Failure).word) ∧
    (∀ b f, s.proofing = some b → proofImage b = .error f → ∃ t, exec .proofingDone s = .next t ∧ t.pstat.getLsbD 0 = false ∧
      t.images = s.images ∧ t.pres64 = f.word) ∧
    (∀ b maps, s.proofing = some b → proofImage b = .ok maps →
      (s.images.map fun i => i.bytes.length).sum + (sealedBytes b).length ≤ sealedArea →
      ∃ t, exec .proofingDone s = .next t ∧ t.pstat.getLsbD 0 = false ∧ t.pres64 = sealedWord s.nextId ∧
        t.images = s.images ++ [{ handle := s.nextId, bytes := sealedBytes b,
                                  digest := BitVec.ofNat 512 (natOfBytes (shake256 (sealedBytes b) 64)), dupMaps := maps }])) ∧
  (∀ (s : State) (v : Word),
    (s.offBusy = true → exec (.offlineRequest v) s = .next (s.offEnd 5 0)) ∧
    (∀ masks, s.offBusy = false → v.toNat % 8 ≠ 0 → s.diePresent (v.toNat % 8) = true → s.offline.getLsbD (v.toNat % 8) = false →
      s.frameMasks (v.toNat / 2 ^ 16 * 2 ^ 16) = some masks →
      let d := v.toNat % 8
      let room := (((List.range 8).filter fun n => n != d && s.stackInService n).map fun n => unusedCount n (masks.getD n 0)).sum
      (v.getLsbD 3 = true ∨ usedCount (masks.getD d 0) ≤ room → ∃ t, exec (.offlineRequest v) s = .next t ∧
        t.offBusy = true ∧ t.offReq = v ∧ t.offStat = 1 ∧ t.offMap = masks ∧ t.hbm = s.hbm ∧
        { at_ := s.now + 1, phase := phEnd, what := .ev .frameMove } ∈ t.calendar) ∧
      (v.getLsbD 3 = false → room < usedCount (masks.getD d 0) → ∃ t, exec (.offlineRequest v) s = .next t ∧ t.offBusy = false ∧
        t.offStat.extractLsb' 0 3 = 3 ∧ t.degraded.getLsbD d = true ∧ t.hbm = s.hbm))) ∧
  (∀ s : State,
    let d := s.offDie
    (s.offBusy = true → s.gangsNeeding d = [] → ∀ f n g, lowestUsed (s.offMap.getD d 0) = some f → s.newFrame d s.offMap = some (n, g) →
      ∃ t, exec .frameMove s = .next t ∧ t.remap = movedRemap s.remap d f n g ∧ t.hbm = (s.copyFrame d f n g).hbm) ∧
    (s.offBusy = true → s.gangsNeeding d = [] → lowestUsed (s.offMap.getD d 0) = none →
      exec .frameMove s = .next (s.soon (.ev .offlineDone))) ∧
    ∃ t, exec .offlineDone s = .next t ∧ t.offBusy = false ∧ (d < 10 → t.offline.getLsbD d = true ∧ t.svc.getLsbD d = false) ∧
      t.offStat.extractLsb' 0 4 = if s.offReq.getLsbD 3 then 4 else 2) ∧
  (∀ s : State, ∀ i ∈ [Instr.functionLevelReset, .d3hotEntry], ∃ t, exec i s = .next t ∧ t.ready = false ∧
    (∀ g ∈ s.gangs, .ev (.gangAbort g.id .outside) ∈ t.agenda) ∧ .clear (s.now + 2 ^ 24) ∈ t.agenda ∧ t.hbm = s.hbm) ∧
  (∀ s : State, exec .readyReturn s = .next { s with ready := s.stage == 3 && s.berr == 0 && s.belfryOn }) ∧
  ∀ (s : State) (b : BootInputs),
    (∀ st passed code, b.failStage = some (st, passed, code) → ∃ t, exec (.powerOnReset b) s = .next t ∧
      t.stage = BitVec.ofNat 3 (st % 4) ∧ t.berr = BitVec.ofNat 8 (1 + code % 255) ∧ t.gangs = [] ∧ t.ready = false ∧
      t.msixPend.getLsbD 6 = true) ∧
    (b.failStage = none → ∃ t, exec (.powerOnReset b) s = .next t ∧ t.stage = 3 ∧ t.berr = 0 ∧ t.pkg = b.pkg ∧ t.domain = b.domain ∧
      t.gangs = [] ∧ t.images = [] ∧ t.belfryOn = false ∧ t.ready = false ∧ t.hbm = State.reset.hbm ∧
      (∀ d < 8, ∀ c < 3, (t.ctx d c).run = .absent) ∧
      ((∀ p ∈ b.domain, b.pkg.toNat ≤ p) → ∃ v, .epoch v ∈ t.agenda ∧ .epoch v ∈ t.control) ∧
      (∀ p ∈ b.domain, p < b.pkg.toNat → t.agenda = [] ∧ t.control = s.control))

/-- The host's accesses and the telemetry. R361, R275: a read of BAR2 or BAR4 answers with the bytes at the home of its window,
a write performs there, one access after another and each granule where its elastic burst can take place (R230, R231), else again at a
later count; an unmapped page of BAR4 reads zero and drops writes; an access outside is an Unsupported Request. R362:
REGISTER_WRITE writes the register at its offset, a half keeps the other half. R359, R361,
R363: past BAR0 it writes the size of BAR2, or MSI-X Enable and Function Mask (log 71). R370: TELEMETRY_WINDOW records what was
measured; power above the limit sets OVER, and a die at 115 °C leaves service. -/
def Obligations.HostAccesses : Prop :=
  ∀ s : State,
    let gives := fun (o : HostOut) => (Host.Outcome.next { s with hostOut := s.hostOut ++ [o] } : Res)
    (∀ x, s.hostQ ≠ [] → s.hostAsk x = { s with hostQ := s.hostQ ++ [x] }) ∧
    (∀ o, s.hostQ = [] → s.hostAsk (.say o) = { s with hostOut := s.hostOut ++ [o] }) ∧
    (∀ a n u v, s.hostQ = [] → 0 < n → a % 64 + n ≤ 64 → s.elasticTurn [physHome a] = some u → u.readHome (physHome a) n = .ok v →
      s.hostAsk (.read a n []) = { u with hostOut := u.hostOut ++ [.reply (bytesOfNat n v)] }) ∧
    (∀ a bs u, s.hostQ = [] → bs ≠ [] → a % 64 + bs.length ≤ 64 → reservedPhys (bits 38 36 a) (bits 35 0 a) = false →
      s.elasticTurn [physHome a] = some u → s.hostAsk (.write a bs) = u.writeHome (physHome a) bs) ∧
    (∀ a bs, s.hostQ = [] → bs ≠ [] → a % 64 + bs.length ≤ 64 → reservedPhys (bits 38 36 a) (bits 35 0 a) = true →
      s.hostAsk (.write a bs) = { s with hostOut := s.hostOut ++ [.aer a] }) ∧
    (∀ a n, s.hostQ = [] → 0 < n → s.elasticTurn [physHome a] = none →
      s.hostAsk (.read a n []) = ({ s with hostQ := [.read a n []] } : State).laterOn .hostNext) ∧
    (∀ a n got rest u v, s.hostQ = .read a n got :: rest → 0 < n → s.elasticTurn [physHome a] = some u →
      let k := min n (64 - a % 64)
      u.readHome (physHome a) k = .ok v → s.hostGranule = some { u with hostQ := .read (a + k) (n - k) (got ++ bytesOfNat k v) :: rest }) ∧
    (∀ off size, s.inBar2 off size = false → exec (.hostBar2Read off size) s = .next (s.hostAsk (.say .unsupported))) ∧
    (∀ off size a, s.inBar2 off size = true → s.windowAddr off = some a → (chunksOf a size).all (fun c => hostReadable c.1) = true →
      exec (.hostBar2Read off size) s = .next (s.hostAsk (.read a size []))) ∧
    (∀ off size, s.inBar2 off size = true → s.windowAddr off = none →
      exec (.hostBar2Read off size) s = .next (s.hostAsk (.say (.reply (List.replicate size 0))))) ∧
    (∀ off data a, s.inBar2 off data.length = true → s.windowAddr off = some a →
      exec (.hostBar2Write off data) s = .next (s.hostAsk (.write a data))) ∧
    (∀ off data, s.inBar2 off data.length = false → exec (.hostBar2Write off data) s = .next (s.hostAsk (.say .unsupported))) ∧
    (∀ off size p, off + size ≤ 2 ^ 26 → off % 2 ^ 16 + size ≤ 2 ^ 16 → s.qpages.find? (fun p => p.1 == off / 2 ^ 16) = some p →
      exec (.hostBar4Access off size none) s = .next (s.hostAsk (.read (p.2 + off % 2 ^ 16) size [])) ∧
      ∀ data n, data.length = size → exec (.hostBar4Access off n (some data)) s = .next (s.hostAsk (.write (p.2 + off % 2 ^ 16) data))) ∧
    (∀ off size, off + size ≤ 2 ^ 26 → off % 2 ^ 16 + size ≤ 2 ^ 16 → s.qpages.find? (fun p => p.1 == off / 2 ^ 16) = none →
      exec (.hostBar4Access off size none) s = .next (s.hostAsk (.say (.reply (List.replicate size 0)))) ∧
      ∀ data n, data.length = size → exec (.hostBar4Access off n (some data)) s = .next s) ∧
    (∀ v, exec (.registerWrite resizableBar 4 v) s = .next (if 10 ≤ bits 13 8 v.toNat ∧ bits 13 8 v.toNat ≤ 19
      then { s with bar2size := BitVec.ofNat 4 (bits 13 8 v.toNat - 10) } else s)) ∧
    (∀ v, ∃ t, exec (.registerWrite msixControl 4 v) s = .next t ∧ t.msixOn = v.getLsbD 15 ∧ t.msixAll = v.getLsbD 14 ∧
      t.hbm = s.hbm ∧ t.dies = s.dies ∧ (s.msixPend = 0 → t.hostOut = s.hostOut)) ∧
    (∀ off size v, barOk off size = false → off ≠ resizableBar → off ≠ msixControl → exec (.registerWrite off size v) s = gives .unsupported) ∧
    (∀ n v, n < 8 → exec (.registerWrite (0x2008 + 8 * n) 8 v) s = .next { s with marg := s.marg.setIfInBounds n v }) ∧
    (∀ v, exec (.registerWrite 0x3000 8 v) s = .next { s with psuba := v } ∧
      exec (.registerWrite 0x3008 8 v) s = .next (s.soon (.ev (.proofingSubmit v))) ∧
      exec (.registerWrite 0x4000 8 v) s = .next (s.soon (.ev (.offlineRequest v)))) ∧
    (∀ v, ∃ t, exec (.registerWrite 0x3004 4 v) s = .next t ∧ t.psuba.extractLsb' 0 32 = s.psuba.extractLsb' 0 32 ∧
      t.psuba.extractLsb' 32 32 = v.extractLsb' 0 32) ∧
    ∀ m, ∃ t, exec (.telemetryWindow m) s = .next t ∧ t.mpwr = BitVec.ofNat 16 m.power ∧ t.hbm = s.hbm ∧
      (min s.plim.toNat 2800 < m.power % 2 ^ 16 → t.psts = true) ∧
      ∀ i < 10, (tget t.therm i default).temp = BitVec.ofInt 16 (m.temps.getD i 0) ∧
        (920 ≤ (BitVec.ofInt 16 (m.temps.getD i 0)).toInt → t.svc.getLsbD i = false ∧ t.shutDown.getLsbD i = true)

/-! ### Invariants (01 R27, R29, R30, R50) -/

/-- THE MEMORIES STAY CANONICAL: a step keeps the canonical form of every byte memory and sparse table of the package, so that
equal memories are equal data, from every state that has it: those of the dies and stacks, of the array groups, and what captures
and pre-emptions hold of them. R26, R27: a step keeps AQ and DQ of every context at 32 entries at most; R33: OQ at 64; R32: the
counter of an idle tile at zero; R35: every landing, but one that a replay puts back at its recorded step, within the longest
latency of a slot. -/
def Obligations.MemoriesStayCanonical : Prop :=
  (∀ s t : State, s.memWf = true → step s = .next t → t.memWf = true) ∧
  ∀ s t : State, s.bounded = true → step s = .next t → t.bounded = true

/-- R50: the package after reset: its memories are in canonical form, nothing is sealed, registered or placed, no context
exists, READY is 0, BELFRY does not run, every byte of memory reads as zero (the model's choice, log 2), and q0 and p0 of every
context read as ones (R19, R22). -/
def Obligations.ResetState : Prop :=
  let s := State.reset
  s.memWf = true ∧ s.bounded = true ∧ s.images = [] ∧ s.queues = [] ∧ s.gangs = [] ∧ s.launches = [] ∧ s.copies = [] ∧ s.pendings = [] ∧
  s.ready = false ∧ s.belfryOn = false ∧ s.agenda = [] ∧ (∀ n a, Mem.byte (s.stack n) a = 0) ∧
  ∀ d < 8, ∀ c < 3, (s.ctx d c).run = .absent ∧ (s.ctx d c).arch.qreg 0 = true ∧ ∀ k, (s.ctx d c).arch.preg k 0 = BitVec.allOnes 128
end

