-- ==== Sys2Proof/Laws/Memory.lean ====
section
/-!
SUPPORT. Sparse maps and byte memories: what a read gives after a write, and that every operation keeps the canonical form.
-/

set_option Elab.async false

namespace Sys2Proof.Machine

/-! ### One word -/

theorem SMap.get_of_lt {w : Nat} : ∀ (m : SMap w) (lo a : Nat), SMap.wfFrom lo m = true → a < lo → SMap.get m a = 0
  | [], _, _, _, _ => rfl
  | (k, v) :: m, lo, a, h, ha => by
    simp only [SMap.wfFrom, Bool.and_eq_true, decide_eq_true_eq] at h
    simp only [SMap.get, if_neg (show ¬ a = k by omega), if_pos (show a < k by omega)]

/-- The word at a key after a change is the new one. -/
theorem SMap.get_set_same {w : Nat} : ∀ (m : SMap w) (lo a : Nat) (x : BitVec w), SMap.wfFrom lo m = true →
    SMap.get (SMap.set m a x) a = x
  | [], _, a, x, _ => by
    by_cases hx : x = 0
    · simp only [SMap.set, hx, if_true, SMap.get]
    · simp only [SMap.set, if_neg hx, SMap.get, if_true]
  | (k, v) :: m, lo, a, x, h => by
    simp only [SMap.wfFrom, Bool.and_eq_true, decide_eq_true_eq] at h
    simp only [SMap.set]
    split
    · rename_i hk
      by_cases hx : x = 0
      · simp only [hx, if_true, SMap.get, if_neg (show ¬ a = k by omega), if_pos hk]
      · simp only [if_neg hx, SMap.get, if_true]
    · split
      · rename_i hk
        subst hk
        by_cases hx : x = 0
        · simp only [hx, if_true]
          exact SMap.get_of_lt m _ _ h.2 (Nat.lt_succ_self _)
        · simp only [if_neg hx, SMap.get, if_true]
      · rename_i h1 h2
        simp only [SMap.get, if_neg h2, if_neg h1]
        exact SMap.get_set_same m _ a x h.2

/-- A change leaves every other key alone. -/
theorem SMap.get_set_other {w : Nat} : ∀ (m : SMap w) (lo a b : Nat) (x : BitVec w), SMap.wfFrom lo m = true → b ≠ a →
    SMap.get (SMap.set m a x) b = SMap.get m b
  | [], _, a, b, x, _, hb => by
    by_cases hx : x = 0
    · simp only [SMap.set, hx, if_true, SMap.get]
    · simp only [SMap.set, if_neg hx, SMap.get, if_neg hb, ite_self]
  | (k, v) :: m, lo, a, b, x, h, hb => by
    simp only [SMap.wfFrom, Bool.and_eq_true, decide_eq_true_eq] at h
    simp only [SMap.set]
    split
    · rename_i hk
      by_cases hx : x = 0
      · simp only [hx, if_true]
      · simp only [if_neg hx, SMap.get, if_neg hb]
        by_cases hba : b < a
        · simp only [if_pos hba, if_neg (show ¬ b = k by omega), if_pos (show b < k by omega)]
        · simp only [if_neg hba]
    · split
      · rename_i hk
        subst hk
        by_cases hx : x = 0
        · simp only [hx, if_true, SMap.get, if_neg hb]
          by_cases hba : b < a
          · simp only [if_pos hba]
            exact SMap.get_of_lt m _ _ h.2 (by omega)
          · simp only [if_neg hba]
        · simp only [if_neg hx, SMap.get, if_neg hb]
      · simp only [SMap.get]
        rw [SMap.get_set_other m _ a b x h.2 hb]

/-- A change keeps the canonical form. -/
theorem SMap.set_wfFrom {w : Nat} : ∀ (m : SMap w) (lo a : Nat) (x : BitVec w), SMap.wfFrom lo m = true → lo ≤ a →
    SMap.wfFrom lo (SMap.set m a x) = true
  | [], lo, a, x, _, ha => by
    by_cases hx : x = 0
    · simp only [SMap.set, hx, if_true, SMap.wfFrom]
    · simpa only [SMap.set, if_neg hx, SMap.wfFrom, Bool.and_true, Bool.and_eq_true, decide_eq_true_eq, bne_iff_ne] using ⟨ha, hx⟩
  | (k, v) :: m, lo, a, x, h, ha => by
    have h' := h
    simp only [SMap.wfFrom, Bool.and_eq_true, decide_eq_true_eq, bne_iff_ne, ne_eq] at h'
    obtain ⟨⟨hk, hv⟩, hm⟩ := h'
    simp only [SMap.set]
    split
    · rename_i hak
      by_cases hx : x = 0
      · simpa only [hx, if_true] using h
      · simp only [if_neg hx, SMap.wfFrom, hm, Bool.and_true, Bool.and_eq_true, decide_eq_true_eq, bne_iff_ne]
        exact ⟨⟨ha, hx⟩, by omega, hv⟩
    · split
      · rename_i hak
        subst hak
        by_cases hx : x = 0
        · simp only [hx, if_true]
          exact mono m hm (by omega)
        · simp only [if_neg hx, SMap.wfFrom, hm, Bool.and_true, Bool.and_eq_true, decide_eq_true_eq, bne_iff_ne]
          exact ⟨ha, hx⟩
      · simp only [SMap.wfFrom, Bool.and_eq_true, decide_eq_true_eq, bne_iff_ne, ne_eq]
        exact ⟨⟨hk, hv⟩, SMap.set_wfFrom m _ a x hm (by omega)⟩
where
  /-- A lower bound of the keys may be lowered. -/
  mono {w : Nat} : ∀ (m : SMap w) {lo lo' : Nat}, SMap.wfFrom lo m = true → lo' ≤ lo → SMap.wfFrom lo' m = true
    | [], _, _, _, _ => rfl
    | (k, v) :: m, lo, lo', h, hl => by
      simp only [SMap.wfFrom, Bool.and_eq_true, decide_eq_true_eq] at h ⊢
      exact ⟨⟨by omega, h.1.2⟩, h.2⟩

theorem SMap.set_wf {w : Nat} (m : SMap w) (a : Nat) (x : BitVec w) (h : SMap.wf m = true) : SMap.wf (SMap.set m a x) = true :=
  SMap.set_wfFrom m 0 a x h (Nat.zero_le _)

/-- Canonical tables that read alike are equal. -/
theorem SMap.ext {w : Nat} : ∀ (m n : SMap w) (lo : Nat), SMap.wfFrom lo m = true → SMap.wfFrom lo n = true →
    (∀ a, SMap.get m a = SMap.get n a) → m = n
  | [], [], _, _, _, _ => rfl
  | [], (k, v) :: n, lo, _, hn, h => by
    simp only [SMap.wfFrom, Bool.and_eq_true, bne_iff_ne, ne_eq] at hn
    have := h k
    simp only [SMap.get, if_true] at this
    exact absurd this.symm hn.1.2
  | (k, v) :: m, [], lo, hm, _, h => by
    simp only [SMap.wfFrom, Bool.and_eq_true, bne_iff_ne, ne_eq] at hm
    have := h k
    simp only [SMap.get, if_true] at this
    exact absurd this hm.1.2
  | (k, v) :: m, (j, u) :: n, lo, hm, hn, h => by
    simp only [SMap.wfFrom, Bool.and_eq_true, decide_eq_true_eq, bne_iff_ne, ne_eq] at hm hn
    have hk := h k
    have hj := h j
    simp only [SMap.get, if_true] at hk hj
    have hkj : k = j := by
      rcases Nat.lt_trichotomy k j with hlt | heq | hgt
      · rw [if_neg (by omega), if_pos hlt] at hk; exact absurd hk hm.1.2
      · exact heq
      · rw [if_neg (by omega), if_pos hgt] at hj; exact absurd hj.symm hn.1.2
    subst hkj
    rw [if_pos rfl] at hk
    subst hk
    have : m = n := SMap.ext m n (k + 1) hm.2 hn.2 fun a => by
      have ha := h a
      simp only [SMap.get] at ha
      by_cases h1 : a = k
      · subst h1
        rw [SMap.get_of_lt m _ _ hm.2 (Nat.lt_succ_self _), SMap.get_of_lt n _ _ hn.2 (Nat.lt_succ_self _)]
      · by_cases h2 : a < k
        · rw [SMap.get_of_lt m _ _ hm.2 (by omega), SMap.get_of_lt n _ _ hn.2 (by omega)]
        · simpa [h1, h2] using ha
    rw [this]

/-! ### Bytes -/

theorem Mem.byte_setByte_same (m : Mem) (a : Nat) (b : Byte) (h : Memory.wf m = true) : Mem.byte (Mem.setByte m a b) a = b :=
  SMap.get_set_same (w := 8) m 0 a b h

theorem Mem.byte_setByte_other (m : Mem) (a c : Nat) (b : Byte) (h : Memory.wf m = true) (hc : c ≠ a) :
    Mem.byte (Mem.setByte m a b) c = Mem.byte m c := SMap.get_set_other (w := 8) m 0 a c b h hc

theorem Mem.setByte_wf (m : Mem) (a : Nat) (b : Byte) (h : Memory.wf m = true) : Memory.wf (Mem.setByte m a b) = true :=
  SMap.set_wfFrom (w := 8) m 0 a b h (Nat.zero_le _)

/-- A write of several bytes keeps the canonical form. -/
theorem Mem.write_wf (bs : List (Nat × Byte)) : ∀ (m : Mem), Memory.wf m = true → Memory.wf (Mem.write m bs) = true := by
  induction bs with
  | nil => intro m h; exact h
  | cons p ps ih => intro m h; exact ih _ (Mem.setByte_wf m p.1 p.2 h)

theorem Mem.setNat_wf (m : Mem) (a n x : Nat) (h : Memory.wf m = true) : Memory.wf (Mem.setNat m a n x) = true :=
  Mem.write_wf _ m h

/-- A write of several bytes leaves every address that it does not name alone. -/
theorem Mem.byte_write_other (bs : List (Nat × Byte)) (c : Nat) (hc : ∀ p ∈ bs, p.1 ≠ c) : ∀ (m : Mem), Memory.wf m = true →
    Mem.byte (Mem.write m bs) c = Mem.byte m c := by
  induction bs with
  | nil => intro m _; rfl
  | cons p ps ih =>
    intro m h
    have h1 := ih (fun q hq => hc q (List.mem_cons_of_mem _ hq)) _ (Mem.setByte_wf m p.1 p.2 h)
    have h2 : c ≠ p.1 := fun e => hc p List.mem_cons_self e.symm
    exact h1.trans (Mem.byte_setByte_other m p.1 c p.2 h h2)

theorem placeBytes_ge (bs : List Byte) : ∀ (a : Nat) (p : Nat × Byte), p ∈ placeBytes a bs → a ≤ p.1 ∧ p.1 < a + bs.length := by
  induction bs with
  | nil => intro a p h; cases h
  | cons b bs ih =>
    intro a p h
    simp only [placeBytes, List.mem_cons] at h
    rcases h with rfl | h
    · simp
    · have := ih _ _ h
      simp only [List.length_cons]
      omega

theorem bytesOfNat_length : ∀ (n x : Nat), (bytesOfNat n x).length = n
  | 0, _ => rfl
  | n + 1, x => by simp [bytesOfNat, bytesOfNat_length n]

/-- A number written at an address changes only its own bytes. -/
theorem Mem.byte_setNat_other (m : Mem) (a n x c : Nat) (h : Memory.wf m = true) (hc : c < a ∨ a + n ≤ c) :
    Mem.byte (Mem.setNat m a n x) c = Mem.byte m c := by
  refine Mem.byte_write_other _ c (fun p hp => ?_) m h
  have := placeBytes_ge _ _ p hp
  rw [bytesOfNat_length] at this
  omega

/-- Bytes written at consecutive addresses are read back. -/
theorem Mem.bytes_write (bs : List Byte) : ∀ (m : Mem) (a : Nat), Memory.wf m = true →
    Mem.bytes (Mem.write m (placeBytes a bs)) a bs.length = bs := by
  induction bs with
  | nil => intro m a _; rfl
  | cons b bs ih =>
    intro m a h
    have hw := Mem.setByte_wf m a b h
    have h1 := ih (Mem.setByte m a b) (a + 1) hw
    have h2 : Mem.byte (Mem.write (Mem.setByte m a b) (placeBytes (a + 1) bs)) a = b := by
      rw [Mem.byte_write_other _ a (fun p hp => by have := placeBytes_ge _ _ p hp; omega) _ hw]
      exact Mem.byte_setByte_same m a b h
    have h3 : Mem.write m (placeBytes a (b :: bs)) = Mem.write (Mem.setByte m a b) (placeBytes (a + 1) bs) := rfl
    rw [h3, List.length_cons, Mem.bytes, h2, h1]

theorem natOfBytes_bytesOfNat : ∀ (n x : Nat), natOfBytes (bytesOfNat n x) = x % 256 ^ n
  | 0, x => by simp [bytesOfNat, natOfBytes, Nat.mod_one]
  | n + 1, x => by
    simp only [bytesOfNat, natOfBytes, natOfBytes_bytesOfNat n, BitVec.toNat_ofNat]
    show x % 256 + 256 * (x / 256 % 256 ^ n) = x % 256 ^ (n + 1)
    rw [Nat.pow_add_one, Nat.mul_comm (256 ^ n) 256, Nat.mod_mul]

/-- A number written at an address is read back modulo its size. -/
theorem Mem.nat_setNat (m : Mem) (a n x : Nat) (h : Memory.wf m = true) : Mem.nat (Mem.setNat m a n x) a n = x % 256 ^ n := by
  have := Mem.bytes_write (bytesOfNat n x) m a h
  rw [bytesOfNat_length] at this
  unfold Mem.nat Mem.setNat
  rw [this, natOfBytes_bytesOfNat]

end Sys2Proof.Machine
end

