-- ==== Sys2Proof/Laws/Words.lean ====
section
/-!
SUPPORT. The fields of a slot word read back what the encoder put there, format by format (Tables 2-3 and 2-4).
-/

set_option Elab.async false

namespace Sys2Proof.Laws

/-! ### Parts of concatenations -/

theorem ext_high {v w s l : Nat} (x : BitVec v) (y : BitVec w) (h : w ≤ s) :
    (x ++ y).extractLsb' s l = x.extractLsb' (s - w) l := BitVec.extractLsb'_append_eq_of_le h

theorem ext_low {v w s l : Nat} (x : BitVec v) (y : BitVec w) (h : s + l ≤ w) :
    (x ++ y).extractLsb' s l = y.extractLsb' s l := BitVec.extractLsb'_append_eq_of_add_le h

theorem ext_all {w s : Nat} (x : BitVec w) (h : s = 0) : x.extractLsb' s w = x := by
  subst h; exact BitVec.extractLsb'_eq_self

theorem ext_cast {v w s l : Nat} (x : BitVec v) (h : v = w) : (x.cast h).extractLsb' s l = x.extractLsb' s l := by
  subst h; rfl

/-! ### Codes -/

@[simp] theorem rnd_code (r : Rnd) : Rnd.ofCode r.code = some r := by cases r <;> rfl
@[simp] theorem fmt_code (f : Fmt) : Fmt.ofCode f.code = some f := by cases f <;> rfl
@[simp] theorem ovf_code (o : Ovf) : Ovf.ofCode o.code = o := by cases o <;> rfl
@[simp] theorem scope_code (s : Scope) : Scope.ofCode s.code = s := by cases s <;> rfl
@[simp] theorem flagBit_code (b : Bool) : (flagBit b == 1) = b := by cases b <;> rfl

/-! ### The bits above the operands -/

theorem slotPrefix_eq (op : BitVec 8) (h : Hdr) :
    slotPrefix op h = (op ++ h.g ++ flagBit h.gn ++ flagBit h.ext.isSome).cast rfl := rfl

theorem word_opcode (op : BitVec 8) (h : Hdr) (b : BitVec 50) : fieldAt (slotPrefix op h ++ b) 56 8 = op := by
  simp (disch := decide) only [slotPrefix_eq, ext_cast, ext_high, ext_all]

theorem word_guard (op : BitVec 8) (h : Hdr) (b : BitVec 50) : fieldAt (slotPrefix op h ++ b) 52 4 = h.g := by
  simp (disch := decide) only [slotPrefix_eq, ext_cast, ext_high, ext_low, ext_all]

theorem word_guardNot (op : BitVec 8) (h : Hdr) (b : BitVec 50) : (fieldAt (slotPrefix op h ++ b) 51 1 == 1) = h.gn := by
  simp (disch := decide) only [slotPrefix_eq, ext_cast, ext_high, ext_low, ext_all, flagBit_code]

theorem word_extended (op : BitVec 8) (h : Hdr) (b : BitVec 50) : (fieldAt (slotPrefix op h ++ b) 50 1 == 1) = h.ext.isSome := by
  simp (disch := decide) only [slotPrefix_eq, ext_cast, ext_high, ext_low, ext_all, flagBit_code]

/-! ### The operands of each format -/

theorem rrr_body (o : RRR) : (Operands.rrr o).body =
    (o.d ++ o.x ++ o.y ++ o.z ++ o.fn ++ o.rnd.code ++ (0 : BitVec 17)).cast rfl := rfl

theorem rrr_read (op : BitVec 8) (h : Hdr) (o : RRR) :
    readRRR (slotPrefix op h ++ (Operands.rrr o).body) = ⟨o, []⟩ := by
  simp (disch := decide) only [readRRR, rrr_body, readRnd, rnd_code, ext_cast, ext_high, ext_low, ext_all]
  rfl

theorem ri_body (o : RI) : (Operands.ri o).body =
    (o.d ++ o.x ++ o.fn ++ o.imm).cast rfl := rfl

theorem ri_read (op : BitVec 8) (h : Hdr) (o : RI) :
    readRI (slotPrefix op h ++ (Operands.ri o).body) = ⟨o, []⟩ := by
  simp (disch := decide) only [readRI, ri_body, ext_cast, ext_high, ext_low, ext_all]

theorem branch_body (o : Branch) : (Operands.branch o).body =
    (o.fn ++ o.x ++ o.y ++ o.off).cast rfl := rfl

theorem branch_read (op : BitVec 8) (h : Hdr) (o : Branch) :
    readBranch (slotPrefix op h ++ (Operands.branch o).body) = ⟨o, []⟩ := by
  simp (disch := decide) only [readBranch, branch_body, ext_cast, ext_high, ext_low, ext_all]

theorem sys_body (o : Sys) : (Operands.sys o).body =
    (o.d ++ o.x ++ o.sr ++ o.scope.code ++ o.cls ++ o.imm).cast rfl := rfl

theorem sys_read (op : BitVec 8) (h : Hdr) (o : Sys) :
    readSys (slotPrefix op h ++ (Operands.sys o).body) = ⟨o, []⟩ := by
  simp (disch := decide) only [readSys, sys_body, ext_cast, ext_high, ext_low, ext_all, scope_code]

theorem vrrrr_body (o : VRRRR) : (Operands.vrrrr o).body =
    (o.d ++ o.x ++ o.y ++ o.z ++ o.fmt.code ++ o.ovf.code ++ o.rnd.code ++ flagBit o.ftz ++ o.sub ++ (0 : BitVec 9)).cast rfl := rfl

theorem vrrrr_read (op : BitVec 8) (h : Hdr) (o : VRRRR) :
    readVRRRR (slotPrefix op h ++ (Operands.vrrrr o).body) = ⟨o, []⟩ := by
  simp (disch := decide) only [readVRRRR, vrrrr_body, readFmt, fmt_code, readRnd, rnd_code, ext_cast, ext_high, ext_low, ext_all, ovf_code, flagBit_code]
  rfl

theorem vrri_body (o : VRRI) : (Operands.vrri o).body =
    (o.d ++ o.x ++ o.fmt.code ++ o.ovf.code ++ o.rnd.code ++ flagBit o.ftz ++ o.sub ++ o.imm).cast rfl := rfl

theorem vrri_read (op : BitVec 8) (h : Hdr) (o : VRRI) :
    readVRRI (slotPrefix op h ++ (Operands.vrri o).body) = ⟨o, []⟩ := by
  simp (disch := decide) only [readVRRI, vrri_body, readFmt, fmt_code, readRnd, rnd_code, ext_cast, ext_high, ext_low, ext_all, ovf_code, flagBit_code]
  rfl

theorem net_body (o : Net) : (Operands.net o).body =
    (o.d ++ o.pl ++ o.b ++ o.roff ++ o.sub ++ (0 : BitVec 4)).cast rfl := rfl

theorem net_read (op : BitVec 8) (h : Hdr) (o : Net) :
    readNet (slotPrefix op h ++ (Operands.net o).body) = ⟨o, []⟩ := by
  simp (disch := decide) only [readNet, net_body, ext_cast, ext_high, ext_low, ext_all]
  rfl

theorem idx_body (o : Idx) : (Operands.idx o).body =
    (o.d ++ o.x ++ o.y ++ o.tk ++ o.fmt.code ++ o.sub ++ o.imm).cast rfl := rfl

theorem idx_read (op : BitVec 8) (h : Hdr) (o : Idx) :
    readIdx (slotPrefix op h ++ (Operands.idx o).body) = ⟨o, []⟩ := by
  simp (disch := decide) only [readIdx, idx_body, readFmt, fmt_code, ext_cast, ext_high, ext_low, ext_all]

theorem tile_body (o : Tile) : (Operands.tile o).body =
    (o.td ++ o.tx ++ o.fa.code ++ o.fb.code ++ o.n ++ o.cap ++ o.b ++ o.ks ++ o.js ++ flagBit o.sp ++ (0 : BitVec 8)).cast rfl := rfl

theorem tile_read (op : BitVec 8) (h : Hdr) (o : Tile) :
    readTile (slotPrefix op h ++ (Operands.tile o).body) = ⟨o, []⟩ := by
  simp (disch := decide) only [readTile, tile_body, readFmt, fmt_code, ext_cast, ext_high, ext_low, ext_all, flagBit_code]
  rfl

theorem tileSt_body (o : TileSt) : (Operands.tileSt o).body =
    (o.td ++ o.rg ++ o.nrg ++ o.fd.code ++ o.ovf.code ++ o.rnd.code ++ flagBit o.ftz ++ o.el ++ o.dl ++ o.b ++ (0 : BitVec 18)).cast rfl := rfl

theorem tileSt_read (op : BitVec 8) (h : Hdr) (o : TileSt) :
    readTileSt (slotPrefix op h ++ (Operands.tileSt o).body) = ⟨o, []⟩ := by
  simp (disch := decide) only [readTileSt, tileSt_body, readFmt, fmt_code, readRnd, rnd_code, ext_cast, ext_high, ext_low, ext_all, ovf_code, flagBit_code]
  rfl

theorem scale_body (o : Scale) : (Operands.scale o).body =
    (flagBit o.kj ++ o.kn ++ o.tg ++ o.b ++ o.imm ++ o.n ++ (0 : BitVec 14)).cast rfl := rfl

theorem scale_read (op : BitVec 8) (h : Hdr) (o : Scale) :
    readScale (slotPrefix op h ++ (Operands.scale o).body) = ⟨o, []⟩ := by
  simp (disch := decide) only [readScale, scale_body, ext_cast, ext_high, ext_low, ext_all, flagBit_code]
  rfl

theorem xfer_body (o : Xfer) : (Operands.xfer o).body =
    (o.d ++ o.x ++ o.y ++ o.z ++ o.pr ++ o.scope.code ++ o.sub ++ o.imm).cast rfl := rfl

theorem xfer_read (op : BitVec 8) (h : Hdr) (o : Xfer) :
    readXfer (slotPrefix op h ++ (Operands.xfer o).body) = ⟨o, []⟩ := by
  simp (disch := decide) only [readXfer, xfer_body, ext_cast, ext_high, ext_low, ext_all, scope_code]

end Sys2Proof.Laws
end

