-- ==== Sys2Proof/Laws/PerInstr.lean ====
section
/-!
SUPPORT. For every instruction: in the classes that its opcode is assigned in, the opcode map gives its format and makes
exactly it from its header and operands (03 R74–R86).
-/

set_option Elab.async false

namespace Sys2Proof.Laws

/-- The instruction that an entry of the opcode map makes from operands of its format. -/
def made (e : Entry) (h : Hdr) (o : Operands) : Option Instr :=
  match e, o with
  | .rrr f, .rrr o => some (f h o)
  | .ri f, .ri o => some (f h o)
  | .branch f, .branch o => some (f h o)
  | .sys f, .sys o => some (f h o)
  | .vrrrr f, .vrrrr o => some (f h o)
  | .vrri f, .vrri o => some (f h o)
  | .net f, .net o => some (f h o)
  | .idx f, .idx o => some (f h o)
  | .tile f, .tile o => some (f h o)
  | .tileSt f, .tileSt o => some (f h o)
  | .scale f, .scale o => some (f h o)
  | .xfer f, .xfer o => some (f h o)
  | _, _ => none

/-- What the opcode map gives in class `n` of a die type. -/
def Assigned.At (k : DieKind) (n : Nat) (i : Instr) (h : Hdr) (o : Operands) : Prop :=
  ∃ e, opcodeEntry k n i.opcode.toNat = some e ∧ made e h o = some i

/-- A well-formed slot instruction is the one that the opcode map makes in its class. -/
def Assigned.Statement (i : Instr) : Prop :=
  ∀ (k : DieKind) (hnd : Bool) (h : Hdr) (o : Operands), i.hdr = some h → i.operands = some o → i.WellFormed k hnd →
    Assigned.At k h.cls.toNat i h o

/-- An instruction without operands, an event or an idle bundle, has nothing to say here. -/
theorem assigned_event {i : Instr} (hi : i.hdr = none) : Assigned.Statement i := by
  intro k hnd h o hh; rw [hi] at hh; cases hh

/-- It is enough to look at the classes that the opcode is assigned in. -/
theorem assigned_of {i : Instr} {h : Hdr} {o : Operands} {m : Home} (hh : i.hdr = some h) (ho : i.operands = some o)
    (hm : i.home = some m)
    (key : ∀ k hnd n, n < 16 → m.has k n = true → i.fieldRejects k hnd = [] → Assigned.At k n i h o) : Assigned.Statement i := by
  intro k hnd h' o' hh' ho' hw
  rw [hh] at hh'; rw [ho] at ho'; cases hh'; cases ho'
  obtain ⟨hc, hr⟩ := hw
  refine key k hnd _ h.cls.isLt ?_ hr
  simpa [Instr.classOk, hh, hm] using hc

/-! ### The classes of each assignment (Table 2-2) -/

theorem classes_s01 {k : DieKind} {n : Nat} (h : Home.s01.has k n = true) : k = .v ∧ n = 0 ∨ k = .m ∧ n = 0 ∨ k = .v ∧ n = 1 := by
  cases k <;> simp [Home.has] at h ⊢ <;> omega

theorem classes_s0 {k : DieKind} {n : Nat} (h : Home.s0.has k n = true) : k = .v ∧ n = 0 ∨ k = .m ∧ n = 0 := by
  cases k <;> simp [Home.has] at h ⊢ <;> omega

theorem classes_cl {k : DieKind} {n : Nat} (h : Home.cl.has k n = true) : k = .v ∧ ∃ c : Fin 8, n = c.val + 2 := by
  cases k <;> simp [Home.has] at h
  exact ⟨rfl, ⟨n - 2, by omega⟩, by simp only; omega⟩

theorem classes_rd {k : DieKind} {n : Nat} (h : Home.rd.has k n = true) : k = .v ∧ n = 10 := by
  cases k <;> simp [Home.has] at h ⊢ <;> omega

theorem classes_ix {k : DieKind} {n : Nat} (h : Home.ix.has k n = true) : k = .v ∧ n = 11 := by
  cases k <;> simp [Home.has] at h ⊢ <;> omega

theorem classes_nab {k : DieKind} {n : Nat} (h : Home.nab.has k n = true) : k = .v ∧ n = 12 ∨ k = .v ∧ n = 13 := by
  cases k <;> simp [Home.has] at h ⊢ <;> omega

theorem classes_na {k : DieKind} {n : Nat} (h : Home.na.has k n = true) : k = .v ∧ n = 12 ∨ k = .m ∧ n = 12 := by
  cases k <;> simp [Home.has] at h ⊢ <;> omega

theorem classes_nb {k : DieKind} {n : Nat} (h : Home.nb.has k n = true) : k = .v ∧ n = 13 ∨ k = .m ∧ n = 13 := by
  cases k <;> simp [Home.has] at h ⊢ <;> omega

theorem classes_nbv {k : DieKind} {n : Nat} (h : Home.nbv.has k n = true) : k = .v ∧ n = 13 := by
  cases k <;> simp [Home.has] at h ⊢ <;> omega

theorem classes_nbm {k : DieKind} {n : Nat} (h : Home.nbm.has k n = true) : k = .m ∧ n = 13 := by
  cases k <;> simp [Home.has] at h ⊢ <;> omega

theorem classes_nw {k : DieKind} {n : Nat} (h : Home.nw.has k n = true) : k = .v ∧ n = 14 ∨ k = .m ∧ n = 14 := by
  cases k <;> simp [Home.has] at h ⊢ <;> omega

theorem classes_nwv {k : DieKind} {n : Nat} (h : Home.nwv.has k n = true) : k = .v ∧ n = 14 := by
  cases k <;> simp [Home.has] at h ⊢ <;> omega

theorem classes_t {k : DieKind} {n : Nat} (h : Home.t.has k n = true) : k = .m ∧ n = 2 ∨ k = .m ∧ n = 3 ∨ k = .m ∧ n = 4 ∨ k = .m ∧ n = 5 := by
  cases k <;> simp [Home.has] at h ⊢ <;> omega

theorem classes_sc {k : DieKind} {n : Nat} (h : Home.sc.has k n = true) : k = .m ∧ n = 6 := by
  cases k <;> simp [Home.has] at h ⊢ <;> omega

theorem classes_oq {k : DieKind} {n : Nat} (h : Home.oq.has k n = true) : k = .m ∧ n = 7 := by
  cases k <;> simp [Home.has] at h ⊢ <;> omega

theorem classes_xf {k : DieKind} {n : Nat} (h : Home.xf.has k n = true) : k = .v ∧ n = 15 ∨ k = .m ∧ n = 15 := by
  cases k <;> simp [Home.has] at h ⊢ <;> omega

theorem classes_xfv {k : DieKind} {n : Nat} (h : Home.xfv.has k n = true) : k = .v ∧ n = 15 := by
  cases k <;> simp [Home.has] at h ⊢ <;> omega

/-- The opcodes of every cluster class, and of every array class, are the same. -/
theorem entry_cl {k : DieKind} {n : Nat} (h : Home.cl.has k n = true) : ∀ op, opcodeEntry k n op = opcodeCluster op := by
  intro op
  obtain ⟨hk, ⟨c, hc⟩, hn⟩ := classes_cl h
  subst hk hn
  rcases c with _ | _ | _ | _ | _ | _ | _ | _ | c
  all_goals first | rfl | omega

theorem entry_t {k : DieKind} {n : Nat} (h : Home.t.has k n = true) : ∀ op, opcodeEntry k n op = opcodeT op := by
  intro op
  rcases classes_t h with ⟨rfl, rfl⟩ | ⟨rfl, rfl⟩ | ⟨rfl, rfl⟩ | ⟨rfl, rfl⟩ <;> rfl

/-! ### One lemma for each constructor -/

theorem Assigned.add (h : Hdr) (o : RRR) : Assigned.Statement (.add h o) := by
  refine assigned_of rfl rfl rfl fun k hnd n hn hm hr => ?_
  rcases classes_s01 hm with ⟨rfl, rfl⟩ | ⟨rfl, rfl⟩ | ⟨rfl, rfl⟩ <;> exact ⟨_, rfl, rfl⟩

theorem Assigned.sub (h : Hdr) (o : RRR) : Assigned.Statement (.sub h o) := by
  refine assigned_of rfl rfl rfl fun k hnd n hn hm hr => ?_
  rcases classes_s01 hm with ⟨rfl, rfl⟩ | ⟨rfl, rfl⟩ | ⟨rfl, rfl⟩ <;> exact ⟨_, rfl, rfl⟩

theorem Assigned.addi (h : Hdr) (o : RI) : Assigned.Statement (.addi h o) := by
  refine assigned_of rfl rfl rfl fun k hnd n hn hm hr => ?_
  rcases classes_s01 hm with ⟨rfl, rfl⟩ | ⟨rfl, rfl⟩ | ⟨rfl, rfl⟩ <;> exact ⟨_, rfl, rfl⟩

theorem Assigned.li (h : Hdr) (o : RI) : Assigned.Statement (.li h o) := by
  refine assigned_of rfl rfl rfl fun k hnd n hn hm hr => ?_
  rcases classes_s01 hm with ⟨rfl, rfl⟩ | ⟨rfl, rfl⟩ | ⟨rfl, rfl⟩ <;> exact ⟨_, rfl, rfl⟩

theorem Assigned.lih (h : Hdr) (o : RI) : Assigned.Statement (.lih h o) := by
  refine assigned_of rfl rfl rfl fun k hnd n hn hm hr => ?_
  rcases classes_s01 hm with ⟨rfl, rfl⟩ | ⟨rfl, rfl⟩ | ⟨rfl, rfl⟩ <;> exact ⟨_, rfl, rfl⟩

theorem Assigned.sel (h : Hdr) (o : RRR) : Assigned.Statement (.sel h o) := by
  refine assigned_of rfl rfl rfl fun k hnd n hn hm hr => ?_
  rcases classes_s01 hm with ⟨rfl, rfl⟩ | ⟨rfl, rfl⟩ | ⟨rfl, rfl⟩ <;> exact ⟨_, rfl, rfl⟩

theorem Assigned.min (h : Hdr) (o : RRR) : Assigned.Statement (.min h o) := by
  refine assigned_of rfl rfl rfl fun k hnd n hn hm hr => ?_
  rcases classes_s01 hm with ⟨rfl, rfl⟩ | ⟨rfl, rfl⟩ | ⟨rfl, rfl⟩ <;> exact ⟨_, rfl, rfl⟩

theorem Assigned.max (h : Hdr) (o : RRR) : Assigned.Statement (.max h o) := by
  refine assigned_of rfl rfl rfl fun k hnd n hn hm hr => ?_
  rcases classes_s01 hm with ⟨rfl, rfl⟩ | ⟨rfl, rfl⟩ | ⟨rfl, rfl⟩ <;> exact ⟨_, rfl, rfl⟩

theorem Assigned.minn (h : Hdr) (o : RRR) : Assigned.Statement (.minn h o) := by
  refine assigned_of rfl rfl rfl fun k hnd n hn hm hr => ?_
  rcases classes_s01 hm with ⟨rfl, rfl⟩ | ⟨rfl, rfl⟩ | ⟨rfl, rfl⟩ <;> exact ⟨_, rfl, rfl⟩

theorem Assigned.maxn (h : Hdr) (o : RRR) : Assigned.Statement (.maxn h o) := by
  refine assigned_of rfl rfl rfl fun k hnd n hn hm hr => ?_
  rcases classes_s01 hm with ⟨rfl, rfl⟩ | ⟨rfl, rfl⟩ | ⟨rfl, rfl⟩ <;> exact ⟨_, rfl, rfl⟩

theorem Assigned.cmp (h : Hdr) (o : RRR) : Assigned.Statement (.cmp h o) := by
  refine assigned_of rfl rfl rfl fun k hnd n hn hm hr => ?_
  rcases classes_s01 hm with ⟨rfl, rfl⟩ | ⟨rfl, rfl⟩ | ⟨rfl, rfl⟩ <;> exact ⟨_, rfl, rfl⟩

theorem Assigned.and (h : Hdr) (o : RRR) : Assigned.Statement (.and h o) := by
  refine assigned_of rfl rfl rfl fun k hnd n hn hm hr => ?_
  rcases classes_s01 hm with ⟨rfl, rfl⟩ | ⟨rfl, rfl⟩ | ⟨rfl, rfl⟩ <;> exact ⟨_, rfl, rfl⟩

theorem Assigned.or (h : Hdr) (o : RRR) : Assigned.Statement (.or h o) := by
  refine assigned_of rfl rfl rfl fun k hnd n hn hm hr => ?_
  rcases classes_s01 hm with ⟨rfl, rfl⟩ | ⟨rfl, rfl⟩ | ⟨rfl, rfl⟩ <;> exact ⟨_, rfl, rfl⟩

theorem Assigned.xor (h : Hdr) (o : RRR) : Assigned.Statement (.xor h o) := by
  refine assigned_of rfl rfl rfl fun k hnd n hn hm hr => ?_
  rcases classes_s01 hm with ⟨rfl, rfl⟩ | ⟨rfl, rfl⟩ | ⟨rfl, rfl⟩ <;> exact ⟨_, rfl, rfl⟩

theorem Assigned.andn (h : Hdr) (o : RRR) : Assigned.Statement (.andn h o) := by
  refine assigned_of rfl rfl rfl fun k hnd n hn hm hr => ?_
  rcases classes_s01 hm with ⟨rfl, rfl⟩ | ⟨rfl, rfl⟩ | ⟨rfl, rfl⟩ <;> exact ⟨_, rfl, rfl⟩

theorem Assigned.orn (h : Hdr) (o : RRR) : Assigned.Statement (.orn h o) := by
  refine assigned_of rfl rfl rfl fun k hnd n hn hm hr => ?_
  rcases classes_s01 hm with ⟨rfl, rfl⟩ | ⟨rfl, rfl⟩ | ⟨rfl, rfl⟩ <;> exact ⟨_, rfl, rfl⟩

theorem Assigned.shl (h : Hdr) (o : RRR) : Assigned.Statement (.shl h o) := by
  refine assigned_of rfl rfl rfl fun k hnd n hn hm hr => ?_
  rcases classes_s01 hm with ⟨rfl, rfl⟩ | ⟨rfl, rfl⟩ | ⟨rfl, rfl⟩ <;> exact ⟨_, rfl, rfl⟩

theorem Assigned.shr (h : Hdr) (o : RRR) : Assigned.Statement (.shr h o) := by
  refine assigned_of rfl rfl rfl fun k hnd n hn hm hr => ?_
  rcases classes_s01 hm with ⟨rfl, rfl⟩ | ⟨rfl, rfl⟩ | ⟨rfl, rfl⟩ <;> exact ⟨_, rfl, rfl⟩

theorem Assigned.shra (h : Hdr) (o : RRR) : Assigned.Statement (.shra h o) := by
  refine assigned_of rfl rfl rfl fun k hnd n hn hm hr => ?_
  rcases classes_s01 hm with ⟨rfl, rfl⟩ | ⟨rfl, rfl⟩ | ⟨rfl, rfl⟩ <;> exact ⟨_, rfl, rfl⟩

theorem Assigned.rotl (h : Hdr) (o : RRR) : Assigned.Statement (.rotl h o) := by
  refine assigned_of rfl rfl rfl fun k hnd n hn hm hr => ?_
  rcases classes_s01 hm with ⟨rfl, rfl⟩ | ⟨rfl, rfl⟩ | ⟨rfl, rfl⟩ <;> exact ⟨_, rfl, rfl⟩

theorem Assigned.clz (h : Hdr) (o : RRR) : Assigned.Statement (.clz h o) := by
  refine assigned_of rfl rfl rfl fun k hnd n hn hm hr => ?_
  rcases classes_s01 hm with ⟨rfl, rfl⟩ | ⟨rfl, rfl⟩ | ⟨rfl, rfl⟩ <;> exact ⟨_, rfl, rfl⟩

theorem Assigned.popc (h : Hdr) (o : RRR) : Assigned.Statement (.popc h o) := by
  refine assigned_of rfl rfl rfl fun k hnd n hn hm hr => ?_
  rcases classes_s01 hm with ⟨rfl, rfl⟩ | ⟨rfl, rfl⟩ | ⟨rfl, rfl⟩ <;> exact ⟨_, rfl, rfl⟩

theorem Assigned.bfx (h : Hdr) (o : RI) : Assigned.Statement (.bfx h o) := by
  refine assigned_of rfl rfl rfl fun k hnd n hn hm hr => ?_
  rcases classes_s01 hm with ⟨rfl, rfl⟩ | ⟨rfl, rfl⟩ | ⟨rfl, rfl⟩ <;> exact ⟨_, rfl, rfl⟩

theorem Assigned.bfi (h : Hdr) (o : RI) : Assigned.Statement (.bfi h o) := by
  refine assigned_of rfl rfl rfl fun k hnd n hn hm hr => ?_
  rcases classes_s01 hm with ⟨rfl, rfl⟩ | ⟨rfl, rfl⟩ | ⟨rfl, rfl⟩ <;> exact ⟨_, rfl, rfl⟩

theorem Assigned.mul (h : Hdr) (o : RRR) : Assigned.Statement (.mul h o) := by
  refine assigned_of rfl rfl rfl fun k hnd n hn hm hr => ?_
  rcases classes_s01 hm with ⟨rfl, rfl⟩ | ⟨rfl, rfl⟩ | ⟨rfl, rfl⟩ <;> exact ⟨_, rfl, rfl⟩

theorem Assigned.mulh (h : Hdr) (o : RRR) : Assigned.Statement (.mulh h o) := by
  refine assigned_of rfl rfl rfl fun k hnd n hn hm hr => ?_
  rcases classes_s01 hm with ⟨rfl, rfl⟩ | ⟨rfl, rfl⟩ | ⟨rfl, rfl⟩ <;> exact ⟨_, rfl, rfl⟩

theorem Assigned.mulhn (h : Hdr) (o : RRR) : Assigned.Statement (.mulhn h o) := by
  refine assigned_of rfl rfl rfl fun k hnd n hn hm hr => ?_
  rcases classes_s01 hm with ⟨rfl, rfl⟩ | ⟨rfl, rfl⟩ | ⟨rfl, rfl⟩ <;> exact ⟨_, rfl, rfl⟩

theorem Assigned.madd (h : Hdr) (o : RRR) : Assigned.Statement (.madd h o) := by
  refine assigned_of rfl rfl rfl fun k hnd n hn hm hr => ?_
  rcases classes_s01 hm with ⟨rfl, rfl⟩ | ⟨rfl, rfl⟩ | ⟨rfl, rfl⟩ <;> exact ⟨_, rfl, rfl⟩

theorem Assigned.divs (h : Hdr) (o : RRR) : Assigned.Statement (.divs h o) := by
  refine assigned_of rfl rfl rfl fun k hnd n hn hm hr => ?_
  rcases classes_s01 hm with ⟨rfl, rfl⟩ | ⟨rfl, rfl⟩ | ⟨rfl, rfl⟩ <;> exact ⟨_, rfl, rfl⟩

theorem Assigned.divn (h : Hdr) (o : RRR) : Assigned.Statement (.divn h o) := by
  refine assigned_of rfl rfl rfl fun k hnd n hn hm hr => ?_
  rcases classes_s01 hm with ⟨rfl, rfl⟩ | ⟨rfl, rfl⟩ | ⟨rfl, rfl⟩ <;> exact ⟨_, rfl, rfl⟩

theorem Assigned.rems (h : Hdr) (o : RRR) : Assigned.Statement (.rems h o) := by
  refine assigned_of rfl rfl rfl fun k hnd n hn hm hr => ?_
  rcases classes_s01 hm with ⟨rfl, rfl⟩ | ⟨rfl, rfl⟩ | ⟨rfl, rfl⟩ <;> exact ⟨_, rfl, rfl⟩

theorem Assigned.remn (h : Hdr) (o : RRR) : Assigned.Statement (.remn h o) := by
  refine assigned_of rfl rfl rfl fun k hnd n hn hm hr => ?_
  rcases classes_s01 hm with ⟨rfl, rfl⟩ | ⟨rfl, rfl⟩ | ⟨rfl, rfl⟩ <;> exact ⟨_, rfl, rfl⟩

theorem Assigned.fadd (h : Hdr) (o : RRR) : Assigned.Statement (.fadd h o) := by
  refine assigned_of rfl rfl rfl fun k hnd n hn hm hr => ?_
  rcases classes_s01 hm with ⟨rfl, rfl⟩ | ⟨rfl, rfl⟩ | ⟨rfl, rfl⟩ <;> exact ⟨_, rfl, rfl⟩

theorem Assigned.fmul (h : Hdr) (o : RRR) : Assigned.Statement (.fmul h o) := by
  refine assigned_of rfl rfl rfl fun k hnd n hn hm hr => ?_
  rcases classes_s01 hm with ⟨rfl, rfl⟩ | ⟨rfl, rfl⟩ | ⟨rfl, rfl⟩ <;> exact ⟨_, rfl, rfl⟩

theorem Assigned.fma (h : Hdr) (o : RRR) : Assigned.Statement (.fma h o) := by
  refine assigned_of rfl rfl rfl fun k hnd n hn hm hr => ?_
  rcases classes_s01 hm with ⟨rfl, rfl⟩ | ⟨rfl, rfl⟩ | ⟨rfl, rfl⟩ <;> exact ⟨_, rfl, rfl⟩

theorem Assigned.fdiv (h : Hdr) (o : RRR) : Assigned.Statement (.fdiv h o) := by
  refine assigned_of rfl rfl rfl fun k hnd n hn hm hr => ?_
  rcases classes_s01 hm with ⟨rfl, rfl⟩ | ⟨rfl, rfl⟩ | ⟨rfl, rfl⟩ <;> exact ⟨_, rfl, rfl⟩

theorem Assigned.fcvt (h : Hdr) (o : RRR) : Assigned.Statement (.fcvt h o) := by
  refine assigned_of rfl rfl rfl fun k hnd n hn hm hr => ?_
  rcases classes_s01 hm with ⟨rfl, rfl⟩ | ⟨rfl, rfl⟩ | ⟨rfl, rfl⟩ <;> exact ⟨_, rfl, rfl⟩

theorem Assigned.fcmp (h : Hdr) (o : RRR) : Assigned.Statement (.fcmp h o) := by
  refine assigned_of rfl rfl rfl fun k hnd n hn hm hr => ?_
  rcases classes_s01 hm with ⟨rfl, rfl⟩ | ⟨rfl, rfl⟩ | ⟨rfl, rfl⟩ <;> exact ⟨_, rfl, rfl⟩

theorem Assigned.lds (h : Hdr) (o : RI) : Assigned.Statement (.lds h o) := by
  refine assigned_of rfl rfl rfl fun k hnd n hn hm hr => ?_
  rcases classes_s01 hm with ⟨rfl, rfl⟩ | ⟨rfl, rfl⟩ | ⟨rfl, rfl⟩ <;> exact ⟨_, rfl, rfl⟩

theorem Assigned.sts (h : Hdr) (o : RI) : Assigned.Statement (.sts h o) := by
  refine assigned_of rfl rfl rfl fun k hnd n hn hm hr => ?_
  rcases classes_s01 hm with ⟨rfl, rfl⟩ | ⟨rfl, rfl⟩ | ⟨rfl, rfl⟩ <;> exact ⟨_, rfl, rfl⟩

theorem Assigned.ldh (h : Hdr) (o : RI) : Assigned.Statement (.ldh h o) := by
  refine assigned_of rfl rfl rfl fun k hnd n hn hm hr => ?_
  rcases classes_s01 hm with ⟨rfl, rfl⟩ | ⟨rfl, rfl⟩ | ⟨rfl, rfl⟩ <;> exact ⟨_, rfl, rfl⟩

theorem Assigned.sth (h : Hdr) (o : RI) : Assigned.Statement (.sth h o) := by
  refine assigned_of rfl rfl rfl fun k hnd n hn hm hr => ?_
  rcases classes_s01 hm with ⟨rfl, rfl⟩ | ⟨rfl, rfl⟩ | ⟨rfl, rfl⟩ <;> exact ⟨_, rfl, rfl⟩

theorem Assigned.aadd (h : Hdr) (o : RRR) : Assigned.Statement (.aadd h o) := by
  refine assigned_of rfl rfl rfl fun k hnd n hn hm hr => ?_
  rcases classes_s01 hm with ⟨rfl, rfl⟩ | ⟨rfl, rfl⟩ | ⟨rfl, rfl⟩ <;> exact ⟨_, rfl, rfl⟩

theorem Assigned.ainc (h : Hdr) (o : RRR) : Assigned.Statement (.ainc h o) := by
  refine assigned_of rfl rfl rfl fun k hnd n hn hm hr => ?_
  rcases classes_s01 hm with ⟨rfl, rfl⟩ | ⟨rfl, rfl⟩ | ⟨rfl, rfl⟩ <;> exact ⟨_, rfl, rfl⟩

theorem Assigned.acas (h : Hdr) (o : RRR) : Assigned.Statement (.acas h o) := by
  refine assigned_of rfl rfl rfl fun k hnd n hn hm hr => ?_
  rcases classes_s01 hm with ⟨rfl, rfl⟩ | ⟨rfl, rfl⟩ | ⟨rfl, rfl⟩ <;> exact ⟨_, rfl, rfl⟩

theorem Assigned.axchg (h : Hdr) (o : RRR) : Assigned.Statement (.axchg h o) := by
  refine assigned_of rfl rfl rfl fun k hnd n hn hm hr => ?_
  rcases classes_s01 hm with ⟨rfl, rfl⟩ | ⟨rfl, rfl⟩ | ⟨rfl, rfl⟩ <;> exact ⟨_, rfl, rfl⟩

theorem Assigned.br (h : Hdr) (o : Branch) : Assigned.Statement (.br h o) := by
  refine assigned_of rfl rfl rfl fun k hnd n hn hm hr => ?_
  rcases classes_s0 hm with ⟨rfl, rfl⟩ | ⟨rfl, rfl⟩ <;> exact ⟨_, rfl, rfl⟩

theorem Assigned.brc (h : Hdr) (o : Branch) : Assigned.Statement (.brc h o) := by
  refine assigned_of rfl rfl rfl fun k hnd n hn hm hr => ?_
  rcases classes_s0 hm with ⟨rfl, rfl⟩ | ⟨rfl, rfl⟩ <;> exact ⟨_, rfl, rfl⟩

theorem Assigned.call (h : Hdr) (o : Branch) : Assigned.Statement (.call h o) := by
  refine assigned_of rfl rfl rfl fun k hnd n hn hm hr => ?_
  rcases classes_s0 hm with ⟨rfl, rfl⟩ | ⟨rfl, rfl⟩ <;> exact ⟨_, rfl, rfl⟩

theorem Assigned.ret (h : Hdr) (o : Branch) : Assigned.Statement (.ret h o) := by
  refine assigned_of rfl rfl rfl fun k hnd n hn hm hr => ?_
  rcases classes_s0 hm with ⟨rfl, rfl⟩ | ⟨rfl, rfl⟩ <;> exact ⟨_, rfl, rfl⟩

theorem Assigned.jmpi (h : Hdr) (o : Branch) : Assigned.Statement (.jmpi h o) := by
  refine assigned_of rfl rfl rfl fun k hnd n hn hm hr => ?_
  rcases classes_s0 hm with ⟨rfl, rfl⟩ | ⟨rfl, rfl⟩ <;> exact ⟨_, rfl, rfl⟩

theorem Assigned.loop (h : Hdr) (o : Branch) : Assigned.Statement (.loop h o) := by
  refine assigned_of rfl rfl rfl fun k hnd n hn hm hr => ?_
  rcases classes_s0 hm with ⟨rfl, rfl⟩ | ⟨rfl, rfl⟩ <;> exact ⟨_, rfl, rfl⟩

theorem Assigned.waitt (h : Hdr) (o : Sys) : Assigned.Statement (.waitt h o) := by
  refine assigned_of rfl rfl rfl fun k hnd n hn hm hr => ?_
  rcases classes_s0 hm with ⟨rfl, rfl⟩ | ⟨rfl, rfl⟩ <;> exact ⟨_, rfl, rfl⟩

theorem Assigned.waitb (h : Hdr) (o : Sys) : Assigned.Statement (.waitb h o) := by
  refine assigned_of rfl rfl rfl fun k hnd n hn hm hr => ?_
  rcases classes_s0 hm with ⟨rfl, rfl⟩ | ⟨rfl, rfl⟩ <;> exact ⟨_, rfl, rfl⟩

theorem Assigned.exit (h : Hdr) (o : Sys) : Assigned.Statement (.exit h o) := by
  refine assigned_of rfl rfl rfl fun k hnd n hn hm hr => ?_
  rcases classes_s0 hm with ⟨rfl, rfl⟩ | ⟨rfl, rfl⟩ <;> exact ⟨_, rfl, rfl⟩

theorem Assigned.exits (h : Hdr) (o : Sys) : Assigned.Statement (.exits h o) := by
  refine assigned_of rfl rfl rfl fun k hnd n hn hm hr => ?_
  rcases classes_s0 hm with ⟨rfl, rfl⟩ | ⟨rfl, rfl⟩ <;> exact ⟨_, rfl, rfl⟩

theorem Assigned.trap (h : Hdr) (o : Sys) : Assigned.Statement (.trap h o) := by
  refine assigned_of rfl rfl rfl fun k hnd n hn hm hr => ?_
  rcases classes_s0 hm with ⟨rfl, rfl⟩ | ⟨rfl, rfl⟩ <;> exact ⟨_, rfl, rfl⟩

theorem Assigned.rett (h : Hdr) (o : Sys) : Assigned.Statement (.rett h o) := by
  refine assigned_of rfl rfl rfl fun k hnd n hn hm hr => ?_
  rcases classes_s0 hm with ⟨rfl, rfl⟩ | ⟨rfl, rfl⟩ <;> exact ⟨_, rfl, rfl⟩

theorem Assigned.rdsr (h : Hdr) (o : Sys) : Assigned.Statement (.rdsr h o) := by
  refine assigned_of rfl rfl rfl fun k hnd n hn hm hr => ?_
  rcases classes_s0 hm with ⟨rfl, rfl⟩ | ⟨rfl, rfl⟩ <;> exact ⟨_, rfl, rfl⟩

theorem Assigned.wrsr (h : Hdr) (o : Sys) : Assigned.Statement (.wrsr h o) := by
  refine assigned_of rfl rfl rfl fun k hnd n hn hm hr => ?_
  rcases classes_s0 hm with ⟨rfl, rfl⟩ | ⟨rfl, rfl⟩ <;> exact ⟨_, rfl, rfl⟩

theorem Assigned.fence (h : Hdr) (o : Sys) : Assigned.Statement (.fence h o) := by
  refine assigned_of rfl rfl rfl fun k hnd n hn hm hr => ?_
  rcases classes_s0 hm with ⟨rfl, rfl⟩ | ⟨rfl, rfl⟩ <;> exact ⟨_, rfl, rfl⟩

theorem Assigned.drain (h : Hdr) (o : Sys) : Assigned.Statement (.drain h o) := by
  refine assigned_of rfl rfl rfl fun k hnd n hn hm hr => ?_
  rcases classes_s0 hm with ⟨rfl, rfl⟩ | ⟨rfl, rfl⟩ <;> exact ⟨_, rfl, rfl⟩

theorem Assigned.guardEnter (h : Hdr) (o : Sys) : Assigned.Statement (.guardEnter h o) := by
  refine assigned_of rfl rfl rfl fun k hnd n hn hm hr => ?_
  change o.rejects h { imm := 2 } ++ rejectIf (!bit 0 o.imm.toNat) .reservedValue = [] at hr
  simp only [Sys.rejects, rejectIf, List.append_eq_nil_iff, ite_eq_right_iff, reduceCtorEq, imp_false] at hr
  rcases classes_s0 hm with ⟨rfl, rfl⟩ | ⟨rfl, rfl⟩ <;> (refine ⟨_, rfl, ?_⟩; simp_all [made])

theorem Assigned.guardLeave (h : Hdr) (o : Sys) : Assigned.Statement (.guardLeave h o) := by
  refine assigned_of rfl rfl rfl fun k hnd n hn hm hr => ?_
  change o.rejects h { imm := 2 } ++ rejectIf (bit 0 o.imm.toNat) .reservedValue = [] at hr
  simp only [Sys.rejects, rejectIf, List.append_eq_nil_iff, ite_eq_right_iff, reduceCtorEq, imp_false] at hr
  rcases classes_s0 hm with ⟨rfl, rfl⟩ | ⟨rfl, rfl⟩ <;> (refine ⟨_, rfl, ?_⟩; simp_all [made])

theorem Assigned.idleBundle (n : BitVec 5) (ck vj : Bool) : Assigned.Statement (.idleBundle n ck vj) := assigned_event rfl

theorem Assigned.vadd (h : Hdr) (o : VRRRR) : Assigned.Statement (.vadd h o) := by
  refine assigned_of rfl rfl rfl fun k hnd n hn hm hr => ?_
  exact ⟨_, entry_cl hm _, rfl⟩

theorem Assigned.vsub (h : Hdr) (o : VRRRR) : Assigned.Statement (.vsub h o) := by
  refine assigned_of rfl rfl rfl fun k hnd n hn hm hr => ?_
  exact ⟨_, entry_cl hm _, rfl⟩

theorem Assigned.vmul (h : Hdr) (o : VRRRR) : Assigned.Statement (.vmul h o) := by
  refine assigned_of rfl rfl rfl fun k hnd n hn hm hr => ?_
  exact ⟨_, entry_cl hm _, rfl⟩

theorem Assigned.vmulh (h : Hdr) (o : VRRRR) : Assigned.Statement (.vmulh h o) := by
  refine assigned_of rfl rfl rfl fun k hnd n hn hm hr => ?_
  exact ⟨_, entry_cl hm _, rfl⟩

theorem Assigned.vfma (h : Hdr) (o : VRRRR) : Assigned.Statement (.vfma h o) := by
  refine assigned_of rfl rfl rfl fun k hnd n hn hm hr => ?_
  exact ⟨_, entry_cl hm _, rfl⟩

theorem Assigned.vfms (h : Hdr) (o : VRRRR) : Assigned.Statement (.vfms h o) := by
  refine assigned_of rfl rfl rfl fun k hnd n hn hm hr => ?_
  exact ⟨_, entry_cl hm _, rfl⟩

theorem Assigned.vmin (h : Hdr) (o : VRRRR) : Assigned.Statement (.vmin h o) := by
  refine assigned_of rfl rfl rfl fun k hnd n hn hm hr => ?_
  exact ⟨_, entry_cl hm _, rfl⟩

theorem Assigned.vmax (h : Hdr) (o : VRRRR) : Assigned.Statement (.vmax h o) := by
  refine assigned_of rfl rfl rfl fun k hnd n hn hm hr => ?_
  exact ⟨_, entry_cl hm _, rfl⟩

theorem Assigned.vabs (h : Hdr) (o : VRRRR) : Assigned.Statement (.vabs h o) := by
  refine assigned_of rfl rfl rfl fun k hnd n hn hm hr => ?_
  exact ⟨_, entry_cl hm _, rfl⟩

theorem Assigned.vneg (h : Hdr) (o : VRRRR) : Assigned.Statement (.vneg h o) := by
  refine assigned_of rfl rfl rfl fun k hnd n hn hm hr => ?_
  exact ⟨_, entry_cl hm _, rfl⟩

theorem Assigned.vmulw (h : Hdr) (o : VRRRR) : Assigned.Statement (.vmulw h o) := by
  refine assigned_of rfl rfl rfl fun k hnd n hn hm hr => ?_
  exact ⟨_, entry_cl hm _, rfl⟩

theorem Assigned.vand (h : Hdr) (o : VRRRR) : Assigned.Statement (.vand h o) := by
  refine assigned_of rfl rfl rfl fun k hnd n hn hm hr => ?_
  exact ⟨_, entry_cl hm _, rfl⟩

theorem Assigned.vor (h : Hdr) (o : VRRRR) : Assigned.Statement (.vor h o) := by
  refine assigned_of rfl rfl rfl fun k hnd n hn hm hr => ?_
  exact ⟨_, entry_cl hm _, rfl⟩

theorem Assigned.vxor (h : Hdr) (o : VRRRR) : Assigned.Statement (.vxor h o) := by
  refine assigned_of rfl rfl rfl fun k hnd n hn hm hr => ?_
  exact ⟨_, entry_cl hm _, rfl⟩

theorem Assigned.vandn (h : Hdr) (o : VRRRR) : Assigned.Statement (.vandn h o) := by
  refine assigned_of rfl rfl rfl fun k hnd n hn hm hr => ?_
  exact ⟨_, entry_cl hm _, rfl⟩

theorem Assigned.vshl (h : Hdr) (o : VRRRR) : Assigned.Statement (.vshl h o) := by
  refine assigned_of rfl rfl rfl fun k hnd n hn hm hr => ?_
  exact ⟨_, entry_cl hm _, rfl⟩

theorem Assigned.vshr (h : Hdr) (o : VRRRR) : Assigned.Statement (.vshr h o) := by
  refine assigned_of rfl rfl rfl fun k hnd n hn hm hr => ?_
  exact ⟨_, entry_cl hm _, rfl⟩

theorem Assigned.vshra (h : Hdr) (o : VRRRR) : Assigned.Statement (.vshra h o) := by
  refine assigned_of rfl rfl rfl fun k hnd n hn hm hr => ?_
  exact ⟨_, entry_cl hm _, rfl⟩

theorem Assigned.vaddi (h : Hdr) (o : VRRI) : Assigned.Statement (.vaddi h o) := by
  refine assigned_of rfl rfl rfl fun k hnd n hn hm hr => ?_
  exact ⟨_, entry_cl hm _, rfl⟩

theorem Assigned.vmovi (h : Hdr) (o : VRRI) : Assigned.Statement (.vmovi h o) := by
  refine assigned_of rfl rfl rfl fun k hnd n hn hm hr => ?_
  exact ⟨_, entry_cl hm _, rfl⟩

theorem Assigned.vclz (h : Hdr) (o : VRRRR) : Assigned.Statement (.vclz h o) := by
  refine assigned_of rfl rfl rfl fun k hnd n hn hm hr => ?_
  exact ⟨_, entry_cl hm _, rfl⟩

theorem Assigned.vpopc (h : Hdr) (o : VRRRR) : Assigned.Statement (.vpopc h o) := by
  refine assigned_of rfl rfl rfl fun k hnd n hn hm hr => ?_
  exact ⟨_, entry_cl hm _, rfl⟩

theorem Assigned.vcmp (h : Hdr) (o : VRRRR) : Assigned.Statement (.vcmp h o) := by
  refine assigned_of rfl rfl rfl fun k hnd n hn hm hr => ?_
  exact ⟨_, entry_cl hm _, rfl⟩

theorem Assigned.vcmpi (h : Hdr) (o : VRRI) : Assigned.Statement (.vcmpi h o) := by
  refine assigned_of rfl rfl rfl fun k hnd n hn hm hr => ?_
  exact ⟨_, entry_cl hm _, rfl⟩

theorem Assigned.vcswp (h : Hdr) (o : VRRRR) : Assigned.Statement (.vcswp h o) := by
  refine assigned_of rfl rfl rfl fun k hnd n hn hm hr => ?_
  exact ⟨_, entry_cl hm _, rfl⟩

theorem Assigned.vsel (h : Hdr) (o : VRRRR) : Assigned.Statement (.vsel h o) := by
  refine assigned_of rfl rfl rfl fun k hnd n hn hm hr => ?_
  exact ⟨_, entry_cl hm _, rfl⟩

theorem Assigned.vbcs (h : Hdr) (o : VRRRR) : Assigned.Statement (.vbcs h o) := by
  refine assigned_of rfl rfl rfl fun k hnd n hn hm hr => ?_
  exact ⟨_, entry_cl hm _, rfl⟩

theorem Assigned.vidx (h : Hdr) (o : VRRI) : Assigned.Statement (.vidx h o) := by
  refine assigned_of rfl rfl rfl fun k hnd n hn hm hr => ?_
  exact ⟨_, entry_cl hm _, rfl⟩

theorem Assigned.vshuf (h : Hdr) (o : VRRRR) : Assigned.Statement (.vshuf h o) := by
  refine assigned_of rfl rfl rfl fun k hnd n hn hm hr => ?_
  exact ⟨_, entry_cl hm _, rfl⟩

theorem Assigned.vxcp (h : Hdr) (o : VRRI) : Assigned.Statement (.vxcp h o) := by
  refine assigned_of rfl rfl rfl fun k hnd n hn hm hr => ?_
  exact ⟨_, entry_cl hm _, rfl⟩

theorem Assigned.vcvt (h : Hdr) (o : VRRRR) : Assigned.Statement (.vcvt h o) := by
  refine assigned_of rfl rfl rfl fun k hnd n hn hm hr => ?_
  exact ⟨_, entry_cl hm _, rfl⟩

theorem Assigned.vrndi (h : Hdr) (o : VRRRR) : Assigned.Statement (.vrndi h o) := by
  refine assigned_of rfl rfl rfl fun k hnd n hn hm hr => ?_
  exact ⟨_, entry_cl hm _, rfl⟩

theorem Assigned.vsf (h : Hdr) (o : VRRRR) : Assigned.Statement (.vsf h o) := by
  refine assigned_of rfl rfl rfl fun k hnd n hn hm hr => ?_
  exact ⟨_, entry_cl hm _, rfl⟩

theorem Assigned.vqblk (h : Hdr) (o : VRRI) : Assigned.Statement (.vqblk h o) := by
  refine assigned_of rfl rfl rfl fun k hnd n hn hm hr => ?_
  exact ⟨_, entry_cl hm _, rfl⟩

theorem Assigned.vdq (h : Hdr) (o : VRRRR) : Assigned.Statement (.vdq h o) := by
  refine assigned_of rfl rfl rfl fun k hnd n hn hm hr => ?_
  exact ⟨_, entry_cl hm _, rfl⟩

theorem Assigned.pand (h : Hdr) (o : VRRRR) : Assigned.Statement (.pand h o) := by
  refine assigned_of rfl rfl rfl fun k hnd n hn hm hr => ?_
  exact ⟨_, entry_cl hm _, rfl⟩

theorem Assigned.por (h : Hdr) (o : VRRRR) : Assigned.Statement (.por h o) := by
  refine assigned_of rfl rfl rfl fun k hnd n hn hm hr => ?_
  exact ⟨_, entry_cl hm _, rfl⟩

theorem Assigned.pxor (h : Hdr) (o : VRRRR) : Assigned.Statement (.pxor h o) := by
  refine assigned_of rfl rfl rfl fun k hnd n hn hm hr => ?_
  exact ⟨_, entry_cl hm _, rfl⟩

theorem Assigned.pnot (h : Hdr) (o : VRRRR) : Assigned.Statement (.pnot h o) := by
  refine assigned_of rfl rfl rfl fun k hnd n hn hm hr => ?_
  exact ⟨_, entry_cl hm _, rfl⟩

theorem Assigned.pmov (h : Hdr) (o : VRRRR) : Assigned.Statement (.pmov h o) := by
  refine assigned_of rfl rfl rfl fun k hnd n hn hm hr => ?_
  exact ⟨_, entry_cl hm _, rfl⟩

theorem Assigned.pfirst (h : Hdr) (o : VRRRR) : Assigned.Statement (.pfirst h o) := by
  refine assigned_of rfl rfl rfl fun k hnd n hn hm hr => ?_
  exact ⟨_, entry_cl hm _, rfl⟩

theorem Assigned.pcnt (h : Hdr) (o : VRRRR) : Assigned.Statement (.pcnt h o) := by
  refine assigned_of rfl rfl rfl fun k hnd n hn hm hr => ?_
  exact ⟨_, entry_cl hm _, rfl⟩

theorem Assigned.pset (h : Hdr) (o : VRRI) : Assigned.Statement (.pset h o) := by
  refine assigned_of rfl rfl rfl fun k hnd n hn hm hr => ?_
  exact ⟨_, entry_cl hm _, rfl⟩

theorem Assigned.racc (h : Hdr) (o : VRRRR) : Assigned.Statement (.racc h o) := by
  refine assigned_of rfl rfl rfl fun k hnd n hn hm hr => ?_
  rcases classes_rd hm with ⟨rfl, rfl⟩ <;> exact ⟨_, rfl, rfl⟩

theorem Assigned.rsum (h : Hdr) (o : VRRRR) : Assigned.Statement (.rsum h o) := by
  refine assigned_of rfl rfl rfl fun k hnd n hn hm hr => ?_
  rcases classes_rd hm with ⟨rfl, rfl⟩ <;> exact ⟨_, rfl, rfl⟩

theorem Assigned.rmax (h : Hdr) (o : VRRRR) : Assigned.Statement (.rmax h o) := by
  refine assigned_of rfl rfl rfl fun k hnd n hn hm hr => ?_
  rcases classes_rd hm with ⟨rfl, rfl⟩ <;> exact ⟨_, rfl, rfl⟩

theorem Assigned.rmin (h : Hdr) (o : VRRRR) : Assigned.Statement (.rmin h o) := by
  refine assigned_of rfl rfl rfl fun k hnd n hn hm hr => ?_
  rcases classes_rd hm with ⟨rfl, rfl⟩ <;> exact ⟨_, rfl, rfl⟩

theorem Assigned.rargmax (h : Hdr) (o : VRRRR) : Assigned.Statement (.rargmax h o) := by
  refine assigned_of rfl rfl rfl fun k hnd n hn hm hr => ?_
  rcases classes_rd hm with ⟨rfl, rfl⟩ <;> exact ⟨_, rfl, rfl⟩

theorem Assigned.rscan (h : Hdr) (o : VRRRR) : Assigned.Statement (.rscan h o) := by
  refine assigned_of rfl rfl rfl fun k hnd n hn hm hr => ?_
  rcases classes_rd hm with ⟨rfl, rfl⟩ <;> exact ⟨_, rfl, rfl⟩

theorem Assigned.rseg (h : Hdr) (o : VRRRR) : Assigned.Statement (.rseg h o) := by
  refine assigned_of rfl rfl rfl fun k hnd n hn hm hr => ?_
  rcases classes_rd hm with ⟨rfl, rfl⟩ <;> exact ⟨_, rfl, rfl⟩

theorem Assigned.rdrn (h : Hdr) (o : VRRRR) : Assigned.Statement (.rdrn h o) := by
  refine assigned_of rfl rfl rfl fun k hnd n hn hm hr => ?_
  rcases classes_rd hm with ⟨rfl, rfl⟩ <;> exact ⟨_, rfl, rfl⟩

theorem Assigned.rclr (h : Hdr) (o : VRRRR) : Assigned.Statement (.rclr h o) := by
  refine assigned_of rfl rfl rfl fun k hnd n hn hm hr => ?_
  rcases classes_rd hm with ⟨rfl, rfl⟩ <;> exact ⟨_, rfl, rfl⟩

theorem Assigned.rcmb (h : Hdr) (o : VRRRR) : Assigned.Statement (.rcmb h o) := by
  refine assigned_of rfl rfl rfl fun k hnd n hn hm hr => ?_
  rcases classes_rd hm with ⟨rfl, rfl⟩ <;> exact ⟨_, rfl, rfl⟩

theorem Assigned.ixpush (h : Hdr) (o : Idx) : Assigned.Statement (.ixpush h o) := by
  refine assigned_of rfl rfl rfl fun k hnd n hn hm hr => ?_
  rcases classes_ix hm with ⟨rfl, rfl⟩ <;> exact ⟨_, rfl, rfl⟩

theorem Assigned.ixpop (h : Hdr) (o : Idx) : Assigned.Statement (.ixpop h o) := by
  refine assigned_of rfl rfl rfl fun k hnd n hn hm hr => ?_
  rcases classes_ix hm with ⟨rfl, rfl⟩ <;> exact ⟨_, rfl, rfl⟩

theorem Assigned.ixcnt (h : Hdr) (o : Idx) : Assigned.Statement (.ixcnt h o) := by
  refine assigned_of rfl rfl rfl fun k hnd n hn hm hr => ?_
  rcases classes_ix hm with ⟨rfl, rfl⟩ <;> exact ⟨_, rfl, rfl⟩

theorem Assigned.ixclr (h : Hdr) (o : Idx) : Assigned.Statement (.ixclr h o) := by
  refine assigned_of rfl rfl rfl fun k hnd n hn hm hr => ?_
  rcases classes_ix hm with ⟨rfl, rfl⟩ <;> exact ⟨_, rfl, rfl⟩

theorem Assigned.tlook (h : Hdr) (o : Idx) : Assigned.Statement (.tlook h o) := by
  refine assigned_of rfl rfl rfl fun k hnd n hn hm hr => ?_
  change o.rejects h Fmt.isZero .full .full .unused false false 3 (o.sub.toNat % 4 == 3) (!o.fmt.isZero || o.sub == 2) = [] at hr
  simp only [Idx.rejects, rejectIf, List.append_eq_nil_iff, ite_eq_right_iff, reduceCtorEq, imp_false] at hr
  rcases classes_ix hm with ⟨rfl, rfl⟩ <;> (refine ⟨_, rfl, ?_⟩; simp_all [made])

theorem Assigned.tlookRead (h : Hdr) (o : Idx) : Assigned.Statement (.tlookRead h o) := by
  refine assigned_of rfl rfl rfl fun k hnd n hn hm hr => ?_
  change o.rejects h Fmt.isZero .full .full .unused false false 3 (o.sub != 2) (!o.fmt.isZero) = [] at hr
  simp only [Idx.rejects, rejectIf, List.append_eq_nil_iff, ite_eq_right_iff, reduceCtorEq, imp_false] at hr
  rcases classes_ix hm with ⟨rfl, rfl⟩ <;> (refine ⟨_, rfl, ?_⟩; simp_all [made])

theorem Assigned.tset (h : Hdr) (o : Idx) : Assigned.Statement (.tset h o) := by
  refine assigned_of rfl rfl rfl fun k hnd n hn hm hr => ?_
  rcases classes_ix hm with ⟨rfl, rfl⟩ <;> exact ⟨_, rfl, rfl⟩

theorem Assigned.tclr (h : Hdr) (o : Idx) : Assigned.Statement (.tclr h o) := by
  refine assigned_of rfl rfl rfl fun k hnd n hn hm hr => ?_
  change o.rejects h Fmt.isZero .full .unused .unused false true 0 false (!o.fmt.isZero || o.value h != 0) = [] at hr
  simp only [Idx.rejects, rejectIf, List.append_eq_nil_iff, ite_eq_right_iff, reduceCtorEq, imp_false] at hr
  rcases classes_ix hm with ⟨rfl, rfl⟩ <;> (refine ⟨_, rfl, ?_⟩; simp_all [made])

theorem Assigned.tclrAll (h : Hdr) (o : Idx) : Assigned.Statement (.tclrAll h o) := by
  refine assigned_of rfl rfl rfl fun k hnd n hn hm hr => ?_
  change o.rejects h Fmt.isZero .unused .unused .unused false true 0 false (!o.fmt.isZero || o.value h != 1) = [] at hr
  simp only [Idx.rejects, rejectIf, List.append_eq_nil_iff, ite_eq_right_iff, reduceCtorEq, imp_false] at hr
  rcases classes_ix hm with ⟨rfl, rfl⟩ <;> (refine ⟨_, rfl, ?_⟩; simp_all [made])

theorem Assigned.scat (h : Hdr) (o : Idx) : Assigned.Statement (.scat h o) := by
  refine assigned_of rfl rfl rfl fun k hnd n hn hm hr => ?_
  rcases classes_ix hm with ⟨rfl, rfl⟩ <;> exact ⟨_, rfl, rfl⟩

theorem Assigned.sacfgSet (h : Hdr) (o : Idx) : Assigned.Statement (.sacfgSet h o) := by
  refine assigned_of rfl rfl rfl fun k hnd n hn hm hr => ?_
  change o.rejects h Fmt.isZero .full .full .unused false true 3 (7 < o.value h || o.sub != 0) (!o.fmt.isZero) = [] at hr
  simp only [Idx.rejects, rejectIf, List.append_eq_nil_iff, ite_eq_right_iff, reduceCtorEq, imp_false] at hr
  rcases classes_ix hm with ⟨rfl, rfl⟩ <;> (refine ⟨_, rfl, ?_⟩; simp_all [made])

theorem Assigned.sacfgStat (h : Hdr) (o : Idx) : Assigned.Statement (.sacfgStat h o) := by
  refine assigned_of rfl rfl rfl fun k hnd n hn hm hr => ?_
  change o.rejects h Fmt.isZero .full .unused .unused false true 3 (7 < o.value h || o.sub != 1) (!o.fmt.isZero) = [] at hr
  simp only [Idx.rejects, rejectIf, List.append_eq_nil_iff, ite_eq_right_iff, reduceCtorEq, imp_false] at hr
  rcases classes_ix hm with ⟨rfl, rfl⟩ <;> (refine ⟨_, rfl, ?_⟩; simp_all [made])

theorem Assigned.sacfgClr (h : Hdr) (o : Idx) : Assigned.Statement (.sacfgClr h o) := by
  refine assigned_of rfl rfl rfl fun k hnd n hn hm hr => ?_
  change o.rejects h Fmt.isZero .unused .unused .unused false true 3 (7 < o.value h || o.sub.toNat % 4 < 2 || o.sub.toNat % 4 == 3) (!o.fmt.isZero) = [] at hr
  simp only [Idx.rejects, rejectIf, List.append_eq_nil_iff, ite_eq_right_iff, reduceCtorEq, imp_false] at hr
  rcases classes_ix hm with ⟨rfl, rfl⟩
  have h0 : o.sub ≠ 0#6 := fun h => by simp [h] at hr
  have h1 : o.sub ≠ 1#6 := fun h => by simp [h] at hr
  exact ⟨_, rfl, by simp [made, h0, h1]⟩

theorem Assigned.nrd (h : Hdr) (o : Net) : Assigned.Statement (.nrd h o) := by
  refine assigned_of rfl rfl rfl fun k hnd n hn hm hr => ?_
  rcases classes_nab hm with ⟨rfl, rfl⟩ | ⟨rfl, rfl⟩ <;> exact ⟨_, rfl, rfl⟩

theorem Assigned.nrdl (h : Hdr) (o : Net) : Assigned.Statement (.nrdl h o) := by
  refine assigned_of rfl rfl rfl fun k hnd n hn hm hr => ?_
  rcases classes_nab hm with ⟨rfl, rfl⟩ | ⟨rfl, rfl⟩ <;> exact ⟨_, rfl, rfl⟩

theorem Assigned.nwr (h : Hdr) (o : Net) : Assigned.Statement (.nwr h o) := by
  refine assigned_of rfl rfl rfl fun k hnd n hn hm hr => ?_
  rcases classes_nw hm with ⟨rfl, rfl⟩ | ⟨rfl, rfl⟩
  · exact ⟨_, rfl, rfl⟩
  · change Net.rejects h o true true 2 true false = [] at hr
    simp [Net.rejects, rejectIf] at hr

theorem Assigned.nwrTile (h : Hdr) (o : Net) : Assigned.Statement (.nwrTile h o) := by
  refine assigned_of rfl rfl rfl fun k hnd n hn hm hr => ?_
  rcases classes_nw hm with ⟨rfl, rfl⟩ | ⟨rfl, rfl⟩
  · change Net.rejects h o false true 2 true false = [] at hr
    simp [Net.rejects, rejectIf] at hr
  · exact ⟨_, rfl, rfl⟩

theorem Assigned.nwrl (h : Hdr) (o : Net) : Assigned.Statement (.nwrl h o) := by
  refine assigned_of rfl rfl rfl fun k hnd n hn hm hr => ?_
  rcases classes_nwv hm with ⟨rfl, rfl⟩ <;> exact ⟨_, rfl, rfl⟩

theorem Assigned.ncopy (h : Hdr) (o : Net) : Assigned.Statement (.ncopy h o) := by
  refine assigned_of rfl rfl rfl fun k hnd n hn hm hr => ?_
  rcases classes_na hm with ⟨rfl, rfl⟩ | ⟨rfl, rfl⟩ <;> exact ⟨_, rfl, rfl⟩

theorem Assigned.nfill (h : Hdr) (o : Net) : Assigned.Statement (.nfill h o) := by
  refine assigned_of rfl rfl rfl fun k hnd n hn hm hr => ?_
  rcases classes_nw hm with ⟨rfl, rfl⟩ | ⟨rfl, rfl⟩ <;> exact ⟨_, rfl, rfl⟩

theorem Assigned.nsend (h : Hdr) (o : Net) : Assigned.Statement (.nsend h o) := by
  refine assigned_of rfl rfl rfl fun k hnd n hn hm hr => ?_
  rcases classes_na hm with ⟨rfl, rfl⟩ | ⟨rfl, rfl⟩ <;> exact ⟨_, rfl, rfl⟩

theorem Assigned.nrecv (h : Hdr) (o : Net) : Assigned.Statement (.nrecv h o) := by
  refine assigned_of rfl rfl rfl fun k hnd n hn hm hr => ?_
  rcases classes_nw hm with ⟨rfl, rfl⟩ | ⟨rfl, rfl⟩ <;> exact ⟨_, rfl, rfl⟩

theorem Assigned.npass (h : Hdr) (o : Net) : Assigned.Statement (.npass h o) := by
  refine assigned_of rfl rfl rfl fun k hnd n hn hm hr => ?_
  rcases classes_nb hm with ⟨rfl, rfl⟩ | ⟨rfl, rfl⟩ <;> exact ⟨_, rfl, rfl⟩

theorem Assigned.trace (h : Hdr) (o : Net) : Assigned.Statement (.trace h o) := by
  refine assigned_of rfl rfl rfl fun k hnd n hn hm hr => ?_
  rcases classes_nbv hm with ⟨rfl, rfl⟩ <;> exact ⟨_, rfl, rfl⟩

theorem Assigned.mwb (h : Hdr) (o : Net) : Assigned.Statement (.mwb h o) := by
  refine assigned_of rfl rfl rfl fun k hnd n hn hm hr => ?_
  rcases classes_nbm hm with ⟨rfl, rfl⟩ <;> exact ⟨_, rfl, rfl⟩

theorem Assigned.mldw (h : Hdr) (o : Tile) : Assigned.Statement (.mldw h o) := by
  refine assigned_of rfl rfl rfl fun k hnd n hn hm hr => ?_
  exact ⟨_, entry_t hm _, rfl⟩

theorem Assigned.mma (h : Hdr) (o : Tile) : Assigned.Statement (.mma h o) := by
  refine assigned_of rfl rfl rfl fun k hnd n hn hm hr => ?_
  change o.rejects h (o.mmaPair) { td := true, tx := true, n := true, cap := true, b := true, ks := true, js := true, sp := true, row := true } (o.mmaBad || o.fa == .f64) (o.js != 0) = [] at hr
  simp only [Tile.rejects, rejectIf, List.append_eq_nil_iff, ite_eq_right_iff, reduceCtorEq, imp_false] at hr
  refine ⟨_, entry_t hm _, ?_⟩; simp_all [made]

theorem Assigned.mmaz (h : Hdr) (o : Tile) : Assigned.Statement (.mmaz h o) := by
  refine assigned_of rfl rfl rfl fun k hnd n hn hm hr => ?_
  exact ⟨_, entry_t hm _, rfl⟩

theorem Assigned.mmaF64 (h : Hdr) (o : Tile) : Assigned.Statement (.mmaF64 h o) := by
  refine assigned_of rfl rfl rfl fun k hnd n hn hm hr => ?_
  change o.rejects h (o.fa == .f64 && o.fb == .f64) { td := true, tx := true, n := true, cap := true, b := true, ks := true, js := true, sp := true, row := true } (o.mmaBad) false = [] at hr
  simp only [Tile.rejects, rejectIf, List.append_eq_nil_iff, ite_eq_right_iff, reduceCtorEq, imp_false] at hr
  refine ⟨_, entry_t hm _, ?_⟩; simp_all [made]

theorem Assigned.mclr (h : Hdr) (o : Tile) : Assigned.Statement (.mclr h o) := by
  refine assigned_of rfl rfl rfl fun k hnd n hn hm hr => ?_
  exact ⟨_, entry_t hm _, rfl⟩

theorem Assigned.mcopy (h : Hdr) (o : Tile) : Assigned.Statement (.mcopy h o) := by
  refine assigned_of rfl rfl rfl fun k hnd n hn hm hr => ?_
  exact ⟨_, entry_t hm _, rfl⟩

theorem Assigned.mfree (h : Hdr) (o : Tile) : Assigned.Statement (.mfree h o) := by
  refine assigned_of rfl rfl rfl fun k hnd n hn hm hr => ?_
  change o.rejects h (o.fmtsZero) { td := true, n := true } (o.n != 0) (!o.fmtsZero) = [] at hr
  simp only [Tile.rejects, rejectIf, List.append_eq_nil_iff, ite_eq_right_iff, reduceCtorEq, imp_false] at hr
  refine ⟨_, entry_t hm _, ?_⟩; simp_all [made]

theorem Assigned.mfreeLatch (h : Hdr) (o : Tile) : Assigned.Statement (.mfreeLatch h o) := by
  refine assigned_of rfl rfl rfl fun k hnd n hn hm hr => ?_
  change o.rejects h (o.fmtsZero) { tx := true, n := true } (o.n != 1 || 4 ≤ o.tx.toNat) (!o.fmtsZero) = [] at hr
  simp only [Tile.rejects, rejectIf, List.append_eq_nil_iff, ite_eq_right_iff, reduceCtorEq, imp_false] at hr
  refine ⟨_, entry_t hm _, ?_⟩; simp_all [made]

theorem Assigned.mst (h : Hdr) (o : TileSt) : Assigned.Statement (.mst h o) := by
  refine assigned_of rfl rfl rfl fun k hnd n hn hm hr => ?_
  exact ⟨_, entry_t hm _, rfl⟩

theorem Assigned.mqst (h : Hdr) (o : TileSt) : Assigned.Statement (.mqst h o) := by
  refine assigned_of rfl rfl rfl fun k hnd n hn hm hr => ?_
  exact ⟨_, entry_t hm _, rfl⟩

theorem Assigned.mstat (h : Hdr) (o : Tile) : Assigned.Statement (.mstat h o) := by
  refine assigned_of rfl rfl rfl fun k hnd n hn hm hr => ?_
  exact ⟨_, entry_t hm _, rfl⟩

theorem Assigned.msel (h : Hdr) (o : Tile) : Assigned.Statement (.msel h o) := by
  refine assigned_of rfl rfl rfl fun k hnd n hn hm hr => ?_
  exact ⟨_, entry_t hm _, rfl⟩

theorem Assigned.mscld (h : Hdr) (o : Scale) : Assigned.Statement (.mscld h o) := by
  refine assigned_of rfl rfl rfl fun k hnd n hn hm hr => ?_
  rcases classes_sc hm with ⟨rfl, rfl⟩ <;> exact ⟨_, rfl, rfl⟩

theorem Assigned.oqpop (h : Hdr) (o : Xfer) : Assigned.Statement (.oqpop h o) := by
  refine assigned_of rfl rfl rfl fun k hnd n hn hm hr => ?_
  rcases classes_oq hm with ⟨rfl, rfl⟩ <;> exact ⟨_, rfl, rfl⟩

theorem Assigned.tdmaIn (h : Hdr) (o : Xfer) : Assigned.Statement (.tdmaIn h o) := by
  refine assigned_of rfl rfl rfl fun k hnd n hn hm hr => ?_
  change o.rejects h { d := true, x := true, y := true, pr := true, sub := 1 } (bit 0 o.sub.toNat) false = [] at hr
  simp only [Xfer.rejects, rejectIf, List.append_eq_nil_iff, ite_eq_right_iff, reduceCtorEq, imp_false] at hr
  rcases classes_xf hm with ⟨rfl, rfl⟩ | ⟨rfl, rfl⟩ <;> (refine ⟨_, rfl, ?_⟩; simp_all [made])

theorem Assigned.tdmaOut (h : Hdr) (o : Xfer) : Assigned.Statement (.tdmaOut h o) := by
  refine assigned_of rfl rfl rfl fun k hnd n hn hm hr => ?_
  change o.rejects h { d := true, x := true, y := true, pr := true, sub := 1 } (!bit 0 o.sub.toNat) false = [] at hr
  simp only [Xfer.rejects, rejectIf, List.append_eq_nil_iff, ite_eq_right_iff, reduceCtorEq, imp_false] at hr
  rcases classes_xf hm with ⟨rfl, rfl⟩ | ⟨rfl, rfl⟩ <;> (refine ⟨_, rfl, ?_⟩; simp_all [made])

theorem Assigned.rld (h : Hdr) (o : Xfer) : Assigned.Statement (.rld h o) := by
  refine assigned_of rfl rfl rfl fun k hnd n hn hm hr => ?_
  rcases classes_xf hm with ⟨rfl, rfl⟩ | ⟨rfl, rfl⟩ <;> exact ⟨_, rfl, rfl⟩

theorem Assigned.rst (h : Hdr) (o : Xfer) : Assigned.Statement (.rst h o) := by
  refine assigned_of rfl rfl rfl fun k hnd n hn hm hr => ?_
  rcases classes_xf hm with ⟨rfl, rfl⟩ | ⟨rfl, rfl⟩ <;> exact ⟨_, rfl, rfl⟩

theorem Assigned.send (h : Hdr) (o : Xfer) : Assigned.Statement (.send h o) := by
  refine assigned_of rfl rfl rfl fun k hnd n hn hm hr => ?_
  rcases classes_xf hm with ⟨rfl, rfl⟩ | ⟨rfl, rfl⟩ <;> exact ⟨_, rfl, rfl⟩

theorem Assigned.recv (h : Hdr) (o : Xfer) : Assigned.Statement (.recv h o) := by
  refine assigned_of rfl rfl rfl fun k hnd n hn hm hr => ?_
  rcases classes_xf hm with ⟨rfl, rfl⟩ | ⟨rfl, rfl⟩ <;> exact ⟨_, rfl, rfl⟩

theorem Assigned.xpose (h : Hdr) (o : Xfer) : Assigned.Statement (.xpose h o) := by
  refine assigned_of rfl rfl rfl fun k hnd n hn hm hr => ?_
  rcases classes_xf hm with ⟨rfl, rfl⟩ | ⟨rfl, rfl⟩ <;> exact ⟨_, rfl, rfl⟩

theorem Assigned.xred (h : Hdr) (o : Xfer) : Assigned.Statement (.xred h o) := by
  refine assigned_of rfl rfl rfl fun k hnd n hn hm hr => ?_
  rcases classes_xf hm with ⟨rfl, rfl⟩ | ⟨rfl, rfl⟩ <;> exact ⟨_, rfl, rfl⟩

theorem Assigned.cqpost (h : Hdr) (o : Xfer) : Assigned.Statement (.cqpost h o) := by
  refine assigned_of rfl rfl rfl fun k hnd n hn hm hr => ?_
  rcases classes_xf hm with ⟨rfl, rfl⟩ | ⟨rfl, rfl⟩ <;> exact ⟨_, rfl, rfl⟩

theorem Assigned.barinit (h : Hdr) (o : Xfer) : Assigned.Statement (.barinit h o) := by
  refine assigned_of rfl rfl rfl fun k hnd n hn hm hr => ?_
  rcases classes_xf hm with ⟨rfl, rfl⟩ | ⟨rfl, rfl⟩ <;> exact ⟨_, rfl, rfl⟩

theorem Assigned.bararr (h : Hdr) (o : Xfer) : Assigned.Statement (.bararr h o) := by
  refine assigned_of rfl rfl rfl fun k hnd n hn hm hr => ?_
  rcases classes_xf hm with ⟨rfl, rfl⟩ | ⟨rfl, rfl⟩ <;> exact ⟨_, rfl, rfl⟩

theorem Assigned.oqpush (h : Hdr) (o : Xfer) : Assigned.Statement (.oqpush h o) := by
  refine assigned_of rfl rfl rfl fun k hnd n hn hm hr => ?_
  rcases classes_xfv hm with ⟨rfl, rfl⟩ <;> exact ⟨_, rfl, rfl⟩

theorem Assigned.lpark (h : Hdr) (o : Xfer) : Assigned.Statement (.lpark h o) := by
  refine assigned_of rfl rfl rfl fun k hnd n hn hm hr => ?_
  rcases classes_xf hm with ⟨rfl, rfl⟩ | ⟨rfl, rfl⟩ <;> exact ⟨_, rfl, rfl⟩

theorem Assigned.lwake (h : Hdr) (o : Xfer) : Assigned.Statement (.lwake h o) := by
  refine assigned_of rfl rfl rfl fun k hnd n hn hm hr => ?_
  rcases classes_xf hm with ⟨rfl, rfl⟩ | ⟨rfl, rfl⟩ <;> exact ⟨_, rfl, rfl⟩

theorem Assigned.ttsel (h : Hdr) (o : Xfer) : Assigned.Statement (.ttsel h o) := by
  refine assigned_of rfl rfl rfl fun k hnd n hn hm hr => ?_
  rcases classes_xf hm with ⟨rfl, rfl⟩ | ⟨rfl, rfl⟩ <;> exact ⟨_, rfl, rfl⟩

theorem Assigned.resync (h : Hdr) (o : Xfer) : Assigned.Statement (.resync h o) := by
  refine assigned_of rfl rfl rfl fun k hnd n hn hm hr => ?_
  rcases classes_xf hm with ⟨rfl, rfl⟩ | ⟨rfl, rfl⟩ <;> exact ⟨_, rfl, rfl⟩

theorem Assigned.sequencerCycle (d : Nat) : Assigned.Statement (.sequencerCycle d) := assigned_event rfl

theorem Assigned.insertedIdleStep (d c : Nat) : Assigned.Statement (.insertedIdleStep d c) := assigned_event rfl

theorem Assigned.resultLanding (d c : Nat) : Assigned.Statement (.resultLanding d c) := assigned_event rfl

theorem Assigned.promisedValueLanding (d c id : Nat) : Assigned.Statement (.promisedValueLanding d c id) := assigned_event rfl

theorem Assigned.holdRelease (d c : Nat) : Assigned.Statement (.holdRelease d c) := assigned_event rfl

theorem Assigned.holdOverrun (d c : Nat) : Assigned.Statement (.holdOverrun d c) := assigned_event rfl

theorem Assigned.regionOverrun (d c : Nat) : Assigned.Statement (.regionOverrun d c) := assigned_event rfl

theorem Assigned.tileOperationComplete (d g t : Nat) : Assigned.Statement (.tileOperationComplete d g t) := assigned_event rfl

theorem Assigned.oqEntryPoppable (d c id : Nat) : Assigned.Statement (.oqEntryPoppable d c id) := assigned_event rfl

theorem Assigned.aqEntryIssue (d c : Nat) : Assigned.Statement (.aqEntryIssue d c) := assigned_event rfl

theorem Assigned.ixElementReturn (d c id g : Nat) : Assigned.Statement (.ixElementReturn d c id g) := assigned_event rfl

theorem Assigned.scatterWindowPerform (d c r : Nat) : Assigned.Statement (.scatterWindowPerform d c r) := assigned_event rfl

theorem Assigned.translationWalk (d asid va : Nat) : Assigned.Statement (.translationWalk d asid va) := assigned_event rfl

theorem Assigned.tdmaGranuleLand (d c id k : Nat) : Assigned.Statement (.tdmaGranuleLand d c id k) := assigned_event rfl

theorem Assigned.rldGranuleLand (d c id k : Nat) : Assigned.Statement (.rldGranuleLand d c id k) := assigned_event rfl

theorem Assigned.deferredWritePerform (id : Nat) : Assigned.Statement (.deferredWritePerform id) := assigned_event rfl

theorem Assigned.atomicPerform (d c id : Nat) : Assigned.Statement (.atomicPerform d c id) := assigned_event rfl

theorem Assigned.atomicValueReturn (d c id : Nat) : Assigned.Statement (.atomicValueReturn d c id) := assigned_event rfl

theorem Assigned.barrierArrivalUpdate (id : Nat) : Assigned.Statement (.barrierArrivalUpdate id) := assigned_event rfl

theorem Assigned.nsendFrameArrival (d id : Nat) : Assigned.Statement (.nsendFrameArrival d id) := assigned_event rfl

theorem Assigned.frameNotTaken (d id : Nat) : Assigned.Statement (.frameNotTaken d id) := assigned_event rfl

theorem Assigned.timedFrameArrival (f : Frame) : Assigned.Statement (.timedFrameArrival f) := assigned_event rfl

theorem Assigned.recvGranuleLand (d c id k : Nat) : Assigned.Statement (.recvGranuleLand d c id k) := assigned_event rfl

theorem Assigned.exchangeFrameArrival (f : Frame) : Assigned.Statement (.exchangeFrameArrival f) := assigned_event rfl

theorem Assigned.collectiveGranuleLand (d c id k : Nat) : Assigned.Statement (.collectiveGranuleLand d c id k) := assigned_event rfl

theorem Assigned.collectiveComplete (d c id : Nat) : Assigned.Statement (.collectiveComplete d c id) := assigned_event rfl

theorem Assigned.copyPacketStart (q : Nat) : Assigned.Statement (.copyPacketStart q) := assigned_event rfl

theorem Assigned.copyComplete (q : Nat) : Assigned.Statement (.copyComplete q) := assigned_event rfl

theorem Assigned.resourceClaim (l : Nat) : Assigned.Statement (.resourceClaim l) := assigned_event rfl

theorem Assigned.gangStart (g : Nat) : Assigned.Statement (.gangStart g) := assigned_event rfl

theorem Assigned.groupPowerUpBegin (d g : Nat) : Assigned.Statement (.groupPowerUpBegin d g) := assigned_event rfl

theorem Assigned.groupPowered (d g : Nat) : Assigned.Statement (.groupPowered d g) := assigned_event rfl

theorem Assigned.groupPowerDown (d g : Nat) : Assigned.Statement (.groupPowerDown d g) := assigned_event rfl

theorem Assigned.checkpointCommit (g : Nat) : Assigned.Statement (.checkpointCommit g) := assigned_event rfl

theorem Assigned.preemptSave (g : Nat) : Assigned.Statement (.preemptSave g) := assigned_event rfl

theorem Assigned.rollbackResume (g : Nat) : Assigned.Statement (.rollbackResume g) := assigned_event rfl

theorem Assigned.handlerStart (d c : Nat) : Assigned.Statement (.handlerStart d c) := assigned_event rfl

theorem Assigned.rerunCheckpoint (g : Nat) : Assigned.Statement (.rerunCheckpoint g) := assigned_event rfl

theorem Assigned.gangAbort (g : Nat) (why : AbortCause) : Assigned.Statement (.gangAbort g why) := assigned_event rfl

theorem Assigned.gangEnd (g : Nat) : Assigned.Statement (.gangEnd g) := assigned_event rfl

theorem Assigned.taskComplete (l status cause : Nat) : Assigned.Statement (.taskComplete l status cause) := assigned_event rfl

theorem Assigned.successorStart (g : Nat) : Assigned.Statement (.successorStart g) := assigned_event rfl

theorem Assigned.resyncRelease (g : Nat) : Assigned.Statement (.resyncRelease g) := assigned_event rfl

theorem Assigned.failoverResume (ident : Nat) : Assigned.Statement (.failoverResume ident) := assigned_event rfl

theorem Assigned.lanternRequestAct (id : Nat) : Assigned.Statement (.lanternRequestAct id) := assigned_event rfl

theorem Assigned.armedWake (ident : Nat) : Assigned.Statement (.armedWake ident) := assigned_event rfl

theorem Assigned.groupLocked (ident : Nat) (mask : BitVec 64) : Assigned.Statement (.groupLocked ident mask) := assigned_event rfl

theorem Assigned.timetableWake (ident : Nat) (mask : BitVec 64) : Assigned.Statement (.timetableWake ident mask) := assigned_event rfl

theorem Assigned.timetablePark (ident : Nat) (mask : BitVec 64) : Assigned.Statement (.timetablePark ident mask) := assigned_event rfl

theorem Assigned.phaseSwitch (g : Nat) : Assigned.Statement (.phaseSwitch g) := assigned_event rfl

theorem Assigned.elasticRead (f : Frame) : Assigned.Statement (.elasticRead f) := assigned_event rfl

theorem Assigned.elasticWrite (f : Frame) : Assigned.Statement (.elasticWrite f) := assigned_event rfl

theorem Assigned.elasticAtomic (f : Frame) : Assigned.Statement (.elasticAtomic f) := assigned_event rfl

theorem Assigned.readReply (f : Frame) : Assigned.Statement (.readReply f) := assigned_event rfl

theorem Assigned.rowRequest (f : Frame) : Assigned.Statement (.rowRequest f) := assigned_event rfl

theorem Assigned.rowReply (f : Frame) : Assigned.Statement (.rowReply f) := assigned_event rfl

theorem Assigned.statusFrame (f : Frame) : Assigned.Statement (.statusFrame f) := assigned_event rfl

theorem Assigned.elasticForward (f : Frame) : Assigned.Statement (.elasticForward f) := assigned_event rfl

theorem Assigned.pathLostTimeout (id : Nat) : Assigned.Statement (.pathLostTimeout id) := assigned_event rfl

theorem Assigned.invalidationComplete (asid base len : Nat) : Assigned.Statement (.invalidationComplete asid base len) := assigned_event rfl

theorem Assigned.pinRemoval (d e : Nat) : Assigned.Statement (.pinRemoval d e) := assigned_event rfl

theorem Assigned.baseTimetableInstall (ident : Nat) : Assigned.Statement (.baseTimetableInstall ident) := assigned_event rfl

theorem Assigned.proofingSubmit (v : Word) : Assigned.Statement (.proofingSubmit v) := assigned_event rfl

theorem Assigned.offlineRequest (v : Word) : Assigned.Statement (.offlineRequest v) := assigned_event rfl

theorem Assigned.copyGranulePerform (q k : Nat) : Assigned.Statement (.copyGranulePerform q k) := assigned_event rfl

theorem Assigned.launchRound : Assigned.Statement (.launchRound) := assigned_event rfl

theorem Assigned.clockLockLoss : Assigned.Statement (.clockLockLoss) := assigned_event rfl

theorem Assigned.qreg : Assigned.Statement (.qreg) := assigned_event rfl

theorem Assigned.qdereg : Assigned.Statement (.qdereg) := assigned_event rfl

theorem Assigned.asidroot : Assigned.Statement (.asidroot) := assigned_event rfl

theorem Assigned.inval : Assigned.Statement (.inval) := assigned_event rfl

theorem Assigned.pin : Assigned.Statement (.pin) := assigned_event rfl

theorem Assigned.rowsrv : Assigned.Statement (.rowsrv) := assigned_event rfl

theorem Assigned.fwd : Assigned.Statement (.fwd) := assigned_event rfl

theorem Assigned.basett : Assigned.Statement (.basett) := assigned_event rfl

theorem Assigned.handler : Assigned.Statement (.handler) := assigned_event rfl

theorem Assigned.preempt : Assigned.Statement (.preempt) := assigned_event rfl

theorem Assigned.stop : Assigned.Statement (.stop) := assigned_event rfl

theorem Assigned.attest : Assigned.Statement (.attest) := assigned_event rfl

theorem Assigned.unseal : Assigned.Statement (.unseal) := assigned_event rfl

theorem Assigned.qpage : Assigned.Statement (.qpage) := assigned_event rfl

theorem Assigned.fwstage : Assigned.Statement (.fwstage) := assigned_event rfl

theorem Assigned.proofingDone : Assigned.Statement (.proofingDone) := assigned_event rfl

theorem Assigned.frameMove : Assigned.Statement (.frameMove) := assigned_event rfl

theorem Assigned.offlineDone : Assigned.Statement (.offlineDone) := assigned_event rfl

theorem Assigned.functionLevelReset : Assigned.Statement (.functionLevelReset) := assigned_event rfl

theorem Assigned.d3hotEntry : Assigned.Statement (.d3hotEntry) := assigned_event rfl

theorem Assigned.readyReturn : Assigned.Statement (.readyReturn) := assigned_event rfl

theorem Assigned.burstRetry (stack channel frame : Nat) : Assigned.Statement (.burstRetry stack channel frame) := assigned_event rfl

theorem Assigned.memoryUncorrectable (stack off : Nat) : Assigned.Statement (.memoryUncorrectable stack off) := assigned_event rfl

theorem Assigned.reserveRequest (r : Reservation) : Assigned.Statement (.reserveRequest r) := assigned_event rfl

theorem Assigned.reserveReply (r : ReserveAnswer) : Assigned.Statement (.reserveReply r) := assigned_event rfl

theorem Assigned.softError (d c kind num : Nat) : Assigned.Statement (.softError d c kind num) := assigned_event rfl

theorem Assigned.bankUncorrectable (d c addr : Nat) : Assigned.Statement (.bankUncorrectable d c addr) := assigned_event rfl

theorem Assigned.edgeCrcFail (e : Nat) (again : Bool) : Assigned.Statement (.edgeCrcFail e again) := assigned_event rfl

theorem Assigned.epochArrival (v delay : Nat) : Assigned.Statement (.epochArrival v delay) := assigned_event rfl

theorem Assigned.powerOnReset (b : BootInputs) : Assigned.Statement (.powerOnReset b) := assigned_event rfl

theorem Assigned.flitReceive (ident lseq : Nat) (f : Flit) : Assigned.Statement (.flitReceive ident lseq f) := assigned_event rfl

theorem Assigned.nack (ident lseq : Nat) : Assigned.Statement (.nack ident lseq) := assigned_event rfl

theorem Assigned.lanternFault (ident : Nat) : Assigned.Statement (.lanternFault ident) := assigned_event rfl

theorem Assigned.registerWrite (off size : Nat) (v : Word) : Assigned.Statement (.registerWrite off size v) := assigned_event rfl

theorem Assigned.hostBar2Read (off size : Nat) : Assigned.Statement (.hostBar2Read off size) := assigned_event rfl

theorem Assigned.hostBar2Write (off : Nat) (data : List Byte) : Assigned.Statement (.hostBar2Write off data) := assigned_event rfl

theorem Assigned.hostBar4Access (off size : Nat) (data : Option (List Byte)) : Assigned.Statement (.hostBar4Access off size data) := assigned_event rfl

theorem Assigned.telemetryWindow (m : Measures) : Assigned.Statement (.telemetryWindow m) := assigned_event rfl

theorem Assigned.hostReadCompletion (id : Nat) (data : Option (List Byte)) : Assigned.Statement (.hostReadCompletion id data) := assigned_event rfl

end Sys2Proof.Laws
end

