-- ==== Sys2Proof/Laws/Tables.lean ====
section
/-!
SUPPORT. What a change of one die, one context or one array group leaves and what it changes.
-/

set_option Elab.async false

namespace Sys2Proof.Machine

theorem tget_tmod {α : Type} {n : Nat} (v : Vector α n) (i : Nat) (f : α → α) (d : α) (h : i < n) :
    tget (tmod v i f) i d = f (tget v i d) := by
  simp [tget, tmod, h]

theorem tget_tmod_ne {α : Type} {n : Nat} (v : Vector α n) (i j : Nat) (f : α → α) (d : α) (h : j ≠ i) :
    tget (tmod v i f) j d = tget v j d := by
  unfold tget tmod
  cases v[i]? with
  | none => rfl
  | some x => simp [Vector.getElem?_setIfInBounds_ne (Ne.symm h)]

theorem State.die_modDie (s : State) (d : Nat) (f : Die → Die) (h : d < 8) : (s.modDie d f).die d = f (s.die d) :=
  tget_tmod _ _ _ _ h

theorem State.die_modDie_ne (s : State) (d k : Nat) (f : Die → Die) (h : k ≠ d) : (s.modDie d f).die k = s.die k :=
  tget_tmod_ne _ _ _ _ _ h

theorem State.ctx_modCtx (s : State) (d c : Nat) (f : Ctx → Ctx) (hd : d < 8) (hc : c < 3) :
    (s.modCtx d c f).ctx d c = f (s.ctx d c) := by
  rw [State.ctx, State.modCtx, State.die_modDie _ _ _ hd]
  exact tget_tmod _ _ _ _ hc

theorem State.ctx_modCtx_ne (s : State) (d c d' c' : Nat) (f : Ctx → Ctx) (h : (d', c') ≠ (d, c)) :
    (s.modCtx d c f).ctx d' c' = s.ctx d' c' := by
  by_cases hd : d' = d
  · subst hd
    have hc : c' ≠ c := fun e => h (by rw [e])
    by_cases h8 : d' < 8
    · rw [State.ctx, State.modCtx, State.die_modDie _ _ _ h8]
      exact tget_tmod_ne _ _ _ _ _ hc
    · simp [State.ctx, State.modCtx, State.modDie, State.die, tget, tmod, h8]
  · rw [State.ctx, State.modCtx, State.die_modDie_ne _ _ _ _ hd]; rfl

theorem State.ctx_modArch (s : State) (d c : Nat) (f : Arch → Arch) (hd : d < 8) (hc : c < 3) :
    (s.modArch d c f).ctx d c = { s.ctx d c with arch := f (s.ctx d c).arch } :=
  State.ctx_modCtx s d c _ hd hc

/-- A change of a context leaves the rest of its die. -/
theorem State.die_modCtx (s : State) (d c : Nat) (f : Ctx → Ctx) (h : d < 8) :
    (s.modCtx d c f).die d = { s.die d with ctx := tmod (s.die d).ctx c f } :=
  State.die_modDie s d _ h

@[simp] theorem State.modCtx_bank (s : State) (d c k : Nat) (f : Ctx → Ctx) :
    ((s.modCtx d c f).die k).bank = (s.die k).bank := by
  by_cases h : k = d
  · subst h
    by_cases h8 : k < 8
    · rw [State.die_modCtx _ _ _ _ h8]
    · simp [State.modCtx, State.modDie, State.die, tget, tmod, h8]
  · rw [State.modCtx, State.die_modDie_ne _ _ _ _ h]

@[simp] theorem State.modArch_bank (s : State) (d c k : Nat) (f : Arch → Arch) :
    ((s.modArch d c f).die k).bank = (s.die k).bank := State.modCtx_bank s d c k _

end Sys2Proof.Machine
end

