-- ==== Sys2Proof/Laws/Queues.lean ====
section
/-!
SUPPORT. What a push to a queue of a context can do (01 R26, R27, R33).
-/

set_option Elab.async false

namespace Sys2Proof.Machine

/-- A push to AQ finds no place, or appends its entry and begins to send it where the queue was empty. -/
theorem State.pushAq_cases (s : State) (d c : Nat) (q : AqEntry) :
    s.pushAq d c q = s ∨
    ((s.ctx d c).arch.aq.length < 32 ∧
      let u := s.modArch d c fun a => { a with aq := a.aq ++ [q] }
      s.pushAq d c q = if (s.ctx d c).arch.aq.isEmpty then u.planAq d c else u) := by
  simp only [State.pushAq]
  split
  · exact .inl rfl
  · next h => exact .inr ⟨by omega, rfl⟩

/-- A push to OQ finds no place, or appends an entry that can be popped after the queue's latency. -/
theorem State.pushOq_cases (s : State) (d c : Nat) (v : Word) :
    s.pushOq d c v = s ∨
    ((s.ctx (pairOf d) c).arch.oq.length < 64 ∧
      let e : OqEntry := { id := s.nextId, value := v, ready := s.bel + Config.oqLatency, poppable := false }
      s.pushOq d c v = (({ s with nextId := s.nextId + 1 }.modArch (pairOf d) c fun a => { a with oq := a.oq ++ [e] }).scheduleBel e.ready
        phStart (.ev (.oqEntryPoppable (pairOf d) c s.nextId)))) := by
  simp only [State.pushOq]
  split
  · exact .inl rfl
  · next h => exact .inr ⟨by omega, rfl⟩

/-- A push to OQ leaves its queue at 64 entries at most (R33). -/
theorem State.pushOq_length (s : State) (d c : Nat) (v : Word) (hd : pairOf d < 8) (hc : c < 3)
    (h : (s.ctx (pairOf d) c).arch.oq.length ≤ 64) : ((s.pushOq d c v).ctx (pairOf d) c).arch.oq.length ≤ 64 := by
  obtain e | ⟨lt, e⟩ := s.pushOq_cases d c v
  · rw [e]; exact h
  · rw [e]
    have same : ∀ (u : State) (n p : Nat) (m : Micro), (u.scheduleBel n p m).ctx (pairOf d) c = u.ctx (pairOf d) c := fun _ _ _ _ => rfl
    have next : ({ s with nextId := s.nextId + 1 } : State).ctx (pairOf d) c = s.ctx (pairOf d) c := rfl
    rw [same, State.ctx_modArch _ _ _ _ hd hc, next]
    simp only [List.length_append, List.length_singleton]; omega

/-- A push to OQ changes no bank. -/
theorem State.pushOq_bank (s : State) (d c k : Nat) (v : Word) : ((s.pushOq d c v).die k).bank = (s.die k).bank := by
  obtain e | ⟨-, e⟩ := s.pushOq_cases d c v
  · rw [e]
  · rw [e]
    have same : ∀ (u : State) (n p : Nat) (m : Micro), (u.scheduleBel n p m).die k = u.die k := fun _ _ _ _ => rfl
    rw [same, State.modArch_bank]
    rfl

end Sys2Proof.Machine
end

