-- ==== Sys2Proof/Laws/Slots.lean ====
section
/-!
SUPPORT. Once for each operation that the meanings of slot instructions are built of: it changes nothing but what a slot
records (`SlotOnly`).
-/

set_option Elab.async false

namespace Sys2Proof.Machine

theorem SlotOnly.refl (s : State) : SlotOnly s s := rfl

theorem SlotOnly.trans {s t u : State} (h1 : SlotOnly s t) (h2 : SlotOnly t u) : SlotOnly s u := by
  have h3 : { u with issue := t.issue, free := t.free, nextId := t.nextId } = t := h2
  have h4 : { t with issue := s.issue, free := s.free, nextId := s.nextId } = s := h1
  rw [← h3] at h4
  exact h4

/-- Any change of what a slot records. -/
theorem SlotOnly.toEnd {s t : State} (i : Issue) (f n : Nat) (h : SlotOnly s t) :
    SlotOnly s { t with issue := i, free := f, nextId := n } := h

/-- A list of changes, each of which records only. -/
theorem SlotOnly.foldl {α : Type} (g : State → α → State) (hg : ∀ s a, SlotOnly s (g s a)) (l : List α) :
    ∀ s t, SlotOnly s t → SlotOnly s (l.foldl g t) := by
  induction l with
  | nil => intro s t h; exact h
  | cons a l ih => intro s t h; exact ih s _ (h.trans (hg t a))

theorem SlotOnly.emit {s t : State} (lat cls : Nat) (a : Act) (h : SlotOnly s t) : SlotOnly s (t.emit lat cls a) := h
theorem SlotOnly.put {s t : State} (hd : Hdr) (lat : Nat) (a : Act) (h : SlotOnly s t) : SlotOnly s (t.put hd lat a) := h
theorem SlotOnly.raise {s t : State} (cls code info : Nat) (k : Option Nat) (h : SlotOnly s t) :
    SlotOnly s (t.raise cls code info k) := h
theorem SlotOnly.holdGroup {s t : State} (h : SlotOnly s t) : SlotOnly s t.holdGroup := h
theorem SlotOnly.waitTile {s t : State} (h : SlotOnly s t) : SlotOnly s t.waitTile := h
theorem SlotOnly.branchTo {s t : State} (w : Word) (h : SlotOnly s t) : SlotOnly s (t.branchTo w) := h
theorem SlotOnly.draw {s t : State} (r : Rnd) (h : SlotOnly s t) : SlotOnly s (t.draw r).1 := h
theorem SlotOnly.afterRead {s t : State} (h : SlotOnly s t) : SlotOnly s t.afterRead := h
theorem SlotOnly.freeBelow {s t : State} (n : Nat) (h : SlotOnly s t) : SlotOnly s (t.freeBelow n).2 := h
theorem SlotOnly.fresh {s t : State} (h : SlotOnly s t) : SlotOnly s t.fresh.2 := h
theorem SlotOnly.startReq {s t : State} (hd : Hdr) (r : Req) (h : SlotOnly s t) : SlotOnly s (t.startReq hd r) := h
theorem SlotOnly.deferWith {s t : State} (hd : Hdr) (pr : Nat) (a : Word) (ws : List DefWrite) (n : Nat) (h : SlotOnly s t) :
    SlotOnly s (t.deferWith hd pr a ws n) := h

theorem SlotOnly.putFlags {s t : State} (cls lat : Nat) (f : Flags) (h : SlotOnly s t) : SlotOnly s (t.putFlags cls lat f) := by
  unfold State.putFlags; split <;> exact h

theorem SlotOnly.putV {s t : State} (c lat : Nat) (d : BitVec 6) (x : VReg) (m : PReg) (h : SlotOnly s t) :
    SlotOnly s (t.putV c lat d x m) := by
  unfold State.putV; split <;> exact h

theorem SlotOnly.putP {s t : State} (c lat : Nat) (d : BitVec 6) (x m : PReg) (h : SlotOnly s t) :
    SlotOnly s (t.putP c lat d x m) := by
  unfold State.putP; split <;> exact h

theorem SlotOnly.holdOrTrap {s t : State} (cls code info : Nat) (h : SlotOnly s t) : SlotOnly s (t.holdOrTrap cls code info) := by
  unfold State.holdOrTrap; split <;> exact h

theorem SlotOnly.raiseAll {s t : State} (cls : Nat) (es : List (Nat × Nat)) (h : SlotOnly s t) :
    SlotOnly s (t.raiseAll cls es) := SlotOnly.foldl (fun s (e : Nat × Nat) => s.raise cls e.1 e.2) (fun _ _ => rfl) es s t h

theorem SlotOnly.mapElems (rnd : Rnd) (dr : Bool) (sel : Nat → Bool) (f : Nat → Nat → Rounded) (l : List Nat) :
    ∀ s t, SlotOnly s t → SlotOnly s (mapElems rnd dr sel f t l).st := by
  induction l with
  | nil => intro s t h; exact h
  | cons e l ih =>
    intro s t h
    unfold Machine.mapElems
    split
    · split
      · exact ih s _ (SlotOnly.draw rnd h)
      · exact ih s _ h
    · exact ih s _ h

theorem SlotOnly.vmap {s t : State} (hd : Hdr) (c lat w : Nat) (d : BitVec 6) (rnd : Rnd) (dr : Bool)
    (f : Nat → Nat → Rounded) (h : SlotOnly s t) : SlotOnly s (t.vmap hd c lat w d rnd dr f) := by
  unfold State.vmap
  have h1 := SlotOnly.mapElems rnd dr (fun e => elemSel (t.arch.vguard c hd) w e) f (List.range (elemCount w)) s t h
  dsimp only
  split
  · exact h1.raise _ _ _ _
  · exact (h1.putV _ _ _ _ _).putFlags _ _ _

theorem SlotOnly.unless {s t : State} (hd : Hdr) (c : Option (Nat × Nat)) (f : State → State) (h : SlotOnly s t)
    (hf : SlotOnly s (f t)) : SlotOnly s (t.unless hd c f) := by
  unfold State.unless; split
  · exact h
  · exact hf

theorem SlotOnly.notInBg {s t : State} (hd : Hdr) (f : State → State) (h : SlotOnly s t) (hf : SlotOnly s (f t)) :
    SlotOnly s (notInBg hd t f) := by
  unfold Machine.notInBg; split
  · exact h
  · exact hf

theorem SlotOnly.rdEnd {s t : State} (hd : Hdr) (lat : Nat) (k : Work) (f : State → State) (h : SlotOnly s t)
    (hf : ∀ u, SlotOnly u (f u)) : SlotOnly s (t.rdEnd hd lat k f) := by
  unfold State.rdEnd
  dsimp only
  split
  · exact h
  · exact SlotOnly.putFlags _ _ _ (SlotOnly.trans (SlotOnly.toEnd _ _ _ h) (hf _))

/-- An outcome is a next state that differs only in what a slot records. -/
def Records (s : State) (r : Res) : Prop := ∃ t, r = .next t ∧ SlotOnly s t

theorem Records.next {s t : State} (h : SlotOnly s t) : Records s (.next t) := ⟨t, rfl, h⟩

theorem Records.slotRun {h : Hdr} {s : State} {f : State → State} (hf : SlotOnly s (f s)) : Records s (slotRun h s f) := by
  unfold Machine.slotRun; split
  · exact .next hf
  · exact .next (.refl s)

theorem Records.clusterRun {h : Hdr} {s : State} {f : Nat → State → State} (hf : ∀ c u, SlotOnly u (f c u)) :
    Records s (clusterRun h s f) :=
  .next (SlotOnly.foldl (fun s c => f c s) (fun u c => hf c u) _ s s (.refl s))

theorem Records.tileRun {h : Hdr} {g : Nat} {ts : State → List Nat} {chain : Option (Bool × Nat)} {f : State → State} {s : State}
    (hf : SlotOnly s (f s)) : Records s (tileRun h g ts chain f s) := by
  refine Records.slotRun ?_
  dsimp only
  split
  · exact rfl
  · exact hf.raiseAll _ _

theorem Records.tagRun {h : Hdr} {s : State} {f : State → State} (hf : SlotOnly s (f s)) : Records s (tagRun h s f) := by
  refine Records.slotRun ?_
  split
  · exact hf
  · exact rfl

theorem Records.tagSlotRun {h : Hdr} {s : State} {n : Nat} {f : State → State} (hf : SlotOnly s (f s)) :
    Records s (tagSlotRun h s n f) := by
  refine Records.tagRun ?_
  split
  · exact hf
  · exact rfl

end Sys2Proof.Machine
end

