-- ==== Sys2Proof/Laws/State.lean ====
section
/-!
SUPPORT. Every field of the state after every update of a part of it.
-/

set_option Elab.async false

namespace Sys2Proof.Machine

/-! ### `State.emit`: a result of the slot -/

@[simp] theorem State.emit_now (s : State) (lat cls : Nat) (a : Act) : (s.emit lat cls a).now = s.now := rfl
@[simp] theorem State.emit_agenda (s : State) (lat cls : Nat) (a : Act) : (s.emit lat cls a).agenda = s.agenda := rfl
@[simp] theorem State.emit_calendar (s : State) (lat cls : Nat) (a : Act) : (s.emit lat cls a).calendar = s.calendar := rfl
@[simp] theorem State.emit_issue (s : State) (lat cls : Nat) (a : Act) : (s.emit lat cls a).issue = { s.issue with acts := s.issue.acts ++ [(lat, cls, a)] } := rfl
@[simp] theorem State.emit_mask (s : State) (lat cls : Nat) (a : Act) : (s.emit lat cls a).mask = s.mask := rfl
@[simp] theorem State.emit_fgHeld (s : State) (lat cls : Nat) (a : Act) : (s.emit lat cls a).fgHeld = s.fgHeld := rfl
@[simp] theorem State.emit_free (s : State) (lat cls : Nat) (a : Act) : (s.emit lat cls a).free = s.free := rfl
@[simp] theorem State.emit_nextId (s : State) (lat cls : Nat) (a : Act) : (s.emit lat cls a).nextId = s.nextId := rfl
@[simp] theorem State.emit_belfry (s : State) (lat cls : Nat) (a : Act) : (s.emit lat cls a).belfry = s.belfry := rfl
@[simp] theorem State.emit_belfryOn (s : State) (lat cls : Nat) (a : Act) : (s.emit lat cls a).belfryOn = s.belfryOn := rfl
@[simp] theorem State.emit_pkg (s : State) (lat cls : Nat) (a : Act) : (s.emit lat cls a).pkg = s.pkg := rfl
@[simp] theorem State.emit_ready (s : State) (lat cls : Nat) (a : Act) : (s.emit lat cls a).ready = s.ready := rfl
@[simp] theorem State.emit_stage (s : State) (lat cls : Nat) (a : Act) : (s.emit lat cls a).stage = s.stage := rfl
@[simp] theorem State.emit_berr (s : State) (lat cls : Nat) (a : Act) : (s.emit lat cls a).berr = s.berr := rfl
@[simp] theorem State.emit_pres (s : State) (lat cls : Nat) (a : Act) : (s.emit lat cls a).pres = s.pres := rfl
@[simp] theorem State.emit_svc (s : State) (lat cls : Nat) (a : Act) : (s.emit lat cls a).svc = s.svc := rfl
@[simp] theorem State.emit_retired (s : State) (lat cls : Nat) (a : Act) : (s.emit lat cls a).retired = s.retired := rfl
@[simp] theorem State.emit_retiredFor (s : State) (lat cls : Nat) (a : Act) : (s.emit lat cls a).retiredFor = s.retiredFor := rfl
@[simp] theorem State.emit_offline (s : State) (lat cls : Nat) (a : Act) : (s.emit lat cls a).offline = s.offline := rfl
@[simp] theorem State.emit_degraded (s : State) (lat cls : Nat) (a : Act) : (s.emit lat cls a).degraded = s.degraded := rfl
@[simp] theorem State.emit_bar2base (s : State) (lat cls : Nat) (a : Act) : (s.emit lat cls a).bar2base = s.bar2base := rfl
@[simp] theorem State.emit_bar2size (s : State) (lat cls : Nat) (a : Act) : (s.emit lat cls a).bar2size = s.bar2size := rfl
@[simp] theorem State.emit_offStat (s : State) (lat cls : Nat) (a : Act) : (s.emit lat cls a).offStat = s.offStat := rfl
@[simp] theorem State.emit_offBusy (s : State) (lat cls : Nat) (a : Act) : (s.emit lat cls a).offBusy = s.offBusy := rfl
@[simp] theorem State.emit_offReq (s : State) (lat cls : Nat) (a : Act) : (s.emit lat cls a).offReq = s.offReq := rfl
@[simp] theorem State.emit_offMap (s : State) (lat cls : Nat) (a : Act) : (s.emit lat cls a).offMap = s.offMap := rfl
@[simp] theorem State.emit_marg (s : State) (lat cls : Nat) (a : Act) : (s.emit lat cls a).marg = s.marg := rfl
@[simp] theorem State.emit_mres (s : State) (lat cls : Nat) (a : Act) : (s.emit lat cls a).mres = s.mres := rfl
@[simp] theorem State.emit_mcmdNow (s : State) (lat cls : Nat) (a : Act) : (s.emit lat cls a).mcmdNow = s.mcmdNow := rfl
@[simp] theorem State.emit_invalFrom (s : State) (lat cls : Nat) (a : Act) : (s.emit lat cls a).invalFrom = s.invalFrom := rfl
@[simp] theorem State.emit_psuba (s : State) (lat cls : Nat) (a : Act) : (s.emit lat cls a).psuba = s.psuba := rfl
@[simp] theorem State.emit_psubl (s : State) (lat cls : Nat) (a : Act) : (s.emit lat cls a).psubl = s.psubl := rfl
@[simp] theorem State.emit_pstat (s : State) (lat cls : Nat) (a : Act) : (s.emit lat cls a).pstat = s.pstat := rfl
@[simp] theorem State.emit_proofing (s : State) (lat cls : Nat) (a : Act) : (s.emit lat cls a).proofing = s.proofing := rfl
@[simp] theorem State.emit_pres64 (s : State) (lat cls : Nat) (a : Act) : (s.emit lat cls a).pres64 = s.pres64 := rfl
@[simp] theorem State.emit_meas (s : State) (lat cls : Nat) (a : Act) : (s.emit lat cls a).meas = s.meas := rfl
@[simp] theorem State.emit_therm (s : State) (lat cls : Nat) (a : Act) : (s.emit lat cls a).therm = s.therm := rfl
@[simp] theorem State.emit_mpwr (s : State) (lat cls : Nat) (a : Act) : (s.emit lat cls a).mpwr = s.mpwr := rfl
@[simp] theorem State.emit_plim (s : State) (lat cls : Nat) (a : Act) : (s.emit lat cls a).plim = s.plim := rfl
@[simp] theorem State.emit_psts (s : State) (lat cls : Nat) (a : Act) : (s.emit lat cls a).psts = s.psts := rfl
@[simp] theorem State.emit_overWindows (s : State) (lat cls : Nat) (a : Act) : (s.emit lat cls a).overWindows = s.overWindows := rfl
@[simp] theorem State.emit_placeHold (s : State) (lat cls : Nat) (a : Act) : (s.emit lat cls a).placeHold = s.placeHold := rfl
@[simp] theorem State.emit_shutDown (s : State) (lat cls : Nat) (a : Act) : (s.emit lat cls a).shutDown = s.shutDown := rfl
@[simp] theorem State.emit_dumpIx (s : State) (lat cls : Nat) (a : Act) : (s.emit lat cls a).dumpIx = s.dumpIx := rfl
@[simp] theorem State.emit_perf (s : State) (lat cls : Nat) (a : Act) : (s.emit lat cls a).perf = s.perf := rfl
@[simp] theorem State.emit_flash (s : State) (lat cls : Nat) (a : Act) : (s.emit lat cls a).flash = s.flash := rfl
@[simp] theorem State.emit_firmware (s : State) (lat cls : Nat) (a : Act) : (s.emit lat cls a).firmware = s.firmware := rfl
@[simp] theorem State.emit_msixTable (s : State) (lat cls : Nat) (a : Act) : (s.emit lat cls a).msixTable = s.msixTable := rfl
@[simp] theorem State.emit_msixPend (s : State) (lat cls : Nat) (a : Act) : (s.emit lat cls a).msixPend = s.msixPend := rfl
@[simp] theorem State.emit_msixOn (s : State) (lat cls : Nat) (a : Act) : (s.emit lat cls a).msixOn = s.msixOn := rfl
@[simp] theorem State.emit_msixAll (s : State) (lat cls : Nat) (a : Act) : (s.emit lat cls a).msixAll = s.msixAll := rfl
@[simp] theorem State.emit_qpages (s : State) (lat cls : Nat) (a : Act) : (s.emit lat cls a).qpages = s.qpages := rfl
@[simp] theorem State.emit_dies (s : State) (lat cls : Nat) (a : Act) : (s.emit lat cls a).dies = s.dies := rfl
@[simp] theorem State.emit_hbm (s : State) (lat cls : Nat) (a : Act) : (s.emit lat cls a).hbm = s.hbm := rfl
@[simp] theorem State.emit_poison (s : State) (lat cls : Nat) (a : Act) : (s.emit lat cls a).poison = s.poison := rfl
@[simp] theorem State.emit_remap (s : State) (lat cls : Nat) (a : Act) : (s.emit lat cls a).remap = s.remap := rfl
@[simp] theorem State.emit_lostFrames (s : State) (lat cls : Nat) (a : Act) : (s.emit lat cls a).lostFrames = s.lostFrames := rfl
@[simp] theorem State.emit_scalarBook (s : State) (lat cls : Nat) (a : Act) : (s.emit lat cls a).scalarBook = s.scalarBook := rfl
@[simp] theorem State.emit_elasticBook (s : State) (lat cls : Nat) (a : Act) : (s.emit lat cls a).elasticBook = s.elasticBook := rfl
@[simp] theorem State.emit_claimed (s : State) (lat cls : Nat) (a : Act) : (s.emit lat cls a).claimed = s.claimed := rfl
@[simp] theorem State.emit_edges (s : State) (lat cls : Nat) (a : Act) : (s.emit lat cls a).edges = s.edges := rfl
@[simp] theorem State.emit_edgeLate (s : State) (lat cls : Nat) (a : Act) : (s.emit lat cls a).edgeLate = s.edgeLate := rfl
@[simp] theorem State.emit_roots (s : State) (lat cls : Nat) (a : Act) : (s.emit lat cls a).roots = s.roots := rfl
@[simp] theorem State.emit_fwd (s : State) (lat cls : Nat) (a : Act) : (s.emit lat cls a).fwd = s.fwd := rfl
@[simp] theorem State.emit_baseTT (s : State) (lat cls : Nat) (a : Act) : (s.emit lat cls a).baseTT = s.baseTT := rfl
@[simp] theorem State.emit_newTT (s : State) (lat cls : Nat) (a : Act) : (s.emit lat cls a).newTT = s.newTT := rfl
@[simp] theorem State.emit_handlers (s : State) (lat cls : Nat) (a : Act) : (s.emit lat cls a).handlers = s.handlers := rfl
@[simp] theorem State.emit_domain (s : State) (lat cls : Nat) (a : Act) : (s.emit lat cls a).domain = s.domain := rfl
@[simp] theorem State.emit_flights (s : State) (lat cls : Nat) (a : Act) : (s.emit lat cls a).flights = s.flights := rfl
@[simp] theorem State.emit_lanterns (s : State) (lat cls : Nat) (a : Act) : (s.emit lat cls a).lanterns = s.lanterns := rfl
@[simp] theorem State.emit_lanternReqs (s : State) (lat cls : Nat) (a : Act) : (s.emit lat cls a).lanternReqs = s.lanternReqs := rfl
@[simp] theorem State.emit_outbox (s : State) (lat cls : Nat) (a : Act) : (s.emit lat cls a).outbox = s.outbox := rfl
@[simp] theorem State.emit_waitingOut (s : State) (lat cls : Nat) (a : Act) : (s.emit lat cls a).waitingOut = s.waitingOut := rfl
@[simp] theorem State.emit_transit (s : State) (lat cls : Nat) (a : Act) : (s.emit lat cls a).transit = s.transit := rfl
@[simp] theorem State.emit_elastic (s : State) (lat cls : Nat) (a : Act) : (s.emit lat cls a).elastic = s.elastic := rfl
@[simp] theorem State.emit_hostOut (s : State) (lat cls : Nat) (a : Act) : (s.emit lat cls a).hostOut = s.hostOut := rfl
@[simp] theorem State.emit_hostQ (s : State) (lat cls : Nat) (a : Act) : (s.emit lat cls a).hostQ = s.hostQ := rfl
@[simp] theorem State.emit_control (s : State) (lat cls : Nat) (a : Act) : (s.emit lat cls a).control = s.control := rfl
@[simp] theorem State.emit_images (s : State) (lat cls : Nat) (a : Act) : (s.emit lat cls a).images = s.images := rfl
@[simp] theorem State.emit_queues (s : State) (lat cls : Nat) (a : Act) : (s.emit lat cls a).queues = s.queues := rfl
@[simp] theorem State.emit_copies (s : State) (lat cls : Nat) (a : Act) : (s.emit lat cls a).copies = s.copies := rfl
@[simp] theorem State.emit_fetched (s : State) (lat cls : Nat) (a : Act) : (s.emit lat cls a).fetched = s.fetched := rfl
@[simp] theorem State.emit_rr (s : State) (lat cls : Nat) (a : Act) : (s.emit lat cls a).rr = s.rr := rfl
@[simp] theorem State.emit_rrCopy (s : State) (lat cls : Nat) (a : Act) : (s.emit lat cls a).rrCopy = s.rrCopy := rfl
@[simp] theorem State.emit_launches (s : State) (lat cls : Nat) (a : Act) : (s.emit lat cls a).launches = s.launches := rfl
@[simp] theorem State.emit_tasks (s : State) (lat cls : Nat) (a : Act) : (s.emit lat cls a).tasks = s.tasks := rfl
@[simp] theorem State.emit_gangs (s : State) (lat cls : Nat) (a : Act) : (s.emit lat cls a).gangs = s.gangs := rfl
@[simp] theorem State.emit_reservations (s : State) (lat cls : Nat) (a : Act) : (s.emit lat cls a).reservations = s.reservations := rfl
@[simp] theorem State.emit_claims (s : State) (lat cls : Nat) (a : Act) : (s.emit lat cls a).claims = s.claims := rfl
@[simp] theorem State.emit_powerUps (s : State) (lat cls : Nat) (a : Act) : (s.emit lat cls a).powerUps = s.powerUps := rfl
@[simp] theorem State.emit_pendings (s : State) (lat cls : Nat) (a : Act) : (s.emit lat cls a).pendings = s.pendings := rfl
@[simp] theorem State.emit_sends (s : State) (lat cls : Nat) (a : Act) : (s.emit lat cls a).sends = s.sends := rfl
@[simp] theorem State.emit_colls (s : State) (lat cls : Nat) (a : Act) : (s.emit lat cls a).colls = s.colls := rfl

/-! ### `State.put`: a result under the slot's class -/

@[simp] theorem State.put_now (s : State) (h : Hdr) (lat : Nat) (a : Act) : (s.put h lat a).now = s.now := rfl
@[simp] theorem State.put_agenda (s : State) (h : Hdr) (lat : Nat) (a : Act) : (s.put h lat a).agenda = s.agenda := rfl
@[simp] theorem State.put_calendar (s : State) (h : Hdr) (lat : Nat) (a : Act) : (s.put h lat a).calendar = s.calendar := rfl
@[simp] theorem State.put_issue (s : State) (h : Hdr) (lat : Nat) (a : Act) : (s.put h lat a).issue = { s.issue with acts := s.issue.acts ++ [(lat, h.cls.toNat, a)] } := rfl
@[simp] theorem State.put_mask (s : State) (h : Hdr) (lat : Nat) (a : Act) : (s.put h lat a).mask = s.mask := rfl
@[simp] theorem State.put_fgHeld (s : State) (h : Hdr) (lat : Nat) (a : Act) : (s.put h lat a).fgHeld = s.fgHeld := rfl
@[simp] theorem State.put_free (s : State) (h : Hdr) (lat : Nat) (a : Act) : (s.put h lat a).free = s.free := rfl
@[simp] theorem State.put_nextId (s : State) (h : Hdr) (lat : Nat) (a : Act) : (s.put h lat a).nextId = s.nextId := rfl
@[simp] theorem State.put_belfry (s : State) (h : Hdr) (lat : Nat) (a : Act) : (s.put h lat a).belfry = s.belfry := rfl
@[simp] theorem State.put_belfryOn (s : State) (h : Hdr) (lat : Nat) (a : Act) : (s.put h lat a).belfryOn = s.belfryOn := rfl
@[simp] theorem State.put_pkg (s : State) (h : Hdr) (lat : Nat) (a : Act) : (s.put h lat a).pkg = s.pkg := rfl
@[simp] theorem State.put_ready (s : State) (h : Hdr) (lat : Nat) (a : Act) : (s.put h lat a).ready = s.ready := rfl
@[simp] theorem State.put_stage (s : State) (h : Hdr) (lat : Nat) (a : Act) : (s.put h lat a).stage = s.stage := rfl
@[simp] theorem State.put_berr (s : State) (h : Hdr) (lat : Nat) (a : Act) : (s.put h lat a).berr = s.berr := rfl
@[simp] theorem State.put_pres (s : State) (h : Hdr) (lat : Nat) (a : Act) : (s.put h lat a).pres = s.pres := rfl
@[simp] theorem State.put_svc (s : State) (h : Hdr) (lat : Nat) (a : Act) : (s.put h lat a).svc = s.svc := rfl
@[simp] theorem State.put_retired (s : State) (h : Hdr) (lat : Nat) (a : Act) : (s.put h lat a).retired = s.retired := rfl
@[simp] theorem State.put_retiredFor (s : State) (h : Hdr) (lat : Nat) (a : Act) : (s.put h lat a).retiredFor = s.retiredFor := rfl
@[simp] theorem State.put_offline (s : State) (h : Hdr) (lat : Nat) (a : Act) : (s.put h lat a).offline = s.offline := rfl
@[simp] theorem State.put_degraded (s : State) (h : Hdr) (lat : Nat) (a : Act) : (s.put h lat a).degraded = s.degraded := rfl
@[simp] theorem State.put_bar2base (s : State) (h : Hdr) (lat : Nat) (a : Act) : (s.put h lat a).bar2base = s.bar2base := rfl
@[simp] theorem State.put_bar2size (s : State) (h : Hdr) (lat : Nat) (a : Act) : (s.put h lat a).bar2size = s.bar2size := rfl
@[simp] theorem State.put_offStat (s : State) (h : Hdr) (lat : Nat) (a : Act) : (s.put h lat a).offStat = s.offStat := rfl
@[simp] theorem State.put_offBusy (s : State) (h : Hdr) (lat : Nat) (a : Act) : (s.put h lat a).offBusy = s.offBusy := rfl
@[simp] theorem State.put_offReq (s : State) (h : Hdr) (lat : Nat) (a : Act) : (s.put h lat a).offReq = s.offReq := rfl
@[simp] theorem State.put_offMap (s : State) (h : Hdr) (lat : Nat) (a : Act) : (s.put h lat a).offMap = s.offMap := rfl
@[simp] theorem State.put_marg (s : State) (h : Hdr) (lat : Nat) (a : Act) : (s.put h lat a).marg = s.marg := rfl
@[simp] theorem State.put_mres (s : State) (h : Hdr) (lat : Nat) (a : Act) : (s.put h lat a).mres = s.mres := rfl
@[simp] theorem State.put_mcmdNow (s : State) (h : Hdr) (lat : Nat) (a : Act) : (s.put h lat a).mcmdNow = s.mcmdNow := rfl
@[simp] theorem State.put_invalFrom (s : State) (h : Hdr) (lat : Nat) (a : Act) : (s.put h lat a).invalFrom = s.invalFrom := rfl
@[simp] theorem State.put_psuba (s : State) (h : Hdr) (lat : Nat) (a : Act) : (s.put h lat a).psuba = s.psuba := rfl
@[simp] theorem State.put_psubl (s : State) (h : Hdr) (lat : Nat) (a : Act) : (s.put h lat a).psubl = s.psubl := rfl
@[simp] theorem State.put_pstat (s : State) (h : Hdr) (lat : Nat) (a : Act) : (s.put h lat a).pstat = s.pstat := rfl
@[simp] theorem State.put_proofing (s : State) (h : Hdr) (lat : Nat) (a : Act) : (s.put h lat a).proofing = s.proofing := rfl
@[simp] theorem State.put_pres64 (s : State) (h : Hdr) (lat : Nat) (a : Act) : (s.put h lat a).pres64 = s.pres64 := rfl
@[simp] theorem State.put_meas (s : State) (h : Hdr) (lat : Nat) (a : Act) : (s.put h lat a).meas = s.meas := rfl
@[simp] theorem State.put_therm (s : State) (h : Hdr) (lat : Nat) (a : Act) : (s.put h lat a).therm = s.therm := rfl
@[simp] theorem State.put_mpwr (s : State) (h : Hdr) (lat : Nat) (a : Act) : (s.put h lat a).mpwr = s.mpwr := rfl
@[simp] theorem State.put_plim (s : State) (h : Hdr) (lat : Nat) (a : Act) : (s.put h lat a).plim = s.plim := rfl
@[simp] theorem State.put_psts (s : State) (h : Hdr) (lat : Nat) (a : Act) : (s.put h lat a).psts = s.psts := rfl
@[simp] theorem State.put_overWindows (s : State) (h : Hdr) (lat : Nat) (a : Act) : (s.put h lat a).overWindows = s.overWindows := rfl
@[simp] theorem State.put_placeHold (s : State) (h : Hdr) (lat : Nat) (a : Act) : (s.put h lat a).placeHold = s.placeHold := rfl
@[simp] theorem State.put_shutDown (s : State) (h : Hdr) (lat : Nat) (a : Act) : (s.put h lat a).shutDown = s.shutDown := rfl
@[simp] theorem State.put_dumpIx (s : State) (h : Hdr) (lat : Nat) (a : Act) : (s.put h lat a).dumpIx = s.dumpIx := rfl
@[simp] theorem State.put_perf (s : State) (h : Hdr) (lat : Nat) (a : Act) : (s.put h lat a).perf = s.perf := rfl
@[simp] theorem State.put_flash (s : State) (h : Hdr) (lat : Nat) (a : Act) : (s.put h lat a).flash = s.flash := rfl
@[simp] theorem State.put_firmware (s : State) (h : Hdr) (lat : Nat) (a : Act) : (s.put h lat a).firmware = s.firmware := rfl
@[simp] theorem State.put_msixTable (s : State) (h : Hdr) (lat : Nat) (a : Act) : (s.put h lat a).msixTable = s.msixTable := rfl
@[simp] theorem State.put_msixPend (s : State) (h : Hdr) (lat : Nat) (a : Act) : (s.put h lat a).msixPend = s.msixPend := rfl
@[simp] theorem State.put_msixOn (s : State) (h : Hdr) (lat : Nat) (a : Act) : (s.put h lat a).msixOn = s.msixOn := rfl
@[simp] theorem State.put_msixAll (s : State) (h : Hdr) (lat : Nat) (a : Act) : (s.put h lat a).msixAll = s.msixAll := rfl
@[simp] theorem State.put_qpages (s : State) (h : Hdr) (lat : Nat) (a : Act) : (s.put h lat a).qpages = s.qpages := rfl
@[simp] theorem State.put_dies (s : State) (h : Hdr) (lat : Nat) (a : Act) : (s.put h lat a).dies = s.dies := rfl
@[simp] theorem State.put_hbm (s : State) (h : Hdr) (lat : Nat) (a : Act) : (s.put h lat a).hbm = s.hbm := rfl
@[simp] theorem State.put_poison (s : State) (h : Hdr) (lat : Nat) (a : Act) : (s.put h lat a).poison = s.poison := rfl
@[simp] theorem State.put_remap (s : State) (h : Hdr) (lat : Nat) (a : Act) : (s.put h lat a).remap = s.remap := rfl
@[simp] theorem State.put_lostFrames (s : State) (h : Hdr) (lat : Nat) (a : Act) : (s.put h lat a).lostFrames = s.lostFrames := rfl
@[simp] theorem State.put_scalarBook (s : State) (h : Hdr) (lat : Nat) (a : Act) : (s.put h lat a).scalarBook = s.scalarBook := rfl
@[simp] theorem State.put_elasticBook (s : State) (h : Hdr) (lat : Nat) (a : Act) : (s.put h lat a).elasticBook = s.elasticBook := rfl
@[simp] theorem State.put_claimed (s : State) (h : Hdr) (lat : Nat) (a : Act) : (s.put h lat a).claimed = s.claimed := rfl
@[simp] theorem State.put_edges (s : State) (h : Hdr) (lat : Nat) (a : Act) : (s.put h lat a).edges = s.edges := rfl
@[simp] theorem State.put_edgeLate (s : State) (h : Hdr) (lat : Nat) (a : Act) : (s.put h lat a).edgeLate = s.edgeLate := rfl
@[simp] theorem State.put_roots (s : State) (h : Hdr) (lat : Nat) (a : Act) : (s.put h lat a).roots = s.roots := rfl
@[simp] theorem State.put_fwd (s : State) (h : Hdr) (lat : Nat) (a : Act) : (s.put h lat a).fwd = s.fwd := rfl
@[simp] theorem State.put_baseTT (s : State) (h : Hdr) (lat : Nat) (a : Act) : (s.put h lat a).baseTT = s.baseTT := rfl
@[simp] theorem State.put_newTT (s : State) (h : Hdr) (lat : Nat) (a : Act) : (s.put h lat a).newTT = s.newTT := rfl
@[simp] theorem State.put_handlers (s : State) (h : Hdr) (lat : Nat) (a : Act) : (s.put h lat a).handlers = s.handlers := rfl
@[simp] theorem State.put_domain (s : State) (h : Hdr) (lat : Nat) (a : Act) : (s.put h lat a).domain = s.domain := rfl
@[simp] theorem State.put_flights (s : State) (h : Hdr) (lat : Nat) (a : Act) : (s.put h lat a).flights = s.flights := rfl
@[simp] theorem State.put_lanterns (s : State) (h : Hdr) (lat : Nat) (a : Act) : (s.put h lat a).lanterns = s.lanterns := rfl
@[simp] theorem State.put_lanternReqs (s : State) (h : Hdr) (lat : Nat) (a : Act) : (s.put h lat a).lanternReqs = s.lanternReqs := rfl
@[simp] theorem State.put_outbox (s : State) (h : Hdr) (lat : Nat) (a : Act) : (s.put h lat a).outbox = s.outbox := rfl
@[simp] theorem State.put_waitingOut (s : State) (h : Hdr) (lat : Nat) (a : Act) : (s.put h lat a).waitingOut = s.waitingOut := rfl
@[simp] theorem State.put_transit (s : State) (h : Hdr) (lat : Nat) (a : Act) : (s.put h lat a).transit = s.transit := rfl
@[simp] theorem State.put_elastic (s : State) (h : Hdr) (lat : Nat) (a : Act) : (s.put h lat a).elastic = s.elastic := rfl
@[simp] theorem State.put_hostOut (s : State) (h : Hdr) (lat : Nat) (a : Act) : (s.put h lat a).hostOut = s.hostOut := rfl
@[simp] theorem State.put_hostQ (s : State) (h : Hdr) (lat : Nat) (a : Act) : (s.put h lat a).hostQ = s.hostQ := rfl
@[simp] theorem State.put_control (s : State) (h : Hdr) (lat : Nat) (a : Act) : (s.put h lat a).control = s.control := rfl
@[simp] theorem State.put_images (s : State) (h : Hdr) (lat : Nat) (a : Act) : (s.put h lat a).images = s.images := rfl
@[simp] theorem State.put_queues (s : State) (h : Hdr) (lat : Nat) (a : Act) : (s.put h lat a).queues = s.queues := rfl
@[simp] theorem State.put_copies (s : State) (h : Hdr) (lat : Nat) (a : Act) : (s.put h lat a).copies = s.copies := rfl
@[simp] theorem State.put_fetched (s : State) (h : Hdr) (lat : Nat) (a : Act) : (s.put h lat a).fetched = s.fetched := rfl
@[simp] theorem State.put_rr (s : State) (h : Hdr) (lat : Nat) (a : Act) : (s.put h lat a).rr = s.rr := rfl
@[simp] theorem State.put_rrCopy (s : State) (h : Hdr) (lat : Nat) (a : Act) : (s.put h lat a).rrCopy = s.rrCopy := rfl
@[simp] theorem State.put_launches (s : State) (h : Hdr) (lat : Nat) (a : Act) : (s.put h lat a).launches = s.launches := rfl
@[simp] theorem State.put_tasks (s : State) (h : Hdr) (lat : Nat) (a : Act) : (s.put h lat a).tasks = s.tasks := rfl
@[simp] theorem State.put_gangs (s : State) (h : Hdr) (lat : Nat) (a : Act) : (s.put h lat a).gangs = s.gangs := rfl
@[simp] theorem State.put_reservations (s : State) (h : Hdr) (lat : Nat) (a : Act) : (s.put h lat a).reservations = s.reservations := rfl
@[simp] theorem State.put_claims (s : State) (h : Hdr) (lat : Nat) (a : Act) : (s.put h lat a).claims = s.claims := rfl
@[simp] theorem State.put_powerUps (s : State) (h : Hdr) (lat : Nat) (a : Act) : (s.put h lat a).powerUps = s.powerUps := rfl
@[simp] theorem State.put_pendings (s : State) (h : Hdr) (lat : Nat) (a : Act) : (s.put h lat a).pendings = s.pendings := rfl
@[simp] theorem State.put_sends (s : State) (h : Hdr) (lat : Nat) (a : Act) : (s.put h lat a).sends = s.sends := rfl
@[simp] theorem State.put_colls (s : State) (h : Hdr) (lat : Nat) (a : Act) : (s.put h lat a).colls = s.colls := rfl

/-! ### `State.raise`: a trap of the slot -/

@[simp] theorem State.raise_now (s : State) (cls code info : Nat) (k : Option Nat) : (s.raise cls code info k).now = s.now := rfl
@[simp] theorem State.raise_agenda (s : State) (cls code info : Nat) (k : Option Nat) : (s.raise cls code info k).agenda = s.agenda := rfl
@[simp] theorem State.raise_calendar (s : State) (cls code info : Nat) (k : Option Nat) : (s.raise cls code info k).calendar = s.calendar := rfl
@[simp] theorem State.raise_issue (s : State) (cls code info : Nat) (k : Option Nat) : (s.raise cls code info k).issue = { s.issue with traps := s.issue.traps ++ [{ code := code, info := info, cls := cls, clus := k }] } := rfl
@[simp] theorem State.raise_mask (s : State) (cls code info : Nat) (k : Option Nat) : (s.raise cls code info k).mask = s.mask := rfl
@[simp] theorem State.raise_fgHeld (s : State) (cls code info : Nat) (k : Option Nat) : (s.raise cls code info k).fgHeld = s.fgHeld := rfl
@[simp] theorem State.raise_free (s : State) (cls code info : Nat) (k : Option Nat) : (s.raise cls code info k).free = s.free := rfl
@[simp] theorem State.raise_nextId (s : State) (cls code info : Nat) (k : Option Nat) : (s.raise cls code info k).nextId = s.nextId := rfl
@[simp] theorem State.raise_belfry (s : State) (cls code info : Nat) (k : Option Nat) : (s.raise cls code info k).belfry = s.belfry := rfl
@[simp] theorem State.raise_belfryOn (s : State) (cls code info : Nat) (k : Option Nat) : (s.raise cls code info k).belfryOn = s.belfryOn := rfl
@[simp] theorem State.raise_pkg (s : State) (cls code info : Nat) (k : Option Nat) : (s.raise cls code info k).pkg = s.pkg := rfl
@[simp] theorem State.raise_ready (s : State) (cls code info : Nat) (k : Option Nat) : (s.raise cls code info k).ready = s.ready := rfl
@[simp] theorem State.raise_stage (s : State) (cls code info : Nat) (k : Option Nat) : (s.raise cls code info k).stage = s.stage := rfl
@[simp] theorem State.raise_berr (s : State) (cls code info : Nat) (k : Option Nat) : (s.raise cls code info k).berr = s.berr := rfl
@[simp] theorem State.raise_pres (s : State) (cls code info : Nat) (k : Option Nat) : (s.raise cls code info k).pres = s.pres := rfl
@[simp] theorem State.raise_svc (s : State) (cls code info : Nat) (k : Option Nat) : (s.raise cls code info k).svc = s.svc := rfl
@[simp] theorem State.raise_retired (s : State) (cls code info : Nat) (k : Option Nat) : (s.raise cls code info k).retired = s.retired := rfl
@[simp] theorem State.raise_retiredFor (s : State) (cls code info : Nat) (k : Option Nat) : (s.raise cls code info k).retiredFor = s.retiredFor := rfl
@[simp] theorem State.raise_offline (s : State) (cls code info : Nat) (k : Option Nat) : (s.raise cls code info k).offline = s.offline := rfl
@[simp] theorem State.raise_degraded (s : State) (cls code info : Nat) (k : Option Nat) : (s.raise cls code info k).degraded = s.degraded := rfl
@[simp] theorem State.raise_bar2base (s : State) (cls code info : Nat) (k : Option Nat) : (s.raise cls code info k).bar2base = s.bar2base := rfl
@[simp] theorem State.raise_bar2size (s : State) (cls code info : Nat) (k : Option Nat) : (s.raise cls code info k).bar2size = s.bar2size := rfl
@[simp] theorem State.raise_offStat (s : State) (cls code info : Nat) (k : Option Nat) : (s.raise cls code info k).offStat = s.offStat := rfl
@[simp] theorem State.raise_offBusy (s : State) (cls code info : Nat) (k : Option Nat) : (s.raise cls code info k).offBusy = s.offBusy := rfl
@[simp] theorem State.raise_offReq (s : State) (cls code info : Nat) (k : Option Nat) : (s.raise cls code info k).offReq = s.offReq := rfl
@[simp] theorem State.raise_offMap (s : State) (cls code info : Nat) (k : Option Nat) : (s.raise cls code info k).offMap = s.offMap := rfl
@[simp] theorem State.raise_marg (s : State) (cls code info : Nat) (k : Option Nat) : (s.raise cls code info k).marg = s.marg := rfl
@[simp] theorem State.raise_mres (s : State) (cls code info : Nat) (k : Option Nat) : (s.raise cls code info k).mres = s.mres := rfl
@[simp] theorem State.raise_mcmdNow (s : State) (cls code info : Nat) (k : Option Nat) : (s.raise cls code info k).mcmdNow = s.mcmdNow := rfl
@[simp] theorem State.raise_invalFrom (s : State) (cls code info : Nat) (k : Option Nat) : (s.raise cls code info k).invalFrom = s.invalFrom := rfl
@[simp] theorem State.raise_psuba (s : State) (cls code info : Nat) (k : Option Nat) : (s.raise cls code info k).psuba = s.psuba := rfl
@[simp] theorem State.raise_psubl (s : State) (cls code info : Nat) (k : Option Nat) : (s.raise cls code info k).psubl = s.psubl := rfl
@[simp] theorem State.raise_pstat (s : State) (cls code info : Nat) (k : Option Nat) : (s.raise cls code info k).pstat = s.pstat := rfl
@[simp] theorem State.raise_proofing (s : State) (cls code info : Nat) (k : Option Nat) : (s.raise cls code info k).proofing = s.proofing := rfl
@[simp] theorem State.raise_pres64 (s : State) (cls code info : Nat) (k : Option Nat) : (s.raise cls code info k).pres64 = s.pres64 := rfl
@[simp] theorem State.raise_meas (s : State) (cls code info : Nat) (k : Option Nat) : (s.raise cls code info k).meas = s.meas := rfl
@[simp] theorem State.raise_therm (s : State) (cls code info : Nat) (k : Option Nat) : (s.raise cls code info k).therm = s.therm := rfl
@[simp] theorem State.raise_mpwr (s : State) (cls code info : Nat) (k : Option Nat) : (s.raise cls code info k).mpwr = s.mpwr := rfl
@[simp] theorem State.raise_plim (s : State) (cls code info : Nat) (k : Option Nat) : (s.raise cls code info k).plim = s.plim := rfl
@[simp] theorem State.raise_psts (s : State) (cls code info : Nat) (k : Option Nat) : (s.raise cls code info k).psts = s.psts := rfl
@[simp] theorem State.raise_overWindows (s : State) (cls code info : Nat) (k : Option Nat) : (s.raise cls code info k).overWindows = s.overWindows := rfl
@[simp] theorem State.raise_placeHold (s : State) (cls code info : Nat) (k : Option Nat) : (s.raise cls code info k).placeHold = s.placeHold := rfl
@[simp] theorem State.raise_shutDown (s : State) (cls code info : Nat) (k : Option Nat) : (s.raise cls code info k).shutDown = s.shutDown := rfl
@[simp] theorem State.raise_dumpIx (s : State) (cls code info : Nat) (k : Option Nat) : (s.raise cls code info k).dumpIx = s.dumpIx := rfl
@[simp] theorem State.raise_perf (s : State) (cls code info : Nat) (k : Option Nat) : (s.raise cls code info k).perf = s.perf := rfl
@[simp] theorem State.raise_flash (s : State) (cls code info : Nat) (k : Option Nat) : (s.raise cls code info k).flash = s.flash := rfl
@[simp] theorem State.raise_firmware (s : State) (cls code info : Nat) (k : Option Nat) : (s.raise cls code info k).firmware = s.firmware := rfl
@[simp] theorem State.raise_msixTable (s : State) (cls code info : Nat) (k : Option Nat) : (s.raise cls code info k).msixTable = s.msixTable := rfl
@[simp] theorem State.raise_msixPend (s : State) (cls code info : Nat) (k : Option Nat) : (s.raise cls code info k).msixPend = s.msixPend := rfl
@[simp] theorem State.raise_msixOn (s : State) (cls code info : Nat) (k : Option Nat) : (s.raise cls code info k).msixOn = s.msixOn := rfl
@[simp] theorem State.raise_msixAll (s : State) (cls code info : Nat) (k : Option Nat) : (s.raise cls code info k).msixAll = s.msixAll := rfl
@[simp] theorem State.raise_qpages (s : State) (cls code info : Nat) (k : Option Nat) : (s.raise cls code info k).qpages = s.qpages := rfl
@[simp] theorem State.raise_dies (s : State) (cls code info : Nat) (k : Option Nat) : (s.raise cls code info k).dies = s.dies := rfl
@[simp] theorem State.raise_hbm (s : State) (cls code info : Nat) (k : Option Nat) : (s.raise cls code info k).hbm = s.hbm := rfl
@[simp] theorem State.raise_poison (s : State) (cls code info : Nat) (k : Option Nat) : (s.raise cls code info k).poison = s.poison := rfl
@[simp] theorem State.raise_remap (s : State) (cls code info : Nat) (k : Option Nat) : (s.raise cls code info k).remap = s.remap := rfl
@[simp] theorem State.raise_lostFrames (s : State) (cls code info : Nat) (k : Option Nat) : (s.raise cls code info k).lostFrames = s.lostFrames := rfl
@[simp] theorem State.raise_scalarBook (s : State) (cls code info : Nat) (k : Option Nat) : (s.raise cls code info k).scalarBook = s.scalarBook := rfl
@[simp] theorem State.raise_elasticBook (s : State) (cls code info : Nat) (k : Option Nat) : (s.raise cls code info k).elasticBook = s.elasticBook := rfl
@[simp] theorem State.raise_claimed (s : State) (cls code info : Nat) (k : Option Nat) : (s.raise cls code info k).claimed = s.claimed := rfl
@[simp] theorem State.raise_edges (s : State) (cls code info : Nat) (k : Option Nat) : (s.raise cls code info k).edges = s.edges := rfl
@[simp] theorem State.raise_edgeLate (s : State) (cls code info : Nat) (k : Option Nat) : (s.raise cls code info k).edgeLate = s.edgeLate := rfl
@[simp] theorem State.raise_roots (s : State) (cls code info : Nat) (k : Option Nat) : (s.raise cls code info k).roots = s.roots := rfl
@[simp] theorem State.raise_fwd (s : State) (cls code info : Nat) (k : Option Nat) : (s.raise cls code info k).fwd = s.fwd := rfl
@[simp] theorem State.raise_baseTT (s : State) (cls code info : Nat) (k : Option Nat) : (s.raise cls code info k).baseTT = s.baseTT := rfl
@[simp] theorem State.raise_newTT (s : State) (cls code info : Nat) (k : Option Nat) : (s.raise cls code info k).newTT = s.newTT := rfl
@[simp] theorem State.raise_handlers (s : State) (cls code info : Nat) (k : Option Nat) : (s.raise cls code info k).handlers = s.handlers := rfl
@[simp] theorem State.raise_domain (s : State) (cls code info : Nat) (k : Option Nat) : (s.raise cls code info k).domain = s.domain := rfl
@[simp] theorem State.raise_flights (s : State) (cls code info : Nat) (k : Option Nat) : (s.raise cls code info k).flights = s.flights := rfl
@[simp] theorem State.raise_lanterns (s : State) (cls code info : Nat) (k : Option Nat) : (s.raise cls code info k).lanterns = s.lanterns := rfl
@[simp] theorem State.raise_lanternReqs (s : State) (cls code info : Nat) (k : Option Nat) : (s.raise cls code info k).lanternReqs = s.lanternReqs := rfl
@[simp] theorem State.raise_outbox (s : State) (cls code info : Nat) (k : Option Nat) : (s.raise cls code info k).outbox = s.outbox := rfl
@[simp] theorem State.raise_waitingOut (s : State) (cls code info : Nat) (k : Option Nat) : (s.raise cls code info k).waitingOut = s.waitingOut := rfl
@[simp] theorem State.raise_transit (s : State) (cls code info : Nat) (k : Option Nat) : (s.raise cls code info k).transit = s.transit := rfl
@[simp] theorem State.raise_elastic (s : State) (cls code info : Nat) (k : Option Nat) : (s.raise cls code info k).elastic = s.elastic := rfl
@[simp] theorem State.raise_hostOut (s : State) (cls code info : Nat) (k : Option Nat) : (s.raise cls code info k).hostOut = s.hostOut := rfl
@[simp] theorem State.raise_hostQ (s : State) (cls code info : Nat) (k : Option Nat) : (s.raise cls code info k).hostQ = s.hostQ := rfl
@[simp] theorem State.raise_control (s : State) (cls code info : Nat) (k : Option Nat) : (s.raise cls code info k).control = s.control := rfl
@[simp] theorem State.raise_images (s : State) (cls code info : Nat) (k : Option Nat) : (s.raise cls code info k).images = s.images := rfl
@[simp] theorem State.raise_queues (s : State) (cls code info : Nat) (k : Option Nat) : (s.raise cls code info k).queues = s.queues := rfl
@[simp] theorem State.raise_copies (s : State) (cls code info : Nat) (k : Option Nat) : (s.raise cls code info k).copies = s.copies := rfl
@[simp] theorem State.raise_fetched (s : State) (cls code info : Nat) (k : Option Nat) : (s.raise cls code info k).fetched = s.fetched := rfl
@[simp] theorem State.raise_rr (s : State) (cls code info : Nat) (k : Option Nat) : (s.raise cls code info k).rr = s.rr := rfl
@[simp] theorem State.raise_rrCopy (s : State) (cls code info : Nat) (k : Option Nat) : (s.raise cls code info k).rrCopy = s.rrCopy := rfl
@[simp] theorem State.raise_launches (s : State) (cls code info : Nat) (k : Option Nat) : (s.raise cls code info k).launches = s.launches := rfl
@[simp] theorem State.raise_tasks (s : State) (cls code info : Nat) (k : Option Nat) : (s.raise cls code info k).tasks = s.tasks := rfl
@[simp] theorem State.raise_gangs (s : State) (cls code info : Nat) (k : Option Nat) : (s.raise cls code info k).gangs = s.gangs := rfl
@[simp] theorem State.raise_reservations (s : State) (cls code info : Nat) (k : Option Nat) : (s.raise cls code info k).reservations = s.reservations := rfl
@[simp] theorem State.raise_claims (s : State) (cls code info : Nat) (k : Option Nat) : (s.raise cls code info k).claims = s.claims := rfl
@[simp] theorem State.raise_powerUps (s : State) (cls code info : Nat) (k : Option Nat) : (s.raise cls code info k).powerUps = s.powerUps := rfl
@[simp] theorem State.raise_pendings (s : State) (cls code info : Nat) (k : Option Nat) : (s.raise cls code info k).pendings = s.pendings := rfl
@[simp] theorem State.raise_sends (s : State) (cls code info : Nat) (k : Option Nat) : (s.raise cls code info k).sends = s.sends := rfl
@[simp] theorem State.raise_colls (s : State) (cls code info : Nat) (k : Option Nat) : (s.raise cls code info k).colls = s.colls := rfl

/-! ### `State.holdGroup`: a hold of the group -/

@[simp] theorem State.holdGroup_now (s : State) : (s.holdGroup).now = s.now := rfl
@[simp] theorem State.holdGroup_agenda (s : State) : (s.holdGroup).agenda = s.agenda := rfl
@[simp] theorem State.holdGroup_calendar (s : State) : (s.holdGroup).calendar = s.calendar := rfl
@[simp] theorem State.holdGroup_issue (s : State) : (s.holdGroup).issue = { s.issue with hold := true } := rfl
@[simp] theorem State.holdGroup_mask (s : State) : (s.holdGroup).mask = s.mask := rfl
@[simp] theorem State.holdGroup_fgHeld (s : State) : (s.holdGroup).fgHeld = s.fgHeld := rfl
@[simp] theorem State.holdGroup_free (s : State) : (s.holdGroup).free = s.free := rfl
@[simp] theorem State.holdGroup_nextId (s : State) : (s.holdGroup).nextId = s.nextId := rfl
@[simp] theorem State.holdGroup_belfry (s : State) : (s.holdGroup).belfry = s.belfry := rfl
@[simp] theorem State.holdGroup_belfryOn (s : State) : (s.holdGroup).belfryOn = s.belfryOn := rfl
@[simp] theorem State.holdGroup_pkg (s : State) : (s.holdGroup).pkg = s.pkg := rfl
@[simp] theorem State.holdGroup_ready (s : State) : (s.holdGroup).ready = s.ready := rfl
@[simp] theorem State.holdGroup_stage (s : State) : (s.holdGroup).stage = s.stage := rfl
@[simp] theorem State.holdGroup_berr (s : State) : (s.holdGroup).berr = s.berr := rfl
@[simp] theorem State.holdGroup_pres (s : State) : (s.holdGroup).pres = s.pres := rfl
@[simp] theorem State.holdGroup_svc (s : State) : (s.holdGroup).svc = s.svc := rfl
@[simp] theorem State.holdGroup_retired (s : State) : (s.holdGroup).retired = s.retired := rfl
@[simp] theorem State.holdGroup_retiredFor (s : State) : (s.holdGroup).retiredFor = s.retiredFor := rfl
@[simp] theorem State.holdGroup_offline (s : State) : (s.holdGroup).offline = s.offline := rfl
@[simp] theorem State.holdGroup_degraded (s : State) : (s.holdGroup).degraded = s.degraded := rfl
@[simp] theorem State.holdGroup_bar2base (s : State) : (s.holdGroup).bar2base = s.bar2base := rfl
@[simp] theorem State.holdGroup_bar2size (s : State) : (s.holdGroup).bar2size = s.bar2size := rfl
@[simp] theorem State.holdGroup_offStat (s : State) : (s.holdGroup).offStat = s.offStat := rfl
@[simp] theorem State.holdGroup_offBusy (s : State) : (s.holdGroup).offBusy = s.offBusy := rfl
@[simp] theorem State.holdGroup_offReq (s : State) : (s.holdGroup).offReq = s.offReq := rfl
@[simp] theorem State.holdGroup_offMap (s : State) : (s.holdGroup).offMap = s.offMap := rfl
@[simp] theorem State.holdGroup_marg (s : State) : (s.holdGroup).marg = s.marg := rfl
@[simp] theorem State.holdGroup_mres (s : State) : (s.holdGroup).mres = s.mres := rfl
@[simp] theorem State.holdGroup_mcmdNow (s : State) : (s.holdGroup).mcmdNow = s.mcmdNow := rfl
@[simp] theorem State.holdGroup_invalFrom (s : State) : (s.holdGroup).invalFrom = s.invalFrom := rfl
@[simp] theorem State.holdGroup_psuba (s : State) : (s.holdGroup).psuba = s.psuba := rfl
@[simp] theorem State.holdGroup_psubl (s : State) : (s.holdGroup).psubl = s.psubl := rfl
@[simp] theorem State.holdGroup_pstat (s : State) : (s.holdGroup).pstat = s.pstat := rfl
@[simp] theorem State.holdGroup_proofing (s : State) : (s.holdGroup).proofing = s.proofing := rfl
@[simp] theorem State.holdGroup_pres64 (s : State) : (s.holdGroup).pres64 = s.pres64 := rfl
@[simp] theorem State.holdGroup_meas (s : State) : (s.holdGroup).meas = s.meas := rfl
@[simp] theorem State.holdGroup_therm (s : State) : (s.holdGroup).therm = s.therm := rfl
@[simp] theorem State.holdGroup_mpwr (s : State) : (s.holdGroup).mpwr = s.mpwr := rfl
@[simp] theorem State.holdGroup_plim (s : State) : (s.holdGroup).plim = s.plim := rfl
@[simp] theorem State.holdGroup_psts (s : State) : (s.holdGroup).psts = s.psts := rfl
@[simp] theorem State.holdGroup_overWindows (s : State) : (s.holdGroup).overWindows = s.overWindows := rfl
@[simp] theorem State.holdGroup_placeHold (s : State) : (s.holdGroup).placeHold = s.placeHold := rfl
@[simp] theorem State.holdGroup_shutDown (s : State) : (s.holdGroup).shutDown = s.shutDown := rfl
@[simp] theorem State.holdGroup_dumpIx (s : State) : (s.holdGroup).dumpIx = s.dumpIx := rfl
@[simp] theorem State.holdGroup_perf (s : State) : (s.holdGroup).perf = s.perf := rfl
@[simp] theorem State.holdGroup_flash (s : State) : (s.holdGroup).flash = s.flash := rfl
@[simp] theorem State.holdGroup_firmware (s : State) : (s.holdGroup).firmware = s.firmware := rfl
@[simp] theorem State.holdGroup_msixTable (s : State) : (s.holdGroup).msixTable = s.msixTable := rfl
@[simp] theorem State.holdGroup_msixPend (s : State) : (s.holdGroup).msixPend = s.msixPend := rfl
@[simp] theorem State.holdGroup_msixOn (s : State) : (s.holdGroup).msixOn = s.msixOn := rfl
@[simp] theorem State.holdGroup_msixAll (s : State) : (s.holdGroup).msixAll = s.msixAll := rfl
@[simp] theorem State.holdGroup_qpages (s : State) : (s.holdGroup).qpages = s.qpages := rfl
@[simp] theorem State.holdGroup_dies (s : State) : (s.holdGroup).dies = s.dies := rfl
@[simp] theorem State.holdGroup_hbm (s : State) : (s.holdGroup).hbm = s.hbm := rfl
@[simp] theorem State.holdGroup_poison (s : State) : (s.holdGroup).poison = s.poison := rfl
@[simp] theorem State.holdGroup_remap (s : State) : (s.holdGroup).remap = s.remap := rfl
@[simp] theorem State.holdGroup_lostFrames (s : State) : (s.holdGroup).lostFrames = s.lostFrames := rfl
@[simp] theorem State.holdGroup_scalarBook (s : State) : (s.holdGroup).scalarBook = s.scalarBook := rfl
@[simp] theorem State.holdGroup_elasticBook (s : State) : (s.holdGroup).elasticBook = s.elasticBook := rfl
@[simp] theorem State.holdGroup_claimed (s : State) : (s.holdGroup).claimed = s.claimed := rfl
@[simp] theorem State.holdGroup_edges (s : State) : (s.holdGroup).edges = s.edges := rfl
@[simp] theorem State.holdGroup_edgeLate (s : State) : (s.holdGroup).edgeLate = s.edgeLate := rfl
@[simp] theorem State.holdGroup_roots (s : State) : (s.holdGroup).roots = s.roots := rfl
@[simp] theorem State.holdGroup_fwd (s : State) : (s.holdGroup).fwd = s.fwd := rfl
@[simp] theorem State.holdGroup_baseTT (s : State) : (s.holdGroup).baseTT = s.baseTT := rfl
@[simp] theorem State.holdGroup_newTT (s : State) : (s.holdGroup).newTT = s.newTT := rfl
@[simp] theorem State.holdGroup_handlers (s : State) : (s.holdGroup).handlers = s.handlers := rfl
@[simp] theorem State.holdGroup_domain (s : State) : (s.holdGroup).domain = s.domain := rfl
@[simp] theorem State.holdGroup_flights (s : State) : (s.holdGroup).flights = s.flights := rfl
@[simp] theorem State.holdGroup_lanterns (s : State) : (s.holdGroup).lanterns = s.lanterns := rfl
@[simp] theorem State.holdGroup_lanternReqs (s : State) : (s.holdGroup).lanternReqs = s.lanternReqs := rfl
@[simp] theorem State.holdGroup_outbox (s : State) : (s.holdGroup).outbox = s.outbox := rfl
@[simp] theorem State.holdGroup_waitingOut (s : State) : (s.holdGroup).waitingOut = s.waitingOut := rfl
@[simp] theorem State.holdGroup_transit (s : State) : (s.holdGroup).transit = s.transit := rfl
@[simp] theorem State.holdGroup_elastic (s : State) : (s.holdGroup).elastic = s.elastic := rfl
@[simp] theorem State.holdGroup_hostOut (s : State) : (s.holdGroup).hostOut = s.hostOut := rfl
@[simp] theorem State.holdGroup_hostQ (s : State) : (s.holdGroup).hostQ = s.hostQ := rfl
@[simp] theorem State.holdGroup_control (s : State) : (s.holdGroup).control = s.control := rfl
@[simp] theorem State.holdGroup_images (s : State) : (s.holdGroup).images = s.images := rfl
@[simp] theorem State.holdGroup_queues (s : State) : (s.holdGroup).queues = s.queues := rfl
@[simp] theorem State.holdGroup_copies (s : State) : (s.holdGroup).copies = s.copies := rfl
@[simp] theorem State.holdGroup_fetched (s : State) : (s.holdGroup).fetched = s.fetched := rfl
@[simp] theorem State.holdGroup_rr (s : State) : (s.holdGroup).rr = s.rr := rfl
@[simp] theorem State.holdGroup_rrCopy (s : State) : (s.holdGroup).rrCopy = s.rrCopy := rfl
@[simp] theorem State.holdGroup_launches (s : State) : (s.holdGroup).launches = s.launches := rfl
@[simp] theorem State.holdGroup_tasks (s : State) : (s.holdGroup).tasks = s.tasks := rfl
@[simp] theorem State.holdGroup_gangs (s : State) : (s.holdGroup).gangs = s.gangs := rfl
@[simp] theorem State.holdGroup_reservations (s : State) : (s.holdGroup).reservations = s.reservations := rfl
@[simp] theorem State.holdGroup_claims (s : State) : (s.holdGroup).claims = s.claims := rfl
@[simp] theorem State.holdGroup_powerUps (s : State) : (s.holdGroup).powerUps = s.powerUps := rfl
@[simp] theorem State.holdGroup_pendings (s : State) : (s.holdGroup).pendings = s.pendings := rfl
@[simp] theorem State.holdGroup_sends (s : State) : (s.holdGroup).sends = s.sends := rfl
@[simp] theorem State.holdGroup_colls (s : State) : (s.holdGroup).colls = s.colls := rfl

/-! ### `State.waitTile`: a wait for a tile -/

@[simp] theorem State.waitTile_now (s : State) : (s.waitTile).now = s.now := rfl
@[simp] theorem State.waitTile_agenda (s : State) : (s.waitTile).agenda = s.agenda := rfl
@[simp] theorem State.waitTile_calendar (s : State) : (s.waitTile).calendar = s.calendar := rfl
@[simp] theorem State.waitTile_issue (s : State) : (s.waitTile).issue = { s.issue with tileWait := true } := rfl
@[simp] theorem State.waitTile_mask (s : State) : (s.waitTile).mask = s.mask := rfl
@[simp] theorem State.waitTile_fgHeld (s : State) : (s.waitTile).fgHeld = s.fgHeld := rfl
@[simp] theorem State.waitTile_free (s : State) : (s.waitTile).free = s.free := rfl
@[simp] theorem State.waitTile_nextId (s : State) : (s.waitTile).nextId = s.nextId := rfl
@[simp] theorem State.waitTile_belfry (s : State) : (s.waitTile).belfry = s.belfry := rfl
@[simp] theorem State.waitTile_belfryOn (s : State) : (s.waitTile).belfryOn = s.belfryOn := rfl
@[simp] theorem State.waitTile_pkg (s : State) : (s.waitTile).pkg = s.pkg := rfl
@[simp] theorem State.waitTile_ready (s : State) : (s.waitTile).ready = s.ready := rfl
@[simp] theorem State.waitTile_stage (s : State) : (s.waitTile).stage = s.stage := rfl
@[simp] theorem State.waitTile_berr (s : State) : (s.waitTile).berr = s.berr := rfl
@[simp] theorem State.waitTile_pres (s : State) : (s.waitTile).pres = s.pres := rfl
@[simp] theorem State.waitTile_svc (s : State) : (s.waitTile).svc = s.svc := rfl
@[simp] theorem State.waitTile_retired (s : State) : (s.waitTile).retired = s.retired := rfl
@[simp] theorem State.waitTile_retiredFor (s : State) : (s.waitTile).retiredFor = s.retiredFor := rfl
@[simp] theorem State.waitTile_offline (s : State) : (s.waitTile).offline = s.offline := rfl
@[simp] theorem State.waitTile_degraded (s : State) : (s.waitTile).degraded = s.degraded := rfl
@[simp] theorem State.waitTile_bar2base (s : State) : (s.waitTile).bar2base = s.bar2base := rfl
@[simp] theorem State.waitTile_bar2size (s : State) : (s.waitTile).bar2size = s.bar2size := rfl
@[simp] theorem State.waitTile_offStat (s : State) : (s.waitTile).offStat = s.offStat := rfl
@[simp] theorem State.waitTile_offBusy (s : State) : (s.waitTile).offBusy = s.offBusy := rfl
@[simp] theorem State.waitTile_offReq (s : State) : (s.waitTile).offReq = s.offReq := rfl
@[simp] theorem State.waitTile_offMap (s : State) : (s.waitTile).offMap = s.offMap := rfl
@[simp] theorem State.waitTile_marg (s : State) : (s.waitTile).marg = s.marg := rfl
@[simp] theorem State.waitTile_mres (s : State) : (s.waitTile).mres = s.mres := rfl
@[simp] theorem State.waitTile_mcmdNow (s : State) : (s.waitTile).mcmdNow = s.mcmdNow := rfl
@[simp] theorem State.waitTile_invalFrom (s : State) : (s.waitTile).invalFrom = s.invalFrom := rfl
@[simp] theorem State.waitTile_psuba (s : State) : (s.waitTile).psuba = s.psuba := rfl
@[simp] theorem State.waitTile_psubl (s : State) : (s.waitTile).psubl = s.psubl := rfl
@[simp] theorem State.waitTile_pstat (s : State) : (s.waitTile).pstat = s.pstat := rfl
@[simp] theorem State.waitTile_proofing (s : State) : (s.waitTile).proofing = s.proofing := rfl
@[simp] theorem State.waitTile_pres64 (s : State) : (s.waitTile).pres64 = s.pres64 := rfl
@[simp] theorem State.waitTile_meas (s : State) : (s.waitTile).meas = s.meas := rfl
@[simp] theorem State.waitTile_therm (s : State) : (s.waitTile).therm = s.therm := rfl
@[simp] theorem State.waitTile_mpwr (s : State) : (s.waitTile).mpwr = s.mpwr := rfl
@[simp] theorem State.waitTile_plim (s : State) : (s.waitTile).plim = s.plim := rfl
@[simp] theorem State.waitTile_psts (s : State) : (s.waitTile).psts = s.psts := rfl
@[simp] theorem State.waitTile_overWindows (s : State) : (s.waitTile).overWindows = s.overWindows := rfl
@[simp] theorem State.waitTile_placeHold (s : State) : (s.waitTile).placeHold = s.placeHold := rfl
@[simp] theorem State.waitTile_shutDown (s : State) : (s.waitTile).shutDown = s.shutDown := rfl
@[simp] theorem State.waitTile_dumpIx (s : State) : (s.waitTile).dumpIx = s.dumpIx := rfl
@[simp] theorem State.waitTile_perf (s : State) : (s.waitTile).perf = s.perf := rfl
@[simp] theorem State.waitTile_flash (s : State) : (s.waitTile).flash = s.flash := rfl
@[simp] theorem State.waitTile_firmware (s : State) : (s.waitTile).firmware = s.firmware := rfl
@[simp] theorem State.waitTile_msixTable (s : State) : (s.waitTile).msixTable = s.msixTable := rfl
@[simp] theorem State.waitTile_msixPend (s : State) : (s.waitTile).msixPend = s.msixPend := rfl
@[simp] theorem State.waitTile_msixOn (s : State) : (s.waitTile).msixOn = s.msixOn := rfl
@[simp] theorem State.waitTile_msixAll (s : State) : (s.waitTile).msixAll = s.msixAll := rfl
@[simp] theorem State.waitTile_qpages (s : State) : (s.waitTile).qpages = s.qpages := rfl
@[simp] theorem State.waitTile_dies (s : State) : (s.waitTile).dies = s.dies := rfl
@[simp] theorem State.waitTile_hbm (s : State) : (s.waitTile).hbm = s.hbm := rfl
@[simp] theorem State.waitTile_poison (s : State) : (s.waitTile).poison = s.poison := rfl
@[simp] theorem State.waitTile_remap (s : State) : (s.waitTile).remap = s.remap := rfl
@[simp] theorem State.waitTile_lostFrames (s : State) : (s.waitTile).lostFrames = s.lostFrames := rfl
@[simp] theorem State.waitTile_scalarBook (s : State) : (s.waitTile).scalarBook = s.scalarBook := rfl
@[simp] theorem State.waitTile_elasticBook (s : State) : (s.waitTile).elasticBook = s.elasticBook := rfl
@[simp] theorem State.waitTile_claimed (s : State) : (s.waitTile).claimed = s.claimed := rfl
@[simp] theorem State.waitTile_edges (s : State) : (s.waitTile).edges = s.edges := rfl
@[simp] theorem State.waitTile_edgeLate (s : State) : (s.waitTile).edgeLate = s.edgeLate := rfl
@[simp] theorem State.waitTile_roots (s : State) : (s.waitTile).roots = s.roots := rfl
@[simp] theorem State.waitTile_fwd (s : State) : (s.waitTile).fwd = s.fwd := rfl
@[simp] theorem State.waitTile_baseTT (s : State) : (s.waitTile).baseTT = s.baseTT := rfl
@[simp] theorem State.waitTile_newTT (s : State) : (s.waitTile).newTT = s.newTT := rfl
@[simp] theorem State.waitTile_handlers (s : State) : (s.waitTile).handlers = s.handlers := rfl
@[simp] theorem State.waitTile_domain (s : State) : (s.waitTile).domain = s.domain := rfl
@[simp] theorem State.waitTile_flights (s : State) : (s.waitTile).flights = s.flights := rfl
@[simp] theorem State.waitTile_lanterns (s : State) : (s.waitTile).lanterns = s.lanterns := rfl
@[simp] theorem State.waitTile_lanternReqs (s : State) : (s.waitTile).lanternReqs = s.lanternReqs := rfl
@[simp] theorem State.waitTile_outbox (s : State) : (s.waitTile).outbox = s.outbox := rfl
@[simp] theorem State.waitTile_waitingOut (s : State) : (s.waitTile).waitingOut = s.waitingOut := rfl
@[simp] theorem State.waitTile_transit (s : State) : (s.waitTile).transit = s.transit := rfl
@[simp] theorem State.waitTile_elastic (s : State) : (s.waitTile).elastic = s.elastic := rfl
@[simp] theorem State.waitTile_hostOut (s : State) : (s.waitTile).hostOut = s.hostOut := rfl
@[simp] theorem State.waitTile_hostQ (s : State) : (s.waitTile).hostQ = s.hostQ := rfl
@[simp] theorem State.waitTile_control (s : State) : (s.waitTile).control = s.control := rfl
@[simp] theorem State.waitTile_images (s : State) : (s.waitTile).images = s.images := rfl
@[simp] theorem State.waitTile_queues (s : State) : (s.waitTile).queues = s.queues := rfl
@[simp] theorem State.waitTile_copies (s : State) : (s.waitTile).copies = s.copies := rfl
@[simp] theorem State.waitTile_fetched (s : State) : (s.waitTile).fetched = s.fetched := rfl
@[simp] theorem State.waitTile_rr (s : State) : (s.waitTile).rr = s.rr := rfl
@[simp] theorem State.waitTile_rrCopy (s : State) : (s.waitTile).rrCopy = s.rrCopy := rfl
@[simp] theorem State.waitTile_launches (s : State) : (s.waitTile).launches = s.launches := rfl
@[simp] theorem State.waitTile_tasks (s : State) : (s.waitTile).tasks = s.tasks := rfl
@[simp] theorem State.waitTile_gangs (s : State) : (s.waitTile).gangs = s.gangs := rfl
@[simp] theorem State.waitTile_reservations (s : State) : (s.waitTile).reservations = s.reservations := rfl
@[simp] theorem State.waitTile_claims (s : State) : (s.waitTile).claims = s.claims := rfl
@[simp] theorem State.waitTile_powerUps (s : State) : (s.waitTile).powerUps = s.powerUps := rfl
@[simp] theorem State.waitTile_pendings (s : State) : (s.waitTile).pendings = s.pendings := rfl
@[simp] theorem State.waitTile_sends (s : State) : (s.waitTile).sends = s.sends := rfl
@[simp] theorem State.waitTile_colls (s : State) : (s.waitTile).colls = s.colls := rfl

/-! ### `State.modDie`: one die -/

@[simp] theorem State.modDie_now (s : State) (d : Nat) (f : Die → Die) : (s.modDie d f).now = s.now := rfl
@[simp] theorem State.modDie_agenda (s : State) (d : Nat) (f : Die → Die) : (s.modDie d f).agenda = s.agenda := rfl
@[simp] theorem State.modDie_calendar (s : State) (d : Nat) (f : Die → Die) : (s.modDie d f).calendar = s.calendar := rfl
@[simp] theorem State.modDie_issue (s : State) (d : Nat) (f : Die → Die) : (s.modDie d f).issue = s.issue := rfl
@[simp] theorem State.modDie_mask (s : State) (d : Nat) (f : Die → Die) : (s.modDie d f).mask = s.mask := rfl
@[simp] theorem State.modDie_fgHeld (s : State) (d : Nat) (f : Die → Die) : (s.modDie d f).fgHeld = s.fgHeld := rfl
@[simp] theorem State.modDie_free (s : State) (d : Nat) (f : Die → Die) : (s.modDie d f).free = s.free := rfl
@[simp] theorem State.modDie_nextId (s : State) (d : Nat) (f : Die → Die) : (s.modDie d f).nextId = s.nextId := rfl
@[simp] theorem State.modDie_belfry (s : State) (d : Nat) (f : Die → Die) : (s.modDie d f).belfry = s.belfry := rfl
@[simp] theorem State.modDie_belfryOn (s : State) (d : Nat) (f : Die → Die) : (s.modDie d f).belfryOn = s.belfryOn := rfl
@[simp] theorem State.modDie_pkg (s : State) (d : Nat) (f : Die → Die) : (s.modDie d f).pkg = s.pkg := rfl
@[simp] theorem State.modDie_ready (s : State) (d : Nat) (f : Die → Die) : (s.modDie d f).ready = s.ready := rfl
@[simp] theorem State.modDie_stage (s : State) (d : Nat) (f : Die → Die) : (s.modDie d f).stage = s.stage := rfl
@[simp] theorem State.modDie_berr (s : State) (d : Nat) (f : Die → Die) : (s.modDie d f).berr = s.berr := rfl
@[simp] theorem State.modDie_pres (s : State) (d : Nat) (f : Die → Die) : (s.modDie d f).pres = s.pres := rfl
@[simp] theorem State.modDie_svc (s : State) (d : Nat) (f : Die → Die) : (s.modDie d f).svc = s.svc := rfl
@[simp] theorem State.modDie_retired (s : State) (d : Nat) (f : Die → Die) : (s.modDie d f).retired = s.retired := rfl
@[simp] theorem State.modDie_retiredFor (s : State) (d : Nat) (f : Die → Die) : (s.modDie d f).retiredFor = s.retiredFor := rfl
@[simp] theorem State.modDie_offline (s : State) (d : Nat) (f : Die → Die) : (s.modDie d f).offline = s.offline := rfl
@[simp] theorem State.modDie_degraded (s : State) (d : Nat) (f : Die → Die) : (s.modDie d f).degraded = s.degraded := rfl
@[simp] theorem State.modDie_bar2base (s : State) (d : Nat) (f : Die → Die) : (s.modDie d f).bar2base = s.bar2base := rfl
@[simp] theorem State.modDie_bar2size (s : State) (d : Nat) (f : Die → Die) : (s.modDie d f).bar2size = s.bar2size := rfl
@[simp] theorem State.modDie_offStat (s : State) (d : Nat) (f : Die → Die) : (s.modDie d f).offStat = s.offStat := rfl
@[simp] theorem State.modDie_offBusy (s : State) (d : Nat) (f : Die → Die) : (s.modDie d f).offBusy = s.offBusy := rfl
@[simp] theorem State.modDie_offReq (s : State) (d : Nat) (f : Die → Die) : (s.modDie d f).offReq = s.offReq := rfl
@[simp] theorem State.modDie_offMap (s : State) (d : Nat) (f : Die → Die) : (s.modDie d f).offMap = s.offMap := rfl
@[simp] theorem State.modDie_marg (s : State) (d : Nat) (f : Die → Die) : (s.modDie d f).marg = s.marg := rfl
@[simp] theorem State.modDie_mres (s : State) (d : Nat) (f : Die → Die) : (s.modDie d f).mres = s.mres := rfl
@[simp] theorem State.modDie_mcmdNow (s : State) (d : Nat) (f : Die → Die) : (s.modDie d f).mcmdNow = s.mcmdNow := rfl
@[simp] theorem State.modDie_invalFrom (s : State) (d : Nat) (f : Die → Die) : (s.modDie d f).invalFrom = s.invalFrom := rfl
@[simp] theorem State.modDie_psuba (s : State) (d : Nat) (f : Die → Die) : (s.modDie d f).psuba = s.psuba := rfl
@[simp] theorem State.modDie_psubl (s : State) (d : Nat) (f : Die → Die) : (s.modDie d f).psubl = s.psubl := rfl
@[simp] theorem State.modDie_pstat (s : State) (d : Nat) (f : Die → Die) : (s.modDie d f).pstat = s.pstat := rfl
@[simp] theorem State.modDie_proofing (s : State) (d : Nat) (f : Die → Die) : (s.modDie d f).proofing = s.proofing := rfl
@[simp] theorem State.modDie_pres64 (s : State) (d : Nat) (f : Die → Die) : (s.modDie d f).pres64 = s.pres64 := rfl
@[simp] theorem State.modDie_meas (s : State) (d : Nat) (f : Die → Die) : (s.modDie d f).meas = s.meas := rfl
@[simp] theorem State.modDie_therm (s : State) (d : Nat) (f : Die → Die) : (s.modDie d f).therm = s.therm := rfl
@[simp] theorem State.modDie_mpwr (s : State) (d : Nat) (f : Die → Die) : (s.modDie d f).mpwr = s.mpwr := rfl
@[simp] theorem State.modDie_plim (s : State) (d : Nat) (f : Die → Die) : (s.modDie d f).plim = s.plim := rfl
@[simp] theorem State.modDie_psts (s : State) (d : Nat) (f : Die → Die) : (s.modDie d f).psts = s.psts := rfl
@[simp] theorem State.modDie_overWindows (s : State) (d : Nat) (f : Die → Die) : (s.modDie d f).overWindows = s.overWindows := rfl
@[simp] theorem State.modDie_placeHold (s : State) (d : Nat) (f : Die → Die) : (s.modDie d f).placeHold = s.placeHold := rfl
@[simp] theorem State.modDie_shutDown (s : State) (d : Nat) (f : Die → Die) : (s.modDie d f).shutDown = s.shutDown := rfl
@[simp] theorem State.modDie_dumpIx (s : State) (d : Nat) (f : Die → Die) : (s.modDie d f).dumpIx = s.dumpIx := rfl
@[simp] theorem State.modDie_perf (s : State) (d : Nat) (f : Die → Die) : (s.modDie d f).perf = s.perf := rfl
@[simp] theorem State.modDie_flash (s : State) (d : Nat) (f : Die → Die) : (s.modDie d f).flash = s.flash := rfl
@[simp] theorem State.modDie_firmware (s : State) (d : Nat) (f : Die → Die) : (s.modDie d f).firmware = s.firmware := rfl
@[simp] theorem State.modDie_msixTable (s : State) (d : Nat) (f : Die → Die) : (s.modDie d f).msixTable = s.msixTable := rfl
@[simp] theorem State.modDie_msixPend (s : State) (d : Nat) (f : Die → Die) : (s.modDie d f).msixPend = s.msixPend := rfl
@[simp] theorem State.modDie_msixOn (s : State) (d : Nat) (f : Die → Die) : (s.modDie d f).msixOn = s.msixOn := rfl
@[simp] theorem State.modDie_msixAll (s : State) (d : Nat) (f : Die → Die) : (s.modDie d f).msixAll = s.msixAll := rfl
@[simp] theorem State.modDie_qpages (s : State) (d : Nat) (f : Die → Die) : (s.modDie d f).qpages = s.qpages := rfl
@[simp] theorem State.modDie_dies (s : State) (d : Nat) (f : Die → Die) : (s.modDie d f).dies = tmod s.dies d f := rfl
@[simp] theorem State.modDie_hbm (s : State) (d : Nat) (f : Die → Die) : (s.modDie d f).hbm = s.hbm := rfl
@[simp] theorem State.modDie_poison (s : State) (d : Nat) (f : Die → Die) : (s.modDie d f).poison = s.poison := rfl
@[simp] theorem State.modDie_remap (s : State) (d : Nat) (f : Die → Die) : (s.modDie d f).remap = s.remap := rfl
@[simp] theorem State.modDie_lostFrames (s : State) (d : Nat) (f : Die → Die) : (s.modDie d f).lostFrames = s.lostFrames := rfl
@[simp] theorem State.modDie_scalarBook (s : State) (d : Nat) (f : Die → Die) : (s.modDie d f).scalarBook = s.scalarBook := rfl
@[simp] theorem State.modDie_elasticBook (s : State) (d : Nat) (f : Die → Die) : (s.modDie d f).elasticBook = s.elasticBook := rfl
@[simp] theorem State.modDie_claimed (s : State) (d : Nat) (f : Die → Die) : (s.modDie d f).claimed = s.claimed := rfl
@[simp] theorem State.modDie_edges (s : State) (d : Nat) (f : Die → Die) : (s.modDie d f).edges = s.edges := rfl
@[simp] theorem State.modDie_edgeLate (s : State) (d : Nat) (f : Die → Die) : (s.modDie d f).edgeLate = s.edgeLate := rfl
@[simp] theorem State.modDie_roots (s : State) (d : Nat) (f : Die → Die) : (s.modDie d f).roots = s.roots := rfl
@[simp] theorem State.modDie_fwd (s : State) (d : Nat) (f : Die → Die) : (s.modDie d f).fwd = s.fwd := rfl
@[simp] theorem State.modDie_baseTT (s : State) (d : Nat) (f : Die → Die) : (s.modDie d f).baseTT = s.baseTT := rfl
@[simp] theorem State.modDie_newTT (s : State) (d : Nat) (f : Die → Die) : (s.modDie d f).newTT = s.newTT := rfl
@[simp] theorem State.modDie_handlers (s : State) (d : Nat) (f : Die → Die) : (s.modDie d f).handlers = s.handlers := rfl
@[simp] theorem State.modDie_domain (s : State) (d : Nat) (f : Die → Die) : (s.modDie d f).domain = s.domain := rfl
@[simp] theorem State.modDie_flights (s : State) (d : Nat) (f : Die → Die) : (s.modDie d f).flights = s.flights := rfl
@[simp] theorem State.modDie_lanterns (s : State) (d : Nat) (f : Die → Die) : (s.modDie d f).lanterns = s.lanterns := rfl
@[simp] theorem State.modDie_lanternReqs (s : State) (d : Nat) (f : Die → Die) : (s.modDie d f).lanternReqs = s.lanternReqs := rfl
@[simp] theorem State.modDie_outbox (s : State) (d : Nat) (f : Die → Die) : (s.modDie d f).outbox = s.outbox := rfl
@[simp] theorem State.modDie_waitingOut (s : State) (d : Nat) (f : Die → Die) : (s.modDie d f).waitingOut = s.waitingOut := rfl
@[simp] theorem State.modDie_transit (s : State) (d : Nat) (f : Die → Die) : (s.modDie d f).transit = s.transit := rfl
@[simp] theorem State.modDie_elastic (s : State) (d : Nat) (f : Die → Die) : (s.modDie d f).elastic = s.elastic := rfl
@[simp] theorem State.modDie_hostOut (s : State) (d : Nat) (f : Die → Die) : (s.modDie d f).hostOut = s.hostOut := rfl
@[simp] theorem State.modDie_hostQ (s : State) (d : Nat) (f : Die → Die) : (s.modDie d f).hostQ = s.hostQ := rfl
@[simp] theorem State.modDie_control (s : State) (d : Nat) (f : Die → Die) : (s.modDie d f).control = s.control := rfl
@[simp] theorem State.modDie_images (s : State) (d : Nat) (f : Die → Die) : (s.modDie d f).images = s.images := rfl
@[simp] theorem State.modDie_queues (s : State) (d : Nat) (f : Die → Die) : (s.modDie d f).queues = s.queues := rfl
@[simp] theorem State.modDie_copies (s : State) (d : Nat) (f : Die → Die) : (s.modDie d f).copies = s.copies := rfl
@[simp] theorem State.modDie_fetched (s : State) (d : Nat) (f : Die → Die) : (s.modDie d f).fetched = s.fetched := rfl
@[simp] theorem State.modDie_rr (s : State) (d : Nat) (f : Die → Die) : (s.modDie d f).rr = s.rr := rfl
@[simp] theorem State.modDie_rrCopy (s : State) (d : Nat) (f : Die → Die) : (s.modDie d f).rrCopy = s.rrCopy := rfl
@[simp] theorem State.modDie_launches (s : State) (d : Nat) (f : Die → Die) : (s.modDie d f).launches = s.launches := rfl
@[simp] theorem State.modDie_tasks (s : State) (d : Nat) (f : Die → Die) : (s.modDie d f).tasks = s.tasks := rfl
@[simp] theorem State.modDie_gangs (s : State) (d : Nat) (f : Die → Die) : (s.modDie d f).gangs = s.gangs := rfl
@[simp] theorem State.modDie_reservations (s : State) (d : Nat) (f : Die → Die) : (s.modDie d f).reservations = s.reservations := rfl
@[simp] theorem State.modDie_claims (s : State) (d : Nat) (f : Die → Die) : (s.modDie d f).claims = s.claims := rfl
@[simp] theorem State.modDie_powerUps (s : State) (d : Nat) (f : Die → Die) : (s.modDie d f).powerUps = s.powerUps := rfl
@[simp] theorem State.modDie_pendings (s : State) (d : Nat) (f : Die → Die) : (s.modDie d f).pendings = s.pendings := rfl
@[simp] theorem State.modDie_sends (s : State) (d : Nat) (f : Die → Die) : (s.modDie d f).sends = s.sends := rfl
@[simp] theorem State.modDie_colls (s : State) (d : Nat) (f : Die → Die) : (s.modDie d f).colls = s.colls := rfl

/-! ### `State.modCtx`: one context -/

@[simp] theorem State.modCtx_now (s : State) (d c : Nat) (f : Ctx → Ctx) : (s.modCtx d c f).now = s.now := rfl
@[simp] theorem State.modCtx_agenda (s : State) (d c : Nat) (f : Ctx → Ctx) : (s.modCtx d c f).agenda = s.agenda := rfl
@[simp] theorem State.modCtx_calendar (s : State) (d c : Nat) (f : Ctx → Ctx) : (s.modCtx d c f).calendar = s.calendar := rfl
@[simp] theorem State.modCtx_issue (s : State) (d c : Nat) (f : Ctx → Ctx) : (s.modCtx d c f).issue = s.issue := rfl
@[simp] theorem State.modCtx_mask (s : State) (d c : Nat) (f : Ctx → Ctx) : (s.modCtx d c f).mask = s.mask := rfl
@[simp] theorem State.modCtx_fgHeld (s : State) (d c : Nat) (f : Ctx → Ctx) : (s.modCtx d c f).fgHeld = s.fgHeld := rfl
@[simp] theorem State.modCtx_free (s : State) (d c : Nat) (f : Ctx → Ctx) : (s.modCtx d c f).free = s.free := rfl
@[simp] theorem State.modCtx_nextId (s : State) (d c : Nat) (f : Ctx → Ctx) : (s.modCtx d c f).nextId = s.nextId := rfl
@[simp] theorem State.modCtx_belfry (s : State) (d c : Nat) (f : Ctx → Ctx) : (s.modCtx d c f).belfry = s.belfry := rfl
@[simp] theorem State.modCtx_belfryOn (s : State) (d c : Nat) (f : Ctx → Ctx) : (s.modCtx d c f).belfryOn = s.belfryOn := rfl
@[simp] theorem State.modCtx_pkg (s : State) (d c : Nat) (f : Ctx → Ctx) : (s.modCtx d c f).pkg = s.pkg := rfl
@[simp] theorem State.modCtx_ready (s : State) (d c : Nat) (f : Ctx → Ctx) : (s.modCtx d c f).ready = s.ready := rfl
@[simp] theorem State.modCtx_stage (s : State) (d c : Nat) (f : Ctx → Ctx) : (s.modCtx d c f).stage = s.stage := rfl
@[simp] theorem State.modCtx_berr (s : State) (d c : Nat) (f : Ctx → Ctx) : (s.modCtx d c f).berr = s.berr := rfl
@[simp] theorem State.modCtx_pres (s : State) (d c : Nat) (f : Ctx → Ctx) : (s.modCtx d c f).pres = s.pres := rfl
@[simp] theorem State.modCtx_svc (s : State) (d c : Nat) (f : Ctx → Ctx) : (s.modCtx d c f).svc = s.svc := rfl
@[simp] theorem State.modCtx_retired (s : State) (d c : Nat) (f : Ctx → Ctx) : (s.modCtx d c f).retired = s.retired := rfl
@[simp] theorem State.modCtx_retiredFor (s : State) (d c : Nat) (f : Ctx → Ctx) : (s.modCtx d c f).retiredFor = s.retiredFor := rfl
@[simp] theorem State.modCtx_offline (s : State) (d c : Nat) (f : Ctx → Ctx) : (s.modCtx d c f).offline = s.offline := rfl
@[simp] theorem State.modCtx_degraded (s : State) (d c : Nat) (f : Ctx → Ctx) : (s.modCtx d c f).degraded = s.degraded := rfl
@[simp] theorem State.modCtx_bar2base (s : State) (d c : Nat) (f : Ctx → Ctx) : (s.modCtx d c f).bar2base = s.bar2base := rfl
@[simp] theorem State.modCtx_bar2size (s : State) (d c : Nat) (f : Ctx → Ctx) : (s.modCtx d c f).bar2size = s.bar2size := rfl
@[simp] theorem State.modCtx_offStat (s : State) (d c : Nat) (f : Ctx → Ctx) : (s.modCtx d c f).offStat = s.offStat := rfl
@[simp] theorem State.modCtx_offBusy (s : State) (d c : Nat) (f : Ctx → Ctx) : (s.modCtx d c f).offBusy = s.offBusy := rfl
@[simp] theorem State.modCtx_offReq (s : State) (d c : Nat) (f : Ctx → Ctx) : (s.modCtx d c f).offReq = s.offReq := rfl
@[simp] theorem State.modCtx_offMap (s : State) (d c : Nat) (f : Ctx → Ctx) : (s.modCtx d c f).offMap = s.offMap := rfl
@[simp] theorem State.modCtx_marg (s : State) (d c : Nat) (f : Ctx → Ctx) : (s.modCtx d c f).marg = s.marg := rfl
@[simp] theorem State.modCtx_mres (s : State) (d c : Nat) (f : Ctx → Ctx) : (s.modCtx d c f).mres = s.mres := rfl
@[simp] theorem State.modCtx_mcmdNow (s : State) (d c : Nat) (f : Ctx → Ctx) : (s.modCtx d c f).mcmdNow = s.mcmdNow := rfl
@[simp] theorem State.modCtx_invalFrom (s : State) (d c : Nat) (f : Ctx → Ctx) : (s.modCtx d c f).invalFrom = s.invalFrom := rfl
@[simp] theorem State.modCtx_psuba (s : State) (d c : Nat) (f : Ctx → Ctx) : (s.modCtx d c f).psuba = s.psuba := rfl
@[simp] theorem State.modCtx_psubl (s : State) (d c : Nat) (f : Ctx → Ctx) : (s.modCtx d c f).psubl = s.psubl := rfl
@[simp] theorem State.modCtx_pstat (s : State) (d c : Nat) (f : Ctx → Ctx) : (s.modCtx d c f).pstat = s.pstat := rfl
@[simp] theorem State.modCtx_proofing (s : State) (d c : Nat) (f : Ctx → Ctx) : (s.modCtx d c f).proofing = s.proofing := rfl
@[simp] theorem State.modCtx_pres64 (s : State) (d c : Nat) (f : Ctx → Ctx) : (s.modCtx d c f).pres64 = s.pres64 := rfl
@[simp] theorem State.modCtx_meas (s : State) (d c : Nat) (f : Ctx → Ctx) : (s.modCtx d c f).meas = s.meas := rfl
@[simp] theorem State.modCtx_therm (s : State) (d c : Nat) (f : Ctx → Ctx) : (s.modCtx d c f).therm = s.therm := rfl
@[simp] theorem State.modCtx_mpwr (s : State) (d c : Nat) (f : Ctx → Ctx) : (s.modCtx d c f).mpwr = s.mpwr := rfl
@[simp] theorem State.modCtx_plim (s : State) (d c : Nat) (f : Ctx → Ctx) : (s.modCtx d c f).plim = s.plim := rfl
@[simp] theorem State.modCtx_psts (s : State) (d c : Nat) (f : Ctx → Ctx) : (s.modCtx d c f).psts = s.psts := rfl
@[simp] theorem State.modCtx_overWindows (s : State) (d c : Nat) (f : Ctx → Ctx) : (s.modCtx d c f).overWindows = s.overWindows := rfl
@[simp] theorem State.modCtx_placeHold (s : State) (d c : Nat) (f : Ctx → Ctx) : (s.modCtx d c f).placeHold = s.placeHold := rfl
@[simp] theorem State.modCtx_shutDown (s : State) (d c : Nat) (f : Ctx → Ctx) : (s.modCtx d c f).shutDown = s.shutDown := rfl
@[simp] theorem State.modCtx_dumpIx (s : State) (d c : Nat) (f : Ctx → Ctx) : (s.modCtx d c f).dumpIx = s.dumpIx := rfl
@[simp] theorem State.modCtx_perf (s : State) (d c : Nat) (f : Ctx → Ctx) : (s.modCtx d c f).perf = s.perf := rfl
@[simp] theorem State.modCtx_flash (s : State) (d c : Nat) (f : Ctx → Ctx) : (s.modCtx d c f).flash = s.flash := rfl
@[simp] theorem State.modCtx_firmware (s : State) (d c : Nat) (f : Ctx → Ctx) : (s.modCtx d c f).firmware = s.firmware := rfl
@[simp] theorem State.modCtx_msixTable (s : State) (d c : Nat) (f : Ctx → Ctx) : (s.modCtx d c f).msixTable = s.msixTable := rfl
@[simp] theorem State.modCtx_msixPend (s : State) (d c : Nat) (f : Ctx → Ctx) : (s.modCtx d c f).msixPend = s.msixPend := rfl
@[simp] theorem State.modCtx_msixOn (s : State) (d c : Nat) (f : Ctx → Ctx) : (s.modCtx d c f).msixOn = s.msixOn := rfl
@[simp] theorem State.modCtx_msixAll (s : State) (d c : Nat) (f : Ctx → Ctx) : (s.modCtx d c f).msixAll = s.msixAll := rfl
@[simp] theorem State.modCtx_qpages (s : State) (d c : Nat) (f : Ctx → Ctx) : (s.modCtx d c f).qpages = s.qpages := rfl
@[simp] theorem State.modCtx_dies (s : State) (d c : Nat) (f : Ctx → Ctx) : (s.modCtx d c f).dies = tmod s.dies d fun x => { x with ctx := tmod x.ctx c f } := rfl
@[simp] theorem State.modCtx_hbm (s : State) (d c : Nat) (f : Ctx → Ctx) : (s.modCtx d c f).hbm = s.hbm := rfl
@[simp] theorem State.modCtx_poison (s : State) (d c : Nat) (f : Ctx → Ctx) : (s.modCtx d c f).poison = s.poison := rfl
@[simp] theorem State.modCtx_remap (s : State) (d c : Nat) (f : Ctx → Ctx) : (s.modCtx d c f).remap = s.remap := rfl
@[simp] theorem State.modCtx_lostFrames (s : State) (d c : Nat) (f : Ctx → Ctx) : (s.modCtx d c f).lostFrames = s.lostFrames := rfl
@[simp] theorem State.modCtx_scalarBook (s : State) (d c : Nat) (f : Ctx → Ctx) : (s.modCtx d c f).scalarBook = s.scalarBook := rfl
@[simp] theorem State.modCtx_elasticBook (s : State) (d c : Nat) (f : Ctx → Ctx) : (s.modCtx d c f).elasticBook = s.elasticBook := rfl
@[simp] theorem State.modCtx_claimed (s : State) (d c : Nat) (f : Ctx → Ctx) : (s.modCtx d c f).claimed = s.claimed := rfl
@[simp] theorem State.modCtx_edges (s : State) (d c : Nat) (f : Ctx → Ctx) : (s.modCtx d c f).edges = s.edges := rfl
@[simp] theorem State.modCtx_edgeLate (s : State) (d c : Nat) (f : Ctx → Ctx) : (s.modCtx d c f).edgeLate = s.edgeLate := rfl
@[simp] theorem State.modCtx_roots (s : State) (d c : Nat) (f : Ctx → Ctx) : (s.modCtx d c f).roots = s.roots := rfl
@[simp] theorem State.modCtx_fwd (s : State) (d c : Nat) (f : Ctx → Ctx) : (s.modCtx d c f).fwd = s.fwd := rfl
@[simp] theorem State.modCtx_baseTT (s : State) (d c : Nat) (f : Ctx → Ctx) : (s.modCtx d c f).baseTT = s.baseTT := rfl
@[simp] theorem State.modCtx_newTT (s : State) (d c : Nat) (f : Ctx → Ctx) : (s.modCtx d c f).newTT = s.newTT := rfl
@[simp] theorem State.modCtx_handlers (s : State) (d c : Nat) (f : Ctx → Ctx) : (s.modCtx d c f).handlers = s.handlers := rfl
@[simp] theorem State.modCtx_domain (s : State) (d c : Nat) (f : Ctx → Ctx) : (s.modCtx d c f).domain = s.domain := rfl
@[simp] theorem State.modCtx_flights (s : State) (d c : Nat) (f : Ctx → Ctx) : (s.modCtx d c f).flights = s.flights := rfl
@[simp] theorem State.modCtx_lanterns (s : State) (d c : Nat) (f : Ctx → Ctx) : (s.modCtx d c f).lanterns = s.lanterns := rfl
@[simp] theorem State.modCtx_lanternReqs (s : State) (d c : Nat) (f : Ctx → Ctx) : (s.modCtx d c f).lanternReqs = s.lanternReqs := rfl
@[simp] theorem State.modCtx_outbox (s : State) (d c : Nat) (f : Ctx → Ctx) : (s.modCtx d c f).outbox = s.outbox := rfl
@[simp] theorem State.modCtx_waitingOut (s : State) (d c : Nat) (f : Ctx → Ctx) : (s.modCtx d c f).waitingOut = s.waitingOut := rfl
@[simp] theorem State.modCtx_transit (s : State) (d c : Nat) (f : Ctx → Ctx) : (s.modCtx d c f).transit = s.transit := rfl
@[simp] theorem State.modCtx_elastic (s : State) (d c : Nat) (f : Ctx → Ctx) : (s.modCtx d c f).elastic = s.elastic := rfl
@[simp] theorem State.modCtx_hostOut (s : State) (d c : Nat) (f : Ctx → Ctx) : (s.modCtx d c f).hostOut = s.hostOut := rfl
@[simp] theorem State.modCtx_hostQ (s : State) (d c : Nat) (f : Ctx → Ctx) : (s.modCtx d c f).hostQ = s.hostQ := rfl
@[simp] theorem State.modCtx_control (s : State) (d c : Nat) (f : Ctx → Ctx) : (s.modCtx d c f).control = s.control := rfl
@[simp] theorem State.modCtx_images (s : State) (d c : Nat) (f : Ctx → Ctx) : (s.modCtx d c f).images = s.images := rfl
@[simp] theorem State.modCtx_queues (s : State) (d c : Nat) (f : Ctx → Ctx) : (s.modCtx d c f).queues = s.queues := rfl
@[simp] theorem State.modCtx_copies (s : State) (d c : Nat) (f : Ctx → Ctx) : (s.modCtx d c f).copies = s.copies := rfl
@[simp] theorem State.modCtx_fetched (s : State) (d c : Nat) (f : Ctx → Ctx) : (s.modCtx d c f).fetched = s.fetched := rfl
@[simp] theorem State.modCtx_rr (s : State) (d c : Nat) (f : Ctx → Ctx) : (s.modCtx d c f).rr = s.rr := rfl
@[simp] theorem State.modCtx_rrCopy (s : State) (d c : Nat) (f : Ctx → Ctx) : (s.modCtx d c f).rrCopy = s.rrCopy := rfl
@[simp] theorem State.modCtx_launches (s : State) (d c : Nat) (f : Ctx → Ctx) : (s.modCtx d c f).launches = s.launches := rfl
@[simp] theorem State.modCtx_tasks (s : State) (d c : Nat) (f : Ctx → Ctx) : (s.modCtx d c f).tasks = s.tasks := rfl
@[simp] theorem State.modCtx_gangs (s : State) (d c : Nat) (f : Ctx → Ctx) : (s.modCtx d c f).gangs = s.gangs := rfl
@[simp] theorem State.modCtx_reservations (s : State) (d c : Nat) (f : Ctx → Ctx) : (s.modCtx d c f).reservations = s.reservations := rfl
@[simp] theorem State.modCtx_claims (s : State) (d c : Nat) (f : Ctx → Ctx) : (s.modCtx d c f).claims = s.claims := rfl
@[simp] theorem State.modCtx_powerUps (s : State) (d c : Nat) (f : Ctx → Ctx) : (s.modCtx d c f).powerUps = s.powerUps := rfl
@[simp] theorem State.modCtx_pendings (s : State) (d c : Nat) (f : Ctx → Ctx) : (s.modCtx d c f).pendings = s.pendings := rfl
@[simp] theorem State.modCtx_sends (s : State) (d c : Nat) (f : Ctx → Ctx) : (s.modCtx d c f).sends = s.sends := rfl
@[simp] theorem State.modCtx_colls (s : State) (d c : Nat) (f : Ctx → Ctx) : (s.modCtx d c f).colls = s.colls := rfl

/-! ### `State.modArch`: a context's captured part -/

@[simp] theorem State.modArch_now (s : State) (d c : Nat) (f : Arch → Arch) : (s.modArch d c f).now = s.now := rfl
@[simp] theorem State.modArch_agenda (s : State) (d c : Nat) (f : Arch → Arch) : (s.modArch d c f).agenda = s.agenda := rfl
@[simp] theorem State.modArch_calendar (s : State) (d c : Nat) (f : Arch → Arch) : (s.modArch d c f).calendar = s.calendar := rfl
@[simp] theorem State.modArch_issue (s : State) (d c : Nat) (f : Arch → Arch) : (s.modArch d c f).issue = s.issue := rfl
@[simp] theorem State.modArch_mask (s : State) (d c : Nat) (f : Arch → Arch) : (s.modArch d c f).mask = s.mask := rfl
@[simp] theorem State.modArch_fgHeld (s : State) (d c : Nat) (f : Arch → Arch) : (s.modArch d c f).fgHeld = s.fgHeld := rfl
@[simp] theorem State.modArch_free (s : State) (d c : Nat) (f : Arch → Arch) : (s.modArch d c f).free = s.free := rfl
@[simp] theorem State.modArch_nextId (s : State) (d c : Nat) (f : Arch → Arch) : (s.modArch d c f).nextId = s.nextId := rfl
@[simp] theorem State.modArch_belfry (s : State) (d c : Nat) (f : Arch → Arch) : (s.modArch d c f).belfry = s.belfry := rfl
@[simp] theorem State.modArch_belfryOn (s : State) (d c : Nat) (f : Arch → Arch) : (s.modArch d c f).belfryOn = s.belfryOn := rfl
@[simp] theorem State.modArch_pkg (s : State) (d c : Nat) (f : Arch → Arch) : (s.modArch d c f).pkg = s.pkg := rfl
@[simp] theorem State.modArch_ready (s : State) (d c : Nat) (f : Arch → Arch) : (s.modArch d c f).ready = s.ready := rfl
@[simp] theorem State.modArch_stage (s : State) (d c : Nat) (f : Arch → Arch) : (s.modArch d c f).stage = s.stage := rfl
@[simp] theorem State.modArch_berr (s : State) (d c : Nat) (f : Arch → Arch) : (s.modArch d c f).berr = s.berr := rfl
@[simp] theorem State.modArch_pres (s : State) (d c : Nat) (f : Arch → Arch) : (s.modArch d c f).pres = s.pres := rfl
@[simp] theorem State.modArch_svc (s : State) (d c : Nat) (f : Arch → Arch) : (s.modArch d c f).svc = s.svc := rfl
@[simp] theorem State.modArch_retired (s : State) (d c : Nat) (f : Arch → Arch) : (s.modArch d c f).retired = s.retired := rfl
@[simp] theorem State.modArch_retiredFor (s : State) (d c : Nat) (f : Arch → Arch) : (s.modArch d c f).retiredFor = s.retiredFor := rfl
@[simp] theorem State.modArch_offline (s : State) (d c : Nat) (f : Arch → Arch) : (s.modArch d c f).offline = s.offline := rfl
@[simp] theorem State.modArch_degraded (s : State) (d c : Nat) (f : Arch → Arch) : (s.modArch d c f).degraded = s.degraded := rfl
@[simp] theorem State.modArch_bar2base (s : State) (d c : Nat) (f : Arch → Arch) : (s.modArch d c f).bar2base = s.bar2base := rfl
@[simp] theorem State.modArch_bar2size (s : State) (d c : Nat) (f : Arch → Arch) : (s.modArch d c f).bar2size = s.bar2size := rfl
@[simp] theorem State.modArch_offStat (s : State) (d c : Nat) (f : Arch → Arch) : (s.modArch d c f).offStat = s.offStat := rfl
@[simp] theorem State.modArch_offBusy (s : State) (d c : Nat) (f : Arch → Arch) : (s.modArch d c f).offBusy = s.offBusy := rfl
@[simp] theorem State.modArch_offReq (s : State) (d c : Nat) (f : Arch → Arch) : (s.modArch d c f).offReq = s.offReq := rfl
@[simp] theorem State.modArch_offMap (s : State) (d c : Nat) (f : Arch → Arch) : (s.modArch d c f).offMap = s.offMap := rfl
@[simp] theorem State.modArch_marg (s : State) (d c : Nat) (f : Arch → Arch) : (s.modArch d c f).marg = s.marg := rfl
@[simp] theorem State.modArch_mres (s : State) (d c : Nat) (f : Arch → Arch) : (s.modArch d c f).mres = s.mres := rfl
@[simp] theorem State.modArch_mcmdNow (s : State) (d c : Nat) (f : Arch → Arch) : (s.modArch d c f).mcmdNow = s.mcmdNow := rfl
@[simp] theorem State.modArch_invalFrom (s : State) (d c : Nat) (f : Arch → Arch) : (s.modArch d c f).invalFrom = s.invalFrom := rfl
@[simp] theorem State.modArch_psuba (s : State) (d c : Nat) (f : Arch → Arch) : (s.modArch d c f).psuba = s.psuba := rfl
@[simp] theorem State.modArch_psubl (s : State) (d c : Nat) (f : Arch → Arch) : (s.modArch d c f).psubl = s.psubl := rfl
@[simp] theorem State.modArch_pstat (s : State) (d c : Nat) (f : Arch → Arch) : (s.modArch d c f).pstat = s.pstat := rfl
@[simp] theorem State.modArch_proofing (s : State) (d c : Nat) (f : Arch → Arch) : (s.modArch d c f).proofing = s.proofing := rfl
@[simp] theorem State.modArch_pres64 (s : State) (d c : Nat) (f : Arch → Arch) : (s.modArch d c f).pres64 = s.pres64 := rfl
@[simp] theorem State.modArch_meas (s : State) (d c : Nat) (f : Arch → Arch) : (s.modArch d c f).meas = s.meas := rfl
@[simp] theorem State.modArch_therm (s : State) (d c : Nat) (f : Arch → Arch) : (s.modArch d c f).therm = s.therm := rfl
@[simp] theorem State.modArch_mpwr (s : State) (d c : Nat) (f : Arch → Arch) : (s.modArch d c f).mpwr = s.mpwr := rfl
@[simp] theorem State.modArch_plim (s : State) (d c : Nat) (f : Arch → Arch) : (s.modArch d c f).plim = s.plim := rfl
@[simp] theorem State.modArch_psts (s : State) (d c : Nat) (f : Arch → Arch) : (s.modArch d c f).psts = s.psts := rfl
@[simp] theorem State.modArch_overWindows (s : State) (d c : Nat) (f : Arch → Arch) : (s.modArch d c f).overWindows = s.overWindows := rfl
@[simp] theorem State.modArch_placeHold (s : State) (d c : Nat) (f : Arch → Arch) : (s.modArch d c f).placeHold = s.placeHold := rfl
@[simp] theorem State.modArch_shutDown (s : State) (d c : Nat) (f : Arch → Arch) : (s.modArch d c f).shutDown = s.shutDown := rfl
@[simp] theorem State.modArch_dumpIx (s : State) (d c : Nat) (f : Arch → Arch) : (s.modArch d c f).dumpIx = s.dumpIx := rfl
@[simp] theorem State.modArch_perf (s : State) (d c : Nat) (f : Arch → Arch) : (s.modArch d c f).perf = s.perf := rfl
@[simp] theorem State.modArch_flash (s : State) (d c : Nat) (f : Arch → Arch) : (s.modArch d c f).flash = s.flash := rfl
@[simp] theorem State.modArch_firmware (s : State) (d c : Nat) (f : Arch → Arch) : (s.modArch d c f).firmware = s.firmware := rfl
@[simp] theorem State.modArch_msixTable (s : State) (d c : Nat) (f : Arch → Arch) : (s.modArch d c f).msixTable = s.msixTable := rfl
@[simp] theorem State.modArch_msixPend (s : State) (d c : Nat) (f : Arch → Arch) : (s.modArch d c f).msixPend = s.msixPend := rfl
@[simp] theorem State.modArch_msixOn (s : State) (d c : Nat) (f : Arch → Arch) : (s.modArch d c f).msixOn = s.msixOn := rfl
@[simp] theorem State.modArch_msixAll (s : State) (d c : Nat) (f : Arch → Arch) : (s.modArch d c f).msixAll = s.msixAll := rfl
@[simp] theorem State.modArch_qpages (s : State) (d c : Nat) (f : Arch → Arch) : (s.modArch d c f).qpages = s.qpages := rfl
@[simp] theorem State.modArch_dies (s : State) (d c : Nat) (f : Arch → Arch) : (s.modArch d c f).dies = tmod s.dies d fun x => { x with ctx := tmod x.ctx c fun y => { y with arch := f y.arch } } := rfl
@[simp] theorem State.modArch_hbm (s : State) (d c : Nat) (f : Arch → Arch) : (s.modArch d c f).hbm = s.hbm := rfl
@[simp] theorem State.modArch_poison (s : State) (d c : Nat) (f : Arch → Arch) : (s.modArch d c f).poison = s.poison := rfl
@[simp] theorem State.modArch_remap (s : State) (d c : Nat) (f : Arch → Arch) : (s.modArch d c f).remap = s.remap := rfl
@[simp] theorem State.modArch_lostFrames (s : State) (d c : Nat) (f : Arch → Arch) : (s.modArch d c f).lostFrames = s.lostFrames := rfl
@[simp] theorem State.modArch_scalarBook (s : State) (d c : Nat) (f : Arch → Arch) : (s.modArch d c f).scalarBook = s.scalarBook := rfl
@[simp] theorem State.modArch_elasticBook (s : State) (d c : Nat) (f : Arch → Arch) : (s.modArch d c f).elasticBook = s.elasticBook := rfl
@[simp] theorem State.modArch_claimed (s : State) (d c : Nat) (f : Arch → Arch) : (s.modArch d c f).claimed = s.claimed := rfl
@[simp] theorem State.modArch_edges (s : State) (d c : Nat) (f : Arch → Arch) : (s.modArch d c f).edges = s.edges := rfl
@[simp] theorem State.modArch_edgeLate (s : State) (d c : Nat) (f : Arch → Arch) : (s.modArch d c f).edgeLate = s.edgeLate := rfl
@[simp] theorem State.modArch_roots (s : State) (d c : Nat) (f : Arch → Arch) : (s.modArch d c f).roots = s.roots := rfl
@[simp] theorem State.modArch_fwd (s : State) (d c : Nat) (f : Arch → Arch) : (s.modArch d c f).fwd = s.fwd := rfl
@[simp] theorem State.modArch_baseTT (s : State) (d c : Nat) (f : Arch → Arch) : (s.modArch d c f).baseTT = s.baseTT := rfl
@[simp] theorem State.modArch_newTT (s : State) (d c : Nat) (f : Arch → Arch) : (s.modArch d c f).newTT = s.newTT := rfl
@[simp] theorem State.modArch_handlers (s : State) (d c : Nat) (f : Arch → Arch) : (s.modArch d c f).handlers = s.handlers := rfl
@[simp] theorem State.modArch_domain (s : State) (d c : Nat) (f : Arch → Arch) : (s.modArch d c f).domain = s.domain := rfl
@[simp] theorem State.modArch_flights (s : State) (d c : Nat) (f : Arch → Arch) : (s.modArch d c f).flights = s.flights := rfl
@[simp] theorem State.modArch_lanterns (s : State) (d c : Nat) (f : Arch → Arch) : (s.modArch d c f).lanterns = s.lanterns := rfl
@[simp] theorem State.modArch_lanternReqs (s : State) (d c : Nat) (f : Arch → Arch) : (s.modArch d c f).lanternReqs = s.lanternReqs := rfl
@[simp] theorem State.modArch_outbox (s : State) (d c : Nat) (f : Arch → Arch) : (s.modArch d c f).outbox = s.outbox := rfl
@[simp] theorem State.modArch_waitingOut (s : State) (d c : Nat) (f : Arch → Arch) : (s.modArch d c f).waitingOut = s.waitingOut := rfl
@[simp] theorem State.modArch_transit (s : State) (d c : Nat) (f : Arch → Arch) : (s.modArch d c f).transit = s.transit := rfl
@[simp] theorem State.modArch_elastic (s : State) (d c : Nat) (f : Arch → Arch) : (s.modArch d c f).elastic = s.elastic := rfl
@[simp] theorem State.modArch_hostOut (s : State) (d c : Nat) (f : Arch → Arch) : (s.modArch d c f).hostOut = s.hostOut := rfl
@[simp] theorem State.modArch_hostQ (s : State) (d c : Nat) (f : Arch → Arch) : (s.modArch d c f).hostQ = s.hostQ := rfl
@[simp] theorem State.modArch_control (s : State) (d c : Nat) (f : Arch → Arch) : (s.modArch d c f).control = s.control := rfl
@[simp] theorem State.modArch_images (s : State) (d c : Nat) (f : Arch → Arch) : (s.modArch d c f).images = s.images := rfl
@[simp] theorem State.modArch_queues (s : State) (d c : Nat) (f : Arch → Arch) : (s.modArch d c f).queues = s.queues := rfl
@[simp] theorem State.modArch_copies (s : State) (d c : Nat) (f : Arch → Arch) : (s.modArch d c f).copies = s.copies := rfl
@[simp] theorem State.modArch_fetched (s : State) (d c : Nat) (f : Arch → Arch) : (s.modArch d c f).fetched = s.fetched := rfl
@[simp] theorem State.modArch_rr (s : State) (d c : Nat) (f : Arch → Arch) : (s.modArch d c f).rr = s.rr := rfl
@[simp] theorem State.modArch_rrCopy (s : State) (d c : Nat) (f : Arch → Arch) : (s.modArch d c f).rrCopy = s.rrCopy := rfl
@[simp] theorem State.modArch_launches (s : State) (d c : Nat) (f : Arch → Arch) : (s.modArch d c f).launches = s.launches := rfl
@[simp] theorem State.modArch_tasks (s : State) (d c : Nat) (f : Arch → Arch) : (s.modArch d c f).tasks = s.tasks := rfl
@[simp] theorem State.modArch_gangs (s : State) (d c : Nat) (f : Arch → Arch) : (s.modArch d c f).gangs = s.gangs := rfl
@[simp] theorem State.modArch_reservations (s : State) (d c : Nat) (f : Arch → Arch) : (s.modArch d c f).reservations = s.reservations := rfl
@[simp] theorem State.modArch_claims (s : State) (d c : Nat) (f : Arch → Arch) : (s.modArch d c f).claims = s.claims := rfl
@[simp] theorem State.modArch_powerUps (s : State) (d c : Nat) (f : Arch → Arch) : (s.modArch d c f).powerUps = s.powerUps := rfl
@[simp] theorem State.modArch_pendings (s : State) (d c : Nat) (f : Arch → Arch) : (s.modArch d c f).pendings = s.pendings := rfl
@[simp] theorem State.modArch_sends (s : State) (d c : Nat) (f : Arch → Arch) : (s.modArch d c f).sends = s.sends := rfl
@[simp] theorem State.modArch_colls (s : State) (d c : Nat) (f : Arch → Arch) : (s.modArch d c f).colls = s.colls := rfl

/-! ### `State.modGang`: one gang -/

@[simp] theorem State.modGang_now (s : State) (g : Nat) (f : Gang → Gang) : (s.modGang g f).now = s.now := rfl
@[simp] theorem State.modGang_agenda (s : State) (g : Nat) (f : Gang → Gang) : (s.modGang g f).agenda = s.agenda := rfl
@[simp] theorem State.modGang_calendar (s : State) (g : Nat) (f : Gang → Gang) : (s.modGang g f).calendar = s.calendar := rfl
@[simp] theorem State.modGang_issue (s : State) (g : Nat) (f : Gang → Gang) : (s.modGang g f).issue = s.issue := rfl
@[simp] theorem State.modGang_mask (s : State) (g : Nat) (f : Gang → Gang) : (s.modGang g f).mask = s.mask := rfl
@[simp] theorem State.modGang_fgHeld (s : State) (g : Nat) (f : Gang → Gang) : (s.modGang g f).fgHeld = s.fgHeld := rfl
@[simp] theorem State.modGang_free (s : State) (g : Nat) (f : Gang → Gang) : (s.modGang g f).free = s.free := rfl
@[simp] theorem State.modGang_nextId (s : State) (g : Nat) (f : Gang → Gang) : (s.modGang g f).nextId = s.nextId := rfl
@[simp] theorem State.modGang_belfry (s : State) (g : Nat) (f : Gang → Gang) : (s.modGang g f).belfry = s.belfry := rfl
@[simp] theorem State.modGang_belfryOn (s : State) (g : Nat) (f : Gang → Gang) : (s.modGang g f).belfryOn = s.belfryOn := rfl
@[simp] theorem State.modGang_pkg (s : State) (g : Nat) (f : Gang → Gang) : (s.modGang g f).pkg = s.pkg := rfl
@[simp] theorem State.modGang_ready (s : State) (g : Nat) (f : Gang → Gang) : (s.modGang g f).ready = s.ready := rfl
@[simp] theorem State.modGang_stage (s : State) (g : Nat) (f : Gang → Gang) : (s.modGang g f).stage = s.stage := rfl
@[simp] theorem State.modGang_berr (s : State) (g : Nat) (f : Gang → Gang) : (s.modGang g f).berr = s.berr := rfl
@[simp] theorem State.modGang_pres (s : State) (g : Nat) (f : Gang → Gang) : (s.modGang g f).pres = s.pres := rfl
@[simp] theorem State.modGang_svc (s : State) (g : Nat) (f : Gang → Gang) : (s.modGang g f).svc = s.svc := rfl
@[simp] theorem State.modGang_retired (s : State) (g : Nat) (f : Gang → Gang) : (s.modGang g f).retired = s.retired := rfl
@[simp] theorem State.modGang_retiredFor (s : State) (g : Nat) (f : Gang → Gang) : (s.modGang g f).retiredFor = s.retiredFor := rfl
@[simp] theorem State.modGang_offline (s : State) (g : Nat) (f : Gang → Gang) : (s.modGang g f).offline = s.offline := rfl
@[simp] theorem State.modGang_degraded (s : State) (g : Nat) (f : Gang → Gang) : (s.modGang g f).degraded = s.degraded := rfl
@[simp] theorem State.modGang_bar2base (s : State) (g : Nat) (f : Gang → Gang) : (s.modGang g f).bar2base = s.bar2base := rfl
@[simp] theorem State.modGang_bar2size (s : State) (g : Nat) (f : Gang → Gang) : (s.modGang g f).bar2size = s.bar2size := rfl
@[simp] theorem State.modGang_offStat (s : State) (g : Nat) (f : Gang → Gang) : (s.modGang g f).offStat = s.offStat := rfl
@[simp] theorem State.modGang_offBusy (s : State) (g : Nat) (f : Gang → Gang) : (s.modGang g f).offBusy = s.offBusy := rfl
@[simp] theorem State.modGang_offReq (s : State) (g : Nat) (f : Gang → Gang) : (s.modGang g f).offReq = s.offReq := rfl
@[simp] theorem State.modGang_offMap (s : State) (g : Nat) (f : Gang → Gang) : (s.modGang g f).offMap = s.offMap := rfl
@[simp] theorem State.modGang_marg (s : State) (g : Nat) (f : Gang → Gang) : (s.modGang g f).marg = s.marg := rfl
@[simp] theorem State.modGang_mres (s : State) (g : Nat) (f : Gang → Gang) : (s.modGang g f).mres = s.mres := rfl
@[simp] theorem State.modGang_mcmdNow (s : State) (g : Nat) (f : Gang → Gang) : (s.modGang g f).mcmdNow = s.mcmdNow := rfl
@[simp] theorem State.modGang_invalFrom (s : State) (g : Nat) (f : Gang → Gang) : (s.modGang g f).invalFrom = s.invalFrom := rfl
@[simp] theorem State.modGang_psuba (s : State) (g : Nat) (f : Gang → Gang) : (s.modGang g f).psuba = s.psuba := rfl
@[simp] theorem State.modGang_psubl (s : State) (g : Nat) (f : Gang → Gang) : (s.modGang g f).psubl = s.psubl := rfl
@[simp] theorem State.modGang_pstat (s : State) (g : Nat) (f : Gang → Gang) : (s.modGang g f).pstat = s.pstat := rfl
@[simp] theorem State.modGang_proofing (s : State) (g : Nat) (f : Gang → Gang) : (s.modGang g f).proofing = s.proofing := rfl
@[simp] theorem State.modGang_pres64 (s : State) (g : Nat) (f : Gang → Gang) : (s.modGang g f).pres64 = s.pres64 := rfl
@[simp] theorem State.modGang_meas (s : State) (g : Nat) (f : Gang → Gang) : (s.modGang g f).meas = s.meas := rfl
@[simp] theorem State.modGang_therm (s : State) (g : Nat) (f : Gang → Gang) : (s.modGang g f).therm = s.therm := rfl
@[simp] theorem State.modGang_mpwr (s : State) (g : Nat) (f : Gang → Gang) : (s.modGang g f).mpwr = s.mpwr := rfl
@[simp] theorem State.modGang_plim (s : State) (g : Nat) (f : Gang → Gang) : (s.modGang g f).plim = s.plim := rfl
@[simp] theorem State.modGang_psts (s : State) (g : Nat) (f : Gang → Gang) : (s.modGang g f).psts = s.psts := rfl
@[simp] theorem State.modGang_overWindows (s : State) (g : Nat) (f : Gang → Gang) : (s.modGang g f).overWindows = s.overWindows := rfl
@[simp] theorem State.modGang_placeHold (s : State) (g : Nat) (f : Gang → Gang) : (s.modGang g f).placeHold = s.placeHold := rfl
@[simp] theorem State.modGang_shutDown (s : State) (g : Nat) (f : Gang → Gang) : (s.modGang g f).shutDown = s.shutDown := rfl
@[simp] theorem State.modGang_dumpIx (s : State) (g : Nat) (f : Gang → Gang) : (s.modGang g f).dumpIx = s.dumpIx := rfl
@[simp] theorem State.modGang_perf (s : State) (g : Nat) (f : Gang → Gang) : (s.modGang g f).perf = s.perf := rfl
@[simp] theorem State.modGang_flash (s : State) (g : Nat) (f : Gang → Gang) : (s.modGang g f).flash = s.flash := rfl
@[simp] theorem State.modGang_firmware (s : State) (g : Nat) (f : Gang → Gang) : (s.modGang g f).firmware = s.firmware := rfl
@[simp] theorem State.modGang_msixTable (s : State) (g : Nat) (f : Gang → Gang) : (s.modGang g f).msixTable = s.msixTable := rfl
@[simp] theorem State.modGang_msixPend (s : State) (g : Nat) (f : Gang → Gang) : (s.modGang g f).msixPend = s.msixPend := rfl
@[simp] theorem State.modGang_msixOn (s : State) (g : Nat) (f : Gang → Gang) : (s.modGang g f).msixOn = s.msixOn := rfl
@[simp] theorem State.modGang_msixAll (s : State) (g : Nat) (f : Gang → Gang) : (s.modGang g f).msixAll = s.msixAll := rfl
@[simp] theorem State.modGang_qpages (s : State) (g : Nat) (f : Gang → Gang) : (s.modGang g f).qpages = s.qpages := rfl
@[simp] theorem State.modGang_dies (s : State) (g : Nat) (f : Gang → Gang) : (s.modGang g f).dies = s.dies := rfl
@[simp] theorem State.modGang_hbm (s : State) (g : Nat) (f : Gang → Gang) : (s.modGang g f).hbm = s.hbm := rfl
@[simp] theorem State.modGang_poison (s : State) (g : Nat) (f : Gang → Gang) : (s.modGang g f).poison = s.poison := rfl
@[simp] theorem State.modGang_remap (s : State) (g : Nat) (f : Gang → Gang) : (s.modGang g f).remap = s.remap := rfl
@[simp] theorem State.modGang_lostFrames (s : State) (g : Nat) (f : Gang → Gang) : (s.modGang g f).lostFrames = s.lostFrames := rfl
@[simp] theorem State.modGang_scalarBook (s : State) (g : Nat) (f : Gang → Gang) : (s.modGang g f).scalarBook = s.scalarBook := rfl
@[simp] theorem State.modGang_elasticBook (s : State) (g : Nat) (f : Gang → Gang) : (s.modGang g f).elasticBook = s.elasticBook := rfl
@[simp] theorem State.modGang_claimed (s : State) (g : Nat) (f : Gang → Gang) : (s.modGang g f).claimed = s.claimed := rfl
@[simp] theorem State.modGang_edges (s : State) (g : Nat) (f : Gang → Gang) : (s.modGang g f).edges = s.edges := rfl
@[simp] theorem State.modGang_edgeLate (s : State) (g : Nat) (f : Gang → Gang) : (s.modGang g f).edgeLate = s.edgeLate := rfl
@[simp] theorem State.modGang_roots (s : State) (g : Nat) (f : Gang → Gang) : (s.modGang g f).roots = s.roots := rfl
@[simp] theorem State.modGang_fwd (s : State) (g : Nat) (f : Gang → Gang) : (s.modGang g f).fwd = s.fwd := rfl
@[simp] theorem State.modGang_baseTT (s : State) (g : Nat) (f : Gang → Gang) : (s.modGang g f).baseTT = s.baseTT := rfl
@[simp] theorem State.modGang_newTT (s : State) (g : Nat) (f : Gang → Gang) : (s.modGang g f).newTT = s.newTT := rfl
@[simp] theorem State.modGang_handlers (s : State) (g : Nat) (f : Gang → Gang) : (s.modGang g f).handlers = s.handlers := rfl
@[simp] theorem State.modGang_domain (s : State) (g : Nat) (f : Gang → Gang) : (s.modGang g f).domain = s.domain := rfl
@[simp] theorem State.modGang_flights (s : State) (g : Nat) (f : Gang → Gang) : (s.modGang g f).flights = s.flights := rfl
@[simp] theorem State.modGang_lanterns (s : State) (g : Nat) (f : Gang → Gang) : (s.modGang g f).lanterns = s.lanterns := rfl
@[simp] theorem State.modGang_lanternReqs (s : State) (g : Nat) (f : Gang → Gang) : (s.modGang g f).lanternReqs = s.lanternReqs := rfl
@[simp] theorem State.modGang_outbox (s : State) (g : Nat) (f : Gang → Gang) : (s.modGang g f).outbox = s.outbox := rfl
@[simp] theorem State.modGang_waitingOut (s : State) (g : Nat) (f : Gang → Gang) : (s.modGang g f).waitingOut = s.waitingOut := rfl
@[simp] theorem State.modGang_transit (s : State) (g : Nat) (f : Gang → Gang) : (s.modGang g f).transit = s.transit := rfl
@[simp] theorem State.modGang_elastic (s : State) (g : Nat) (f : Gang → Gang) : (s.modGang g f).elastic = s.elastic := rfl
@[simp] theorem State.modGang_hostOut (s : State) (g : Nat) (f : Gang → Gang) : (s.modGang g f).hostOut = s.hostOut := rfl
@[simp] theorem State.modGang_hostQ (s : State) (g : Nat) (f : Gang → Gang) : (s.modGang g f).hostQ = s.hostQ := rfl
@[simp] theorem State.modGang_control (s : State) (g : Nat) (f : Gang → Gang) : (s.modGang g f).control = s.control := rfl
@[simp] theorem State.modGang_images (s : State) (g : Nat) (f : Gang → Gang) : (s.modGang g f).images = s.images := rfl
@[simp] theorem State.modGang_queues (s : State) (g : Nat) (f : Gang → Gang) : (s.modGang g f).queues = s.queues := rfl
@[simp] theorem State.modGang_copies (s : State) (g : Nat) (f : Gang → Gang) : (s.modGang g f).copies = s.copies := rfl
@[simp] theorem State.modGang_fetched (s : State) (g : Nat) (f : Gang → Gang) : (s.modGang g f).fetched = s.fetched := rfl
@[simp] theorem State.modGang_rr (s : State) (g : Nat) (f : Gang → Gang) : (s.modGang g f).rr = s.rr := rfl
@[simp] theorem State.modGang_rrCopy (s : State) (g : Nat) (f : Gang → Gang) : (s.modGang g f).rrCopy = s.rrCopy := rfl
@[simp] theorem State.modGang_launches (s : State) (g : Nat) (f : Gang → Gang) : (s.modGang g f).launches = s.launches := rfl
@[simp] theorem State.modGang_tasks (s : State) (g : Nat) (f : Gang → Gang) : (s.modGang g f).tasks = s.tasks := rfl
@[simp] theorem State.modGang_gangs (s : State) (g : Nat) (f : Gang → Gang) : (s.modGang g f).gangs = s.gangs.map fun x => if x.id = g then f x else x := rfl
@[simp] theorem State.modGang_reservations (s : State) (g : Nat) (f : Gang → Gang) : (s.modGang g f).reservations = s.reservations := rfl
@[simp] theorem State.modGang_claims (s : State) (g : Nat) (f : Gang → Gang) : (s.modGang g f).claims = s.claims := rfl
@[simp] theorem State.modGang_powerUps (s : State) (g : Nat) (f : Gang → Gang) : (s.modGang g f).powerUps = s.powerUps := rfl
@[simp] theorem State.modGang_pendings (s : State) (g : Nat) (f : Gang → Gang) : (s.modGang g f).pendings = s.pendings := rfl
@[simp] theorem State.modGang_sends (s : State) (g : Nat) (f : Gang → Gang) : (s.modGang g f).sends = s.sends := rfl
@[simp] theorem State.modGang_colls (s : State) (g : Nat) (f : Gang → Gang) : (s.modGang g f).colls = s.colls := rfl

/-! ### `State.modLantern`: one link identity -/

@[simp] theorem State.modLantern_now (s : State) (i : Nat) (f : Lantern → Lantern) : (s.modLantern i f).now = s.now := rfl
@[simp] theorem State.modLantern_agenda (s : State) (i : Nat) (f : Lantern → Lantern) : (s.modLantern i f).agenda = s.agenda := rfl
@[simp] theorem State.modLantern_calendar (s : State) (i : Nat) (f : Lantern → Lantern) : (s.modLantern i f).calendar = s.calendar := rfl
@[simp] theorem State.modLantern_issue (s : State) (i : Nat) (f : Lantern → Lantern) : (s.modLantern i f).issue = s.issue := rfl
@[simp] theorem State.modLantern_mask (s : State) (i : Nat) (f : Lantern → Lantern) : (s.modLantern i f).mask = s.mask := rfl
@[simp] theorem State.modLantern_fgHeld (s : State) (i : Nat) (f : Lantern → Lantern) : (s.modLantern i f).fgHeld = s.fgHeld := rfl
@[simp] theorem State.modLantern_free (s : State) (i : Nat) (f : Lantern → Lantern) : (s.modLantern i f).free = s.free := rfl
@[simp] theorem State.modLantern_nextId (s : State) (i : Nat) (f : Lantern → Lantern) : (s.modLantern i f).nextId = s.nextId := rfl
@[simp] theorem State.modLantern_belfry (s : State) (i : Nat) (f : Lantern → Lantern) : (s.modLantern i f).belfry = s.belfry := rfl
@[simp] theorem State.modLantern_belfryOn (s : State) (i : Nat) (f : Lantern → Lantern) : (s.modLantern i f).belfryOn = s.belfryOn := rfl
@[simp] theorem State.modLantern_pkg (s : State) (i : Nat) (f : Lantern → Lantern) : (s.modLantern i f).pkg = s.pkg := rfl
@[simp] theorem State.modLantern_ready (s : State) (i : Nat) (f : Lantern → Lantern) : (s.modLantern i f).ready = s.ready := rfl
@[simp] theorem State.modLantern_stage (s : State) (i : Nat) (f : Lantern → Lantern) : (s.modLantern i f).stage = s.stage := rfl
@[simp] theorem State.modLantern_berr (s : State) (i : Nat) (f : Lantern → Lantern) : (s.modLantern i f).berr = s.berr := rfl
@[simp] theorem State.modLantern_pres (s : State) (i : Nat) (f : Lantern → Lantern) : (s.modLantern i f).pres = s.pres := rfl
@[simp] theorem State.modLantern_svc (s : State) (i : Nat) (f : Lantern → Lantern) : (s.modLantern i f).svc = s.svc := rfl
@[simp] theorem State.modLantern_retired (s : State) (i : Nat) (f : Lantern → Lantern) : (s.modLantern i f).retired = s.retired := rfl
@[simp] theorem State.modLantern_retiredFor (s : State) (i : Nat) (f : Lantern → Lantern) : (s.modLantern i f).retiredFor = s.retiredFor := rfl
@[simp] theorem State.modLantern_offline (s : State) (i : Nat) (f : Lantern → Lantern) : (s.modLantern i f).offline = s.offline := rfl
@[simp] theorem State.modLantern_degraded (s : State) (i : Nat) (f : Lantern → Lantern) : (s.modLantern i f).degraded = s.degraded := rfl
@[simp] theorem State.modLantern_bar2base (s : State) (i : Nat) (f : Lantern → Lantern) : (s.modLantern i f).bar2base = s.bar2base := rfl
@[simp] theorem State.modLantern_bar2size (s : State) (i : Nat) (f : Lantern → Lantern) : (s.modLantern i f).bar2size = s.bar2size := rfl
@[simp] theorem State.modLantern_offStat (s : State) (i : Nat) (f : Lantern → Lantern) : (s.modLantern i f).offStat = s.offStat := rfl
@[simp] theorem State.modLantern_offBusy (s : State) (i : Nat) (f : Lantern → Lantern) : (s.modLantern i f).offBusy = s.offBusy := rfl
@[simp] theorem State.modLantern_offReq (s : State) (i : Nat) (f : Lantern → Lantern) : (s.modLantern i f).offReq = s.offReq := rfl
@[simp] theorem State.modLantern_offMap (s : State) (i : Nat) (f : Lantern → Lantern) : (s.modLantern i f).offMap = s.offMap := rfl
@[simp] theorem State.modLantern_marg (s : State) (i : Nat) (f : Lantern → Lantern) : (s.modLantern i f).marg = s.marg := rfl
@[simp] theorem State.modLantern_mres (s : State) (i : Nat) (f : Lantern → Lantern) : (s.modLantern i f).mres = s.mres := rfl
@[simp] theorem State.modLantern_mcmdNow (s : State) (i : Nat) (f : Lantern → Lantern) : (s.modLantern i f).mcmdNow = s.mcmdNow := rfl
@[simp] theorem State.modLantern_invalFrom (s : State) (i : Nat) (f : Lantern → Lantern) : (s.modLantern i f).invalFrom = s.invalFrom := rfl
@[simp] theorem State.modLantern_psuba (s : State) (i : Nat) (f : Lantern → Lantern) : (s.modLantern i f).psuba = s.psuba := rfl
@[simp] theorem State.modLantern_psubl (s : State) (i : Nat) (f : Lantern → Lantern) : (s.modLantern i f).psubl = s.psubl := rfl
@[simp] theorem State.modLantern_pstat (s : State) (i : Nat) (f : Lantern → Lantern) : (s.modLantern i f).pstat = s.pstat := rfl
@[simp] theorem State.modLantern_proofing (s : State) (i : Nat) (f : Lantern → Lantern) : (s.modLantern i f).proofing = s.proofing := rfl
@[simp] theorem State.modLantern_pres64 (s : State) (i : Nat) (f : Lantern → Lantern) : (s.modLantern i f).pres64 = s.pres64 := rfl
@[simp] theorem State.modLantern_meas (s : State) (i : Nat) (f : Lantern → Lantern) : (s.modLantern i f).meas = s.meas := rfl
@[simp] theorem State.modLantern_therm (s : State) (i : Nat) (f : Lantern → Lantern) : (s.modLantern i f).therm = s.therm := rfl
@[simp] theorem State.modLantern_mpwr (s : State) (i : Nat) (f : Lantern → Lantern) : (s.modLantern i f).mpwr = s.mpwr := rfl
@[simp] theorem State.modLantern_plim (s : State) (i : Nat) (f : Lantern → Lantern) : (s.modLantern i f).plim = s.plim := rfl
@[simp] theorem State.modLantern_psts (s : State) (i : Nat) (f : Lantern → Lantern) : (s.modLantern i f).psts = s.psts := rfl
@[simp] theorem State.modLantern_overWindows (s : State) (i : Nat) (f : Lantern → Lantern) : (s.modLantern i f).overWindows = s.overWindows := rfl
@[simp] theorem State.modLantern_placeHold (s : State) (i : Nat) (f : Lantern → Lantern) : (s.modLantern i f).placeHold = s.placeHold := rfl
@[simp] theorem State.modLantern_shutDown (s : State) (i : Nat) (f : Lantern → Lantern) : (s.modLantern i f).shutDown = s.shutDown := rfl
@[simp] theorem State.modLantern_dumpIx (s : State) (i : Nat) (f : Lantern → Lantern) : (s.modLantern i f).dumpIx = s.dumpIx := rfl
@[simp] theorem State.modLantern_perf (s : State) (i : Nat) (f : Lantern → Lantern) : (s.modLantern i f).perf = s.perf := rfl
@[simp] theorem State.modLantern_flash (s : State) (i : Nat) (f : Lantern → Lantern) : (s.modLantern i f).flash = s.flash := rfl
@[simp] theorem State.modLantern_firmware (s : State) (i : Nat) (f : Lantern → Lantern) : (s.modLantern i f).firmware = s.firmware := rfl
@[simp] theorem State.modLantern_msixTable (s : State) (i : Nat) (f : Lantern → Lantern) : (s.modLantern i f).msixTable = s.msixTable := rfl
@[simp] theorem State.modLantern_msixPend (s : State) (i : Nat) (f : Lantern → Lantern) : (s.modLantern i f).msixPend = s.msixPend := rfl
@[simp] theorem State.modLantern_msixOn (s : State) (i : Nat) (f : Lantern → Lantern) : (s.modLantern i f).msixOn = s.msixOn := rfl
@[simp] theorem State.modLantern_msixAll (s : State) (i : Nat) (f : Lantern → Lantern) : (s.modLantern i f).msixAll = s.msixAll := rfl
@[simp] theorem State.modLantern_qpages (s : State) (i : Nat) (f : Lantern → Lantern) : (s.modLantern i f).qpages = s.qpages := rfl
@[simp] theorem State.modLantern_dies (s : State) (i : Nat) (f : Lantern → Lantern) : (s.modLantern i f).dies = s.dies := rfl
@[simp] theorem State.modLantern_hbm (s : State) (i : Nat) (f : Lantern → Lantern) : (s.modLantern i f).hbm = s.hbm := rfl
@[simp] theorem State.modLantern_poison (s : State) (i : Nat) (f : Lantern → Lantern) : (s.modLantern i f).poison = s.poison := rfl
@[simp] theorem State.modLantern_remap (s : State) (i : Nat) (f : Lantern → Lantern) : (s.modLantern i f).remap = s.remap := rfl
@[simp] theorem State.modLantern_lostFrames (s : State) (i : Nat) (f : Lantern → Lantern) : (s.modLantern i f).lostFrames = s.lostFrames := rfl
@[simp] theorem State.modLantern_scalarBook (s : State) (i : Nat) (f : Lantern → Lantern) : (s.modLantern i f).scalarBook = s.scalarBook := rfl
@[simp] theorem State.modLantern_elasticBook (s : State) (i : Nat) (f : Lantern → Lantern) : (s.modLantern i f).elasticBook = s.elasticBook := rfl
@[simp] theorem State.modLantern_claimed (s : State) (i : Nat) (f : Lantern → Lantern) : (s.modLantern i f).claimed = s.claimed := rfl
@[simp] theorem State.modLantern_edges (s : State) (i : Nat) (f : Lantern → Lantern) : (s.modLantern i f).edges = s.edges := rfl
@[simp] theorem State.modLantern_edgeLate (s : State) (i : Nat) (f : Lantern → Lantern) : (s.modLantern i f).edgeLate = s.edgeLate := rfl
@[simp] theorem State.modLantern_roots (s : State) (i : Nat) (f : Lantern → Lantern) : (s.modLantern i f).roots = s.roots := rfl
@[simp] theorem State.modLantern_fwd (s : State) (i : Nat) (f : Lantern → Lantern) : (s.modLantern i f).fwd = s.fwd := rfl
@[simp] theorem State.modLantern_baseTT (s : State) (i : Nat) (f : Lantern → Lantern) : (s.modLantern i f).baseTT = s.baseTT := rfl
@[simp] theorem State.modLantern_newTT (s : State) (i : Nat) (f : Lantern → Lantern) : (s.modLantern i f).newTT = s.newTT := rfl
@[simp] theorem State.modLantern_handlers (s : State) (i : Nat) (f : Lantern → Lantern) : (s.modLantern i f).handlers = s.handlers := rfl
@[simp] theorem State.modLantern_domain (s : State) (i : Nat) (f : Lantern → Lantern) : (s.modLantern i f).domain = s.domain := rfl
@[simp] theorem State.modLantern_flights (s : State) (i : Nat) (f : Lantern → Lantern) : (s.modLantern i f).flights = s.flights := rfl
@[simp] theorem State.modLantern_lanterns (s : State) (i : Nat) (f : Lantern → Lantern) : (s.modLantern i f).lanterns = tmod s.lanterns i f := rfl
@[simp] theorem State.modLantern_lanternReqs (s : State) (i : Nat) (f : Lantern → Lantern) : (s.modLantern i f).lanternReqs = s.lanternReqs := rfl
@[simp] theorem State.modLantern_outbox (s : State) (i : Nat) (f : Lantern → Lantern) : (s.modLantern i f).outbox = s.outbox := rfl
@[simp] theorem State.modLantern_waitingOut (s : State) (i : Nat) (f : Lantern → Lantern) : (s.modLantern i f).waitingOut = s.waitingOut := rfl
@[simp] theorem State.modLantern_transit (s : State) (i : Nat) (f : Lantern → Lantern) : (s.modLantern i f).transit = s.transit := rfl
@[simp] theorem State.modLantern_elastic (s : State) (i : Nat) (f : Lantern → Lantern) : (s.modLantern i f).elastic = s.elastic := rfl
@[simp] theorem State.modLantern_hostOut (s : State) (i : Nat) (f : Lantern → Lantern) : (s.modLantern i f).hostOut = s.hostOut := rfl
@[simp] theorem State.modLantern_hostQ (s : State) (i : Nat) (f : Lantern → Lantern) : (s.modLantern i f).hostQ = s.hostQ := rfl
@[simp] theorem State.modLantern_control (s : State) (i : Nat) (f : Lantern → Lantern) : (s.modLantern i f).control = s.control := rfl
@[simp] theorem State.modLantern_images (s : State) (i : Nat) (f : Lantern → Lantern) : (s.modLantern i f).images = s.images := rfl
@[simp] theorem State.modLantern_queues (s : State) (i : Nat) (f : Lantern → Lantern) : (s.modLantern i f).queues = s.queues := rfl
@[simp] theorem State.modLantern_copies (s : State) (i : Nat) (f : Lantern → Lantern) : (s.modLantern i f).copies = s.copies := rfl
@[simp] theorem State.modLantern_fetched (s : State) (i : Nat) (f : Lantern → Lantern) : (s.modLantern i f).fetched = s.fetched := rfl
@[simp] theorem State.modLantern_rr (s : State) (i : Nat) (f : Lantern → Lantern) : (s.modLantern i f).rr = s.rr := rfl
@[simp] theorem State.modLantern_rrCopy (s : State) (i : Nat) (f : Lantern → Lantern) : (s.modLantern i f).rrCopy = s.rrCopy := rfl
@[simp] theorem State.modLantern_launches (s : State) (i : Nat) (f : Lantern → Lantern) : (s.modLantern i f).launches = s.launches := rfl
@[simp] theorem State.modLantern_tasks (s : State) (i : Nat) (f : Lantern → Lantern) : (s.modLantern i f).tasks = s.tasks := rfl
@[simp] theorem State.modLantern_gangs (s : State) (i : Nat) (f : Lantern → Lantern) : (s.modLantern i f).gangs = s.gangs := rfl
@[simp] theorem State.modLantern_reservations (s : State) (i : Nat) (f : Lantern → Lantern) : (s.modLantern i f).reservations = s.reservations := rfl
@[simp] theorem State.modLantern_claims (s : State) (i : Nat) (f : Lantern → Lantern) : (s.modLantern i f).claims = s.claims := rfl
@[simp] theorem State.modLantern_powerUps (s : State) (i : Nat) (f : Lantern → Lantern) : (s.modLantern i f).powerUps = s.powerUps := rfl
@[simp] theorem State.modLantern_pendings (s : State) (i : Nat) (f : Lantern → Lantern) : (s.modLantern i f).pendings = s.pendings := rfl
@[simp] theorem State.modLantern_sends (s : State) (i : Nat) (f : Lantern → Lantern) : (s.modLantern i f).sends = s.sends := rfl
@[simp] theorem State.modLantern_colls (s : State) (i : Nat) (f : Lantern → Lantern) : (s.modLantern i f).colls = s.colls := rfl

/-! ### `State.modStack`: the memory of one stack -/

@[simp] theorem State.modStack_now (s : State) (n : Nat) (f : Mem → Mem) : (s.modStack n f).now = s.now := rfl
@[simp] theorem State.modStack_agenda (s : State) (n : Nat) (f : Mem → Mem) : (s.modStack n f).agenda = s.agenda := rfl
@[simp] theorem State.modStack_calendar (s : State) (n : Nat) (f : Mem → Mem) : (s.modStack n f).calendar = s.calendar := rfl
@[simp] theorem State.modStack_issue (s : State) (n : Nat) (f : Mem → Mem) : (s.modStack n f).issue = s.issue := rfl
@[simp] theorem State.modStack_mask (s : State) (n : Nat) (f : Mem → Mem) : (s.modStack n f).mask = s.mask := rfl
@[simp] theorem State.modStack_fgHeld (s : State) (n : Nat) (f : Mem → Mem) : (s.modStack n f).fgHeld = s.fgHeld := rfl
@[simp] theorem State.modStack_free (s : State) (n : Nat) (f : Mem → Mem) : (s.modStack n f).free = s.free := rfl
@[simp] theorem State.modStack_nextId (s : State) (n : Nat) (f : Mem → Mem) : (s.modStack n f).nextId = s.nextId := rfl
@[simp] theorem State.modStack_belfry (s : State) (n : Nat) (f : Mem → Mem) : (s.modStack n f).belfry = s.belfry := rfl
@[simp] theorem State.modStack_belfryOn (s : State) (n : Nat) (f : Mem → Mem) : (s.modStack n f).belfryOn = s.belfryOn := rfl
@[simp] theorem State.modStack_pkg (s : State) (n : Nat) (f : Mem → Mem) : (s.modStack n f).pkg = s.pkg := rfl
@[simp] theorem State.modStack_ready (s : State) (n : Nat) (f : Mem → Mem) : (s.modStack n f).ready = s.ready := rfl
@[simp] theorem State.modStack_stage (s : State) (n : Nat) (f : Mem → Mem) : (s.modStack n f).stage = s.stage := rfl
@[simp] theorem State.modStack_berr (s : State) (n : Nat) (f : Mem → Mem) : (s.modStack n f).berr = s.berr := rfl
@[simp] theorem State.modStack_pres (s : State) (n : Nat) (f : Mem → Mem) : (s.modStack n f).pres = s.pres := rfl
@[simp] theorem State.modStack_svc (s : State) (n : Nat) (f : Mem → Mem) : (s.modStack n f).svc = s.svc := rfl
@[simp] theorem State.modStack_retired (s : State) (n : Nat) (f : Mem → Mem) : (s.modStack n f).retired = s.retired := rfl
@[simp] theorem State.modStack_retiredFor (s : State) (n : Nat) (f : Mem → Mem) : (s.modStack n f).retiredFor = s.retiredFor := rfl
@[simp] theorem State.modStack_offline (s : State) (n : Nat) (f : Mem → Mem) : (s.modStack n f).offline = s.offline := rfl
@[simp] theorem State.modStack_degraded (s : State) (n : Nat) (f : Mem → Mem) : (s.modStack n f).degraded = s.degraded := rfl
@[simp] theorem State.modStack_bar2base (s : State) (n : Nat) (f : Mem → Mem) : (s.modStack n f).bar2base = s.bar2base := rfl
@[simp] theorem State.modStack_bar2size (s : State) (n : Nat) (f : Mem → Mem) : (s.modStack n f).bar2size = s.bar2size := rfl
@[simp] theorem State.modStack_offStat (s : State) (n : Nat) (f : Mem → Mem) : (s.modStack n f).offStat = s.offStat := rfl
@[simp] theorem State.modStack_offBusy (s : State) (n : Nat) (f : Mem → Mem) : (s.modStack n f).offBusy = s.offBusy := rfl
@[simp] theorem State.modStack_offReq (s : State) (n : Nat) (f : Mem → Mem) : (s.modStack n f).offReq = s.offReq := rfl
@[simp] theorem State.modStack_offMap (s : State) (n : Nat) (f : Mem → Mem) : (s.modStack n f).offMap = s.offMap := rfl
@[simp] theorem State.modStack_marg (s : State) (n : Nat) (f : Mem → Mem) : (s.modStack n f).marg = s.marg := rfl
@[simp] theorem State.modStack_mres (s : State) (n : Nat) (f : Mem → Mem) : (s.modStack n f).mres = s.mres := rfl
@[simp] theorem State.modStack_mcmdNow (s : State) (n : Nat) (f : Mem → Mem) : (s.modStack n f).mcmdNow = s.mcmdNow := rfl
@[simp] theorem State.modStack_invalFrom (s : State) (n : Nat) (f : Mem → Mem) : (s.modStack n f).invalFrom = s.invalFrom := rfl
@[simp] theorem State.modStack_psuba (s : State) (n : Nat) (f : Mem → Mem) : (s.modStack n f).psuba = s.psuba := rfl
@[simp] theorem State.modStack_psubl (s : State) (n : Nat) (f : Mem → Mem) : (s.modStack n f).psubl = s.psubl := rfl
@[simp] theorem State.modStack_pstat (s : State) (n : Nat) (f : Mem → Mem) : (s.modStack n f).pstat = s.pstat := rfl
@[simp] theorem State.modStack_proofing (s : State) (n : Nat) (f : Mem → Mem) : (s.modStack n f).proofing = s.proofing := rfl
@[simp] theorem State.modStack_pres64 (s : State) (n : Nat) (f : Mem → Mem) : (s.modStack n f).pres64 = s.pres64 := rfl
@[simp] theorem State.modStack_meas (s : State) (n : Nat) (f : Mem → Mem) : (s.modStack n f).meas = s.meas := rfl
@[simp] theorem State.modStack_therm (s : State) (n : Nat) (f : Mem → Mem) : (s.modStack n f).therm = s.therm := rfl
@[simp] theorem State.modStack_mpwr (s : State) (n : Nat) (f : Mem → Mem) : (s.modStack n f).mpwr = s.mpwr := rfl
@[simp] theorem State.modStack_plim (s : State) (n : Nat) (f : Mem → Mem) : (s.modStack n f).plim = s.plim := rfl
@[simp] theorem State.modStack_psts (s : State) (n : Nat) (f : Mem → Mem) : (s.modStack n f).psts = s.psts := rfl
@[simp] theorem State.modStack_overWindows (s : State) (n : Nat) (f : Mem → Mem) : (s.modStack n f).overWindows = s.overWindows := rfl
@[simp] theorem State.modStack_placeHold (s : State) (n : Nat) (f : Mem → Mem) : (s.modStack n f).placeHold = s.placeHold := rfl
@[simp] theorem State.modStack_shutDown (s : State) (n : Nat) (f : Mem → Mem) : (s.modStack n f).shutDown = s.shutDown := rfl
@[simp] theorem State.modStack_dumpIx (s : State) (n : Nat) (f : Mem → Mem) : (s.modStack n f).dumpIx = s.dumpIx := rfl
@[simp] theorem State.modStack_perf (s : State) (n : Nat) (f : Mem → Mem) : (s.modStack n f).perf = s.perf := rfl
@[simp] theorem State.modStack_flash (s : State) (n : Nat) (f : Mem → Mem) : (s.modStack n f).flash = s.flash := rfl
@[simp] theorem State.modStack_firmware (s : State) (n : Nat) (f : Mem → Mem) : (s.modStack n f).firmware = s.firmware := rfl
@[simp] theorem State.modStack_msixTable (s : State) (n : Nat) (f : Mem → Mem) : (s.modStack n f).msixTable = s.msixTable := rfl
@[simp] theorem State.modStack_msixPend (s : State) (n : Nat) (f : Mem → Mem) : (s.modStack n f).msixPend = s.msixPend := rfl
@[simp] theorem State.modStack_msixOn (s : State) (n : Nat) (f : Mem → Mem) : (s.modStack n f).msixOn = s.msixOn := rfl
@[simp] theorem State.modStack_msixAll (s : State) (n : Nat) (f : Mem → Mem) : (s.modStack n f).msixAll = s.msixAll := rfl
@[simp] theorem State.modStack_qpages (s : State) (n : Nat) (f : Mem → Mem) : (s.modStack n f).qpages = s.qpages := rfl
@[simp] theorem State.modStack_dies (s : State) (n : Nat) (f : Mem → Mem) : (s.modStack n f).dies = s.dies := rfl
@[simp] theorem State.modStack_hbm (s : State) (n : Nat) (f : Mem → Mem) : (s.modStack n f).hbm = tmod s.hbm n f := rfl
@[simp] theorem State.modStack_poison (s : State) (n : Nat) (f : Mem → Mem) : (s.modStack n f).poison = s.poison := rfl
@[simp] theorem State.modStack_remap (s : State) (n : Nat) (f : Mem → Mem) : (s.modStack n f).remap = s.remap := rfl
@[simp] theorem State.modStack_lostFrames (s : State) (n : Nat) (f : Mem → Mem) : (s.modStack n f).lostFrames = s.lostFrames := rfl
@[simp] theorem State.modStack_scalarBook (s : State) (n : Nat) (f : Mem → Mem) : (s.modStack n f).scalarBook = s.scalarBook := rfl
@[simp] theorem State.modStack_elasticBook (s : State) (n : Nat) (f : Mem → Mem) : (s.modStack n f).elasticBook = s.elasticBook := rfl
@[simp] theorem State.modStack_claimed (s : State) (n : Nat) (f : Mem → Mem) : (s.modStack n f).claimed = s.claimed := rfl
@[simp] theorem State.modStack_edges (s : State) (n : Nat) (f : Mem → Mem) : (s.modStack n f).edges = s.edges := rfl
@[simp] theorem State.modStack_edgeLate (s : State) (n : Nat) (f : Mem → Mem) : (s.modStack n f).edgeLate = s.edgeLate := rfl
@[simp] theorem State.modStack_roots (s : State) (n : Nat) (f : Mem → Mem) : (s.modStack n f).roots = s.roots := rfl
@[simp] theorem State.modStack_fwd (s : State) (n : Nat) (f : Mem → Mem) : (s.modStack n f).fwd = s.fwd := rfl
@[simp] theorem State.modStack_baseTT (s : State) (n : Nat) (f : Mem → Mem) : (s.modStack n f).baseTT = s.baseTT := rfl
@[simp] theorem State.modStack_newTT (s : State) (n : Nat) (f : Mem → Mem) : (s.modStack n f).newTT = s.newTT := rfl
@[simp] theorem State.modStack_handlers (s : State) (n : Nat) (f : Mem → Mem) : (s.modStack n f).handlers = s.handlers := rfl
@[simp] theorem State.modStack_domain (s : State) (n : Nat) (f : Mem → Mem) : (s.modStack n f).domain = s.domain := rfl
@[simp] theorem State.modStack_flights (s : State) (n : Nat) (f : Mem → Mem) : (s.modStack n f).flights = s.flights := rfl
@[simp] theorem State.modStack_lanterns (s : State) (n : Nat) (f : Mem → Mem) : (s.modStack n f).lanterns = s.lanterns := rfl
@[simp] theorem State.modStack_lanternReqs (s : State) (n : Nat) (f : Mem → Mem) : (s.modStack n f).lanternReqs = s.lanternReqs := rfl
@[simp] theorem State.modStack_outbox (s : State) (n : Nat) (f : Mem → Mem) : (s.modStack n f).outbox = s.outbox := rfl
@[simp] theorem State.modStack_waitingOut (s : State) (n : Nat) (f : Mem → Mem) : (s.modStack n f).waitingOut = s.waitingOut := rfl
@[simp] theorem State.modStack_transit (s : State) (n : Nat) (f : Mem → Mem) : (s.modStack n f).transit = s.transit := rfl
@[simp] theorem State.modStack_elastic (s : State) (n : Nat) (f : Mem → Mem) : (s.modStack n f).elastic = s.elastic := rfl
@[simp] theorem State.modStack_hostOut (s : State) (n : Nat) (f : Mem → Mem) : (s.modStack n f).hostOut = s.hostOut := rfl
@[simp] theorem State.modStack_hostQ (s : State) (n : Nat) (f : Mem → Mem) : (s.modStack n f).hostQ = s.hostQ := rfl
@[simp] theorem State.modStack_control (s : State) (n : Nat) (f : Mem → Mem) : (s.modStack n f).control = s.control := rfl
@[simp] theorem State.modStack_images (s : State) (n : Nat) (f : Mem → Mem) : (s.modStack n f).images = s.images := rfl
@[simp] theorem State.modStack_queues (s : State) (n : Nat) (f : Mem → Mem) : (s.modStack n f).queues = s.queues := rfl
@[simp] theorem State.modStack_copies (s : State) (n : Nat) (f : Mem → Mem) : (s.modStack n f).copies = s.copies := rfl
@[simp] theorem State.modStack_fetched (s : State) (n : Nat) (f : Mem → Mem) : (s.modStack n f).fetched = s.fetched := rfl
@[simp] theorem State.modStack_rr (s : State) (n : Nat) (f : Mem → Mem) : (s.modStack n f).rr = s.rr := rfl
@[simp] theorem State.modStack_rrCopy (s : State) (n : Nat) (f : Mem → Mem) : (s.modStack n f).rrCopy = s.rrCopy := rfl
@[simp] theorem State.modStack_launches (s : State) (n : Nat) (f : Mem → Mem) : (s.modStack n f).launches = s.launches := rfl
@[simp] theorem State.modStack_tasks (s : State) (n : Nat) (f : Mem → Mem) : (s.modStack n f).tasks = s.tasks := rfl
@[simp] theorem State.modStack_gangs (s : State) (n : Nat) (f : Mem → Mem) : (s.modStack n f).gangs = s.gangs := rfl
@[simp] theorem State.modStack_reservations (s : State) (n : Nat) (f : Mem → Mem) : (s.modStack n f).reservations = s.reservations := rfl
@[simp] theorem State.modStack_claims (s : State) (n : Nat) (f : Mem → Mem) : (s.modStack n f).claims = s.claims := rfl
@[simp] theorem State.modStack_powerUps (s : State) (n : Nat) (f : Mem → Mem) : (s.modStack n f).powerUps = s.powerUps := rfl
@[simp] theorem State.modStack_pendings (s : State) (n : Nat) (f : Mem → Mem) : (s.modStack n f).pendings = s.pendings := rfl
@[simp] theorem State.modStack_sends (s : State) (n : Nat) (f : Mem → Mem) : (s.modStack n f).sends = s.sends := rfl
@[simp] theorem State.modStack_colls (s : State) (n : Nat) (f : Mem → Mem) : (s.modStack n f).colls = s.colls := rfl

/-! ### `State.schedule`: a dated event -/

@[simp] theorem State.schedule_now (s : State) (t p : Nat) (m : Micro) : (s.schedule t p m).now = s.now := rfl
@[simp] theorem State.schedule_agenda (s : State) (t p : Nat) (m : Micro) : (s.schedule t p m).agenda = s.agenda := rfl
@[simp] theorem State.schedule_calendar (s : State) (t p : Nat) (m : Micro) : (s.schedule t p m).calendar = s.calendar ++ [{ at_ := t, phase := p, what := m }] := rfl
@[simp] theorem State.schedule_issue (s : State) (t p : Nat) (m : Micro) : (s.schedule t p m).issue = s.issue := rfl
@[simp] theorem State.schedule_mask (s : State) (t p : Nat) (m : Micro) : (s.schedule t p m).mask = s.mask := rfl
@[simp] theorem State.schedule_fgHeld (s : State) (t p : Nat) (m : Micro) : (s.schedule t p m).fgHeld = s.fgHeld := rfl
@[simp] theorem State.schedule_free (s : State) (t p : Nat) (m : Micro) : (s.schedule t p m).free = s.free := rfl
@[simp] theorem State.schedule_nextId (s : State) (t p : Nat) (m : Micro) : (s.schedule t p m).nextId = s.nextId := rfl
@[simp] theorem State.schedule_belfry (s : State) (t p : Nat) (m : Micro) : (s.schedule t p m).belfry = s.belfry := rfl
@[simp] theorem State.schedule_belfryOn (s : State) (t p : Nat) (m : Micro) : (s.schedule t p m).belfryOn = s.belfryOn := rfl
@[simp] theorem State.schedule_pkg (s : State) (t p : Nat) (m : Micro) : (s.schedule t p m).pkg = s.pkg := rfl
@[simp] theorem State.schedule_ready (s : State) (t p : Nat) (m : Micro) : (s.schedule t p m).ready = s.ready := rfl
@[simp] theorem State.schedule_stage (s : State) (t p : Nat) (m : Micro) : (s.schedule t p m).stage = s.stage := rfl
@[simp] theorem State.schedule_berr (s : State) (t p : Nat) (m : Micro) : (s.schedule t p m).berr = s.berr := rfl
@[simp] theorem State.schedule_pres (s : State) (t p : Nat) (m : Micro) : (s.schedule t p m).pres = s.pres := rfl
@[simp] theorem State.schedule_svc (s : State) (t p : Nat) (m : Micro) : (s.schedule t p m).svc = s.svc := rfl
@[simp] theorem State.schedule_retired (s : State) (t p : Nat) (m : Micro) : (s.schedule t p m).retired = s.retired := rfl
@[simp] theorem State.schedule_retiredFor (s : State) (t p : Nat) (m : Micro) : (s.schedule t p m).retiredFor = s.retiredFor := rfl
@[simp] theorem State.schedule_offline (s : State) (t p : Nat) (m : Micro) : (s.schedule t p m).offline = s.offline := rfl
@[simp] theorem State.schedule_degraded (s : State) (t p : Nat) (m : Micro) : (s.schedule t p m).degraded = s.degraded := rfl
@[simp] theorem State.schedule_bar2base (s : State) (t p : Nat) (m : Micro) : (s.schedule t p m).bar2base = s.bar2base := rfl
@[simp] theorem State.schedule_bar2size (s : State) (t p : Nat) (m : Micro) : (s.schedule t p m).bar2size = s.bar2size := rfl
@[simp] theorem State.schedule_offStat (s : State) (t p : Nat) (m : Micro) : (s.schedule t p m).offStat = s.offStat := rfl
@[simp] theorem State.schedule_offBusy (s : State) (t p : Nat) (m : Micro) : (s.schedule t p m).offBusy = s.offBusy := rfl
@[simp] theorem State.schedule_offReq (s : State) (t p : Nat) (m : Micro) : (s.schedule t p m).offReq = s.offReq := rfl
@[simp] theorem State.schedule_offMap (s : State) (t p : Nat) (m : Micro) : (s.schedule t p m).offMap = s.offMap := rfl
@[simp] theorem State.schedule_marg (s : State) (t p : Nat) (m : Micro) : (s.schedule t p m).marg = s.marg := rfl
@[simp] theorem State.schedule_mres (s : State) (t p : Nat) (m : Micro) : (s.schedule t p m).mres = s.mres := rfl
@[simp] theorem State.schedule_mcmdNow (s : State) (t p : Nat) (m : Micro) : (s.schedule t p m).mcmdNow = s.mcmdNow := rfl
@[simp] theorem State.schedule_invalFrom (s : State) (t p : Nat) (m : Micro) : (s.schedule t p m).invalFrom = s.invalFrom := rfl
@[simp] theorem State.schedule_psuba (s : State) (t p : Nat) (m : Micro) : (s.schedule t p m).psuba = s.psuba := rfl
@[simp] theorem State.schedule_psubl (s : State) (t p : Nat) (m : Micro) : (s.schedule t p m).psubl = s.psubl := rfl
@[simp] theorem State.schedule_pstat (s : State) (t p : Nat) (m : Micro) : (s.schedule t p m).pstat = s.pstat := rfl
@[simp] theorem State.schedule_proofing (s : State) (t p : Nat) (m : Micro) : (s.schedule t p m).proofing = s.proofing := rfl
@[simp] theorem State.schedule_pres64 (s : State) (t p : Nat) (m : Micro) : (s.schedule t p m).pres64 = s.pres64 := rfl
@[simp] theorem State.schedule_meas (s : State) (t p : Nat) (m : Micro) : (s.schedule t p m).meas = s.meas := rfl
@[simp] theorem State.schedule_therm (s : State) (t p : Nat) (m : Micro) : (s.schedule t p m).therm = s.therm := rfl
@[simp] theorem State.schedule_mpwr (s : State) (t p : Nat) (m : Micro) : (s.schedule t p m).mpwr = s.mpwr := rfl
@[simp] theorem State.schedule_plim (s : State) (t p : Nat) (m : Micro) : (s.schedule t p m).plim = s.plim := rfl
@[simp] theorem State.schedule_psts (s : State) (t p : Nat) (m : Micro) : (s.schedule t p m).psts = s.psts := rfl
@[simp] theorem State.schedule_overWindows (s : State) (t p : Nat) (m : Micro) : (s.schedule t p m).overWindows = s.overWindows := rfl
@[simp] theorem State.schedule_placeHold (s : State) (t p : Nat) (m : Micro) : (s.schedule t p m).placeHold = s.placeHold := rfl
@[simp] theorem State.schedule_shutDown (s : State) (t p : Nat) (m : Micro) : (s.schedule t p m).shutDown = s.shutDown := rfl
@[simp] theorem State.schedule_dumpIx (s : State) (t p : Nat) (m : Micro) : (s.schedule t p m).dumpIx = s.dumpIx := rfl
@[simp] theorem State.schedule_perf (s : State) (t p : Nat) (m : Micro) : (s.schedule t p m).perf = s.perf := rfl
@[simp] theorem State.schedule_flash (s : State) (t p : Nat) (m : Micro) : (s.schedule t p m).flash = s.flash := rfl
@[simp] theorem State.schedule_firmware (s : State) (t p : Nat) (m : Micro) : (s.schedule t p m).firmware = s.firmware := rfl
@[simp] theorem State.schedule_msixTable (s : State) (t p : Nat) (m : Micro) : (s.schedule t p m).msixTable = s.msixTable := rfl
@[simp] theorem State.schedule_msixPend (s : State) (t p : Nat) (m : Micro) : (s.schedule t p m).msixPend = s.msixPend := rfl
@[simp] theorem State.schedule_msixOn (s : State) (t p : Nat) (m : Micro) : (s.schedule t p m).msixOn = s.msixOn := rfl
@[simp] theorem State.schedule_msixAll (s : State) (t p : Nat) (m : Micro) : (s.schedule t p m).msixAll = s.msixAll := rfl
@[simp] theorem State.schedule_qpages (s : State) (t p : Nat) (m : Micro) : (s.schedule t p m).qpages = s.qpages := rfl
@[simp] theorem State.schedule_dies (s : State) (t p : Nat) (m : Micro) : (s.schedule t p m).dies = s.dies := rfl
@[simp] theorem State.schedule_hbm (s : State) (t p : Nat) (m : Micro) : (s.schedule t p m).hbm = s.hbm := rfl
@[simp] theorem State.schedule_poison (s : State) (t p : Nat) (m : Micro) : (s.schedule t p m).poison = s.poison := rfl
@[simp] theorem State.schedule_remap (s : State) (t p : Nat) (m : Micro) : (s.schedule t p m).remap = s.remap := rfl
@[simp] theorem State.schedule_lostFrames (s : State) (t p : Nat) (m : Micro) : (s.schedule t p m).lostFrames = s.lostFrames := rfl
@[simp] theorem State.schedule_scalarBook (s : State) (t p : Nat) (m : Micro) : (s.schedule t p m).scalarBook = s.scalarBook := rfl
@[simp] theorem State.schedule_elasticBook (s : State) (t p : Nat) (m : Micro) : (s.schedule t p m).elasticBook = s.elasticBook := rfl
@[simp] theorem State.schedule_claimed (s : State) (t p : Nat) (m : Micro) : (s.schedule t p m).claimed = s.claimed := rfl
@[simp] theorem State.schedule_edges (s : State) (t p : Nat) (m : Micro) : (s.schedule t p m).edges = s.edges := rfl
@[simp] theorem State.schedule_edgeLate (s : State) (t p : Nat) (m : Micro) : (s.schedule t p m).edgeLate = s.edgeLate := rfl
@[simp] theorem State.schedule_roots (s : State) (t p : Nat) (m : Micro) : (s.schedule t p m).roots = s.roots := rfl
@[simp] theorem State.schedule_fwd (s : State) (t p : Nat) (m : Micro) : (s.schedule t p m).fwd = s.fwd := rfl
@[simp] theorem State.schedule_baseTT (s : State) (t p : Nat) (m : Micro) : (s.schedule t p m).baseTT = s.baseTT := rfl
@[simp] theorem State.schedule_newTT (s : State) (t p : Nat) (m : Micro) : (s.schedule t p m).newTT = s.newTT := rfl
@[simp] theorem State.schedule_handlers (s : State) (t p : Nat) (m : Micro) : (s.schedule t p m).handlers = s.handlers := rfl
@[simp] theorem State.schedule_domain (s : State) (t p : Nat) (m : Micro) : (s.schedule t p m).domain = s.domain := rfl
@[simp] theorem State.schedule_flights (s : State) (t p : Nat) (m : Micro) : (s.schedule t p m).flights = s.flights := rfl
@[simp] theorem State.schedule_lanterns (s : State) (t p : Nat) (m : Micro) : (s.schedule t p m).lanterns = s.lanterns := rfl
@[simp] theorem State.schedule_lanternReqs (s : State) (t p : Nat) (m : Micro) : (s.schedule t p m).lanternReqs = s.lanternReqs := rfl
@[simp] theorem State.schedule_outbox (s : State) (t p : Nat) (m : Micro) : (s.schedule t p m).outbox = s.outbox := rfl
@[simp] theorem State.schedule_waitingOut (s : State) (t p : Nat) (m : Micro) : (s.schedule t p m).waitingOut = s.waitingOut := rfl
@[simp] theorem State.schedule_transit (s : State) (t p : Nat) (m : Micro) : (s.schedule t p m).transit = s.transit := rfl
@[simp] theorem State.schedule_elastic (s : State) (t p : Nat) (m : Micro) : (s.schedule t p m).elastic = s.elastic := rfl
@[simp] theorem State.schedule_hostOut (s : State) (t p : Nat) (m : Micro) : (s.schedule t p m).hostOut = s.hostOut := rfl
@[simp] theorem State.schedule_hostQ (s : State) (t p : Nat) (m : Micro) : (s.schedule t p m).hostQ = s.hostQ := rfl
@[simp] theorem State.schedule_control (s : State) (t p : Nat) (m : Micro) : (s.schedule t p m).control = s.control := rfl
@[simp] theorem State.schedule_images (s : State) (t p : Nat) (m : Micro) : (s.schedule t p m).images = s.images := rfl
@[simp] theorem State.schedule_queues (s : State) (t p : Nat) (m : Micro) : (s.schedule t p m).queues = s.queues := rfl
@[simp] theorem State.schedule_copies (s : State) (t p : Nat) (m : Micro) : (s.schedule t p m).copies = s.copies := rfl
@[simp] theorem State.schedule_fetched (s : State) (t p : Nat) (m : Micro) : (s.schedule t p m).fetched = s.fetched := rfl
@[simp] theorem State.schedule_rr (s : State) (t p : Nat) (m : Micro) : (s.schedule t p m).rr = s.rr := rfl
@[simp] theorem State.schedule_rrCopy (s : State) (t p : Nat) (m : Micro) : (s.schedule t p m).rrCopy = s.rrCopy := rfl
@[simp] theorem State.schedule_launches (s : State) (t p : Nat) (m : Micro) : (s.schedule t p m).launches = s.launches := rfl
@[simp] theorem State.schedule_tasks (s : State) (t p : Nat) (m : Micro) : (s.schedule t p m).tasks = s.tasks := rfl
@[simp] theorem State.schedule_gangs (s : State) (t p : Nat) (m : Micro) : (s.schedule t p m).gangs = s.gangs := rfl
@[simp] theorem State.schedule_reservations (s : State) (t p : Nat) (m : Micro) : (s.schedule t p m).reservations = s.reservations := rfl
@[simp] theorem State.schedule_claims (s : State) (t p : Nat) (m : Micro) : (s.schedule t p m).claims = s.claims := rfl
@[simp] theorem State.schedule_powerUps (s : State) (t p : Nat) (m : Micro) : (s.schedule t p m).powerUps = s.powerUps := rfl
@[simp] theorem State.schedule_pendings (s : State) (t p : Nat) (m : Micro) : (s.schedule t p m).pendings = s.pendings := rfl
@[simp] theorem State.schedule_sends (s : State) (t p : Nat) (m : Micro) : (s.schedule t p m).sends = s.sends := rfl
@[simp] theorem State.schedule_colls (s : State) (t p : Nat) (m : Micro) : (s.schedule t p m).colls = s.colls := rfl

/-! ### `State.scheduleBel`: an event at a BELFRY count -/

@[simp] theorem State.scheduleBel_now (s : State) (t p : Nat) (m : Micro) : (s.scheduleBel t p m).now = s.now := rfl
@[simp] theorem State.scheduleBel_agenda (s : State) (t p : Nat) (m : Micro) : (s.scheduleBel t p m).agenda = s.agenda := rfl
@[simp] theorem State.scheduleBel_calendar (s : State) (t p : Nat) (m : Micro) : (s.scheduleBel t p m).calendar = s.calendar ++ [{ at_ := s.now + (t - s.bel), phase := p, what := m }] := rfl
@[simp] theorem State.scheduleBel_issue (s : State) (t p : Nat) (m : Micro) : (s.scheduleBel t p m).issue = s.issue := rfl
@[simp] theorem State.scheduleBel_mask (s : State) (t p : Nat) (m : Micro) : (s.scheduleBel t p m).mask = s.mask := rfl
@[simp] theorem State.scheduleBel_fgHeld (s : State) (t p : Nat) (m : Micro) : (s.scheduleBel t p m).fgHeld = s.fgHeld := rfl
@[simp] theorem State.scheduleBel_free (s : State) (t p : Nat) (m : Micro) : (s.scheduleBel t p m).free = s.free := rfl
@[simp] theorem State.scheduleBel_nextId (s : State) (t p : Nat) (m : Micro) : (s.scheduleBel t p m).nextId = s.nextId := rfl
@[simp] theorem State.scheduleBel_belfry (s : State) (t p : Nat) (m : Micro) : (s.scheduleBel t p m).belfry = s.belfry := rfl
@[simp] theorem State.scheduleBel_belfryOn (s : State) (t p : Nat) (m : Micro) : (s.scheduleBel t p m).belfryOn = s.belfryOn := rfl
@[simp] theorem State.scheduleBel_pkg (s : State) (t p : Nat) (m : Micro) : (s.scheduleBel t p m).pkg = s.pkg := rfl
@[simp] theorem State.scheduleBel_ready (s : State) (t p : Nat) (m : Micro) : (s.scheduleBel t p m).ready = s.ready := rfl
@[simp] theorem State.scheduleBel_stage (s : State) (t p : Nat) (m : Micro) : (s.scheduleBel t p m).stage = s.stage := rfl
@[simp] theorem State.scheduleBel_berr (s : State) (t p : Nat) (m : Micro) : (s.scheduleBel t p m).berr = s.berr := rfl
@[simp] theorem State.scheduleBel_pres (s : State) (t p : Nat) (m : Micro) : (s.scheduleBel t p m).pres = s.pres := rfl
@[simp] theorem State.scheduleBel_svc (s : State) (t p : Nat) (m : Micro) : (s.scheduleBel t p m).svc = s.svc := rfl
@[simp] theorem State.scheduleBel_retired (s : State) (t p : Nat) (m : Micro) : (s.scheduleBel t p m).retired = s.retired := rfl
@[simp] theorem State.scheduleBel_retiredFor (s : State) (t p : Nat) (m : Micro) : (s.scheduleBel t p m).retiredFor = s.retiredFor := rfl
@[simp] theorem State.scheduleBel_offline (s : State) (t p : Nat) (m : Micro) : (s.scheduleBel t p m).offline = s.offline := rfl
@[simp] theorem State.scheduleBel_degraded (s : State) (t p : Nat) (m : Micro) : (s.scheduleBel t p m).degraded = s.degraded := rfl
@[simp] theorem State.scheduleBel_bar2base (s : State) (t p : Nat) (m : Micro) : (s.scheduleBel t p m).bar2base = s.bar2base := rfl
@[simp] theorem State.scheduleBel_bar2size (s : State) (t p : Nat) (m : Micro) : (s.scheduleBel t p m).bar2size = s.bar2size := rfl
@[simp] theorem State.scheduleBel_offStat (s : State) (t p : Nat) (m : Micro) : (s.scheduleBel t p m).offStat = s.offStat := rfl
@[simp] theorem State.scheduleBel_offBusy (s : State) (t p : Nat) (m : Micro) : (s.scheduleBel t p m).offBusy = s.offBusy := rfl
@[simp] theorem State.scheduleBel_offReq (s : State) (t p : Nat) (m : Micro) : (s.scheduleBel t p m).offReq = s.offReq := rfl
@[simp] theorem State.scheduleBel_offMap (s : State) (t p : Nat) (m : Micro) : (s.scheduleBel t p m).offMap = s.offMap := rfl
@[simp] theorem State.scheduleBel_marg (s : State) (t p : Nat) (m : Micro) : (s.scheduleBel t p m).marg = s.marg := rfl
@[simp] theorem State.scheduleBel_mres (s : State) (t p : Nat) (m : Micro) : (s.scheduleBel t p m).mres = s.mres := rfl
@[simp] theorem State.scheduleBel_mcmdNow (s : State) (t p : Nat) (m : Micro) : (s.scheduleBel t p m).mcmdNow = s.mcmdNow := rfl
@[simp] theorem State.scheduleBel_invalFrom (s : State) (t p : Nat) (m : Micro) : (s.scheduleBel t p m).invalFrom = s.invalFrom := rfl
@[simp] theorem State.scheduleBel_psuba (s : State) (t p : Nat) (m : Micro) : (s.scheduleBel t p m).psuba = s.psuba := rfl
@[simp] theorem State.scheduleBel_psubl (s : State) (t p : Nat) (m : Micro) : (s.scheduleBel t p m).psubl = s.psubl := rfl
@[simp] theorem State.scheduleBel_pstat (s : State) (t p : Nat) (m : Micro) : (s.scheduleBel t p m).pstat = s.pstat := rfl
@[simp] theorem State.scheduleBel_proofing (s : State) (t p : Nat) (m : Micro) : (s.scheduleBel t p m).proofing = s.proofing := rfl
@[simp] theorem State.scheduleBel_pres64 (s : State) (t p : Nat) (m : Micro) : (s.scheduleBel t p m).pres64 = s.pres64 := rfl
@[simp] theorem State.scheduleBel_meas (s : State) (t p : Nat) (m : Micro) : (s.scheduleBel t p m).meas = s.meas := rfl
@[simp] theorem State.scheduleBel_therm (s : State) (t p : Nat) (m : Micro) : (s.scheduleBel t p m).therm = s.therm := rfl
@[simp] theorem State.scheduleBel_mpwr (s : State) (t p : Nat) (m : Micro) : (s.scheduleBel t p m).mpwr = s.mpwr := rfl
@[simp] theorem State.scheduleBel_plim (s : State) (t p : Nat) (m : Micro) : (s.scheduleBel t p m).plim = s.plim := rfl
@[simp] theorem State.scheduleBel_psts (s : State) (t p : Nat) (m : Micro) : (s.scheduleBel t p m).psts = s.psts := rfl
@[simp] theorem State.scheduleBel_overWindows (s : State) (t p : Nat) (m : Micro) : (s.scheduleBel t p m).overWindows = s.overWindows := rfl
@[simp] theorem State.scheduleBel_placeHold (s : State) (t p : Nat) (m : Micro) : (s.scheduleBel t p m).placeHold = s.placeHold := rfl
@[simp] theorem State.scheduleBel_shutDown (s : State) (t p : Nat) (m : Micro) : (s.scheduleBel t p m).shutDown = s.shutDown := rfl
@[simp] theorem State.scheduleBel_dumpIx (s : State) (t p : Nat) (m : Micro) : (s.scheduleBel t p m).dumpIx = s.dumpIx := rfl
@[simp] theorem State.scheduleBel_perf (s : State) (t p : Nat) (m : Micro) : (s.scheduleBel t p m).perf = s.perf := rfl
@[simp] theorem State.scheduleBel_flash (s : State) (t p : Nat) (m : Micro) : (s.scheduleBel t p m).flash = s.flash := rfl
@[simp] theorem State.scheduleBel_firmware (s : State) (t p : Nat) (m : Micro) : (s.scheduleBel t p m).firmware = s.firmware := rfl
@[simp] theorem State.scheduleBel_msixTable (s : State) (t p : Nat) (m : Micro) : (s.scheduleBel t p m).msixTable = s.msixTable := rfl
@[simp] theorem State.scheduleBel_msixPend (s : State) (t p : Nat) (m : Micro) : (s.scheduleBel t p m).msixPend = s.msixPend := rfl
@[simp] theorem State.scheduleBel_msixOn (s : State) (t p : Nat) (m : Micro) : (s.scheduleBel t p m).msixOn = s.msixOn := rfl
@[simp] theorem State.scheduleBel_msixAll (s : State) (t p : Nat) (m : Micro) : (s.scheduleBel t p m).msixAll = s.msixAll := rfl
@[simp] theorem State.scheduleBel_qpages (s : State) (t p : Nat) (m : Micro) : (s.scheduleBel t p m).qpages = s.qpages := rfl
@[simp] theorem State.scheduleBel_dies (s : State) (t p : Nat) (m : Micro) : (s.scheduleBel t p m).dies = s.dies := rfl
@[simp] theorem State.scheduleBel_hbm (s : State) (t p : Nat) (m : Micro) : (s.scheduleBel t p m).hbm = s.hbm := rfl
@[simp] theorem State.scheduleBel_poison (s : State) (t p : Nat) (m : Micro) : (s.scheduleBel t p m).poison = s.poison := rfl
@[simp] theorem State.scheduleBel_remap (s : State) (t p : Nat) (m : Micro) : (s.scheduleBel t p m).remap = s.remap := rfl
@[simp] theorem State.scheduleBel_lostFrames (s : State) (t p : Nat) (m : Micro) : (s.scheduleBel t p m).lostFrames = s.lostFrames := rfl
@[simp] theorem State.scheduleBel_scalarBook (s : State) (t p : Nat) (m : Micro) : (s.scheduleBel t p m).scalarBook = s.scalarBook := rfl
@[simp] theorem State.scheduleBel_elasticBook (s : State) (t p : Nat) (m : Micro) : (s.scheduleBel t p m).elasticBook = s.elasticBook := rfl
@[simp] theorem State.scheduleBel_claimed (s : State) (t p : Nat) (m : Micro) : (s.scheduleBel t p m).claimed = s.claimed := rfl
@[simp] theorem State.scheduleBel_edges (s : State) (t p : Nat) (m : Micro) : (s.scheduleBel t p m).edges = s.edges := rfl
@[simp] theorem State.scheduleBel_edgeLate (s : State) (t p : Nat) (m : Micro) : (s.scheduleBel t p m).edgeLate = s.edgeLate := rfl
@[simp] theorem State.scheduleBel_roots (s : State) (t p : Nat) (m : Micro) : (s.scheduleBel t p m).roots = s.roots := rfl
@[simp] theorem State.scheduleBel_fwd (s : State) (t p : Nat) (m : Micro) : (s.scheduleBel t p m).fwd = s.fwd := rfl
@[simp] theorem State.scheduleBel_baseTT (s : State) (t p : Nat) (m : Micro) : (s.scheduleBel t p m).baseTT = s.baseTT := rfl
@[simp] theorem State.scheduleBel_newTT (s : State) (t p : Nat) (m : Micro) : (s.scheduleBel t p m).newTT = s.newTT := rfl
@[simp] theorem State.scheduleBel_handlers (s : State) (t p : Nat) (m : Micro) : (s.scheduleBel t p m).handlers = s.handlers := rfl
@[simp] theorem State.scheduleBel_domain (s : State) (t p : Nat) (m : Micro) : (s.scheduleBel t p m).domain = s.domain := rfl
@[simp] theorem State.scheduleBel_flights (s : State) (t p : Nat) (m : Micro) : (s.scheduleBel t p m).flights = s.flights := rfl
@[simp] theorem State.scheduleBel_lanterns (s : State) (t p : Nat) (m : Micro) : (s.scheduleBel t p m).lanterns = s.lanterns := rfl
@[simp] theorem State.scheduleBel_lanternReqs (s : State) (t p : Nat) (m : Micro) : (s.scheduleBel t p m).lanternReqs = s.lanternReqs := rfl
@[simp] theorem State.scheduleBel_outbox (s : State) (t p : Nat) (m : Micro) : (s.scheduleBel t p m).outbox = s.outbox := rfl
@[simp] theorem State.scheduleBel_waitingOut (s : State) (t p : Nat) (m : Micro) : (s.scheduleBel t p m).waitingOut = s.waitingOut := rfl
@[simp] theorem State.scheduleBel_transit (s : State) (t p : Nat) (m : Micro) : (s.scheduleBel t p m).transit = s.transit := rfl
@[simp] theorem State.scheduleBel_elastic (s : State) (t p : Nat) (m : Micro) : (s.scheduleBel t p m).elastic = s.elastic := rfl
@[simp] theorem State.scheduleBel_hostOut (s : State) (t p : Nat) (m : Micro) : (s.scheduleBel t p m).hostOut = s.hostOut := rfl
@[simp] theorem State.scheduleBel_hostQ (s : State) (t p : Nat) (m : Micro) : (s.scheduleBel t p m).hostQ = s.hostQ := rfl
@[simp] theorem State.scheduleBel_control (s : State) (t p : Nat) (m : Micro) : (s.scheduleBel t p m).control = s.control := rfl
@[simp] theorem State.scheduleBel_images (s : State) (t p : Nat) (m : Micro) : (s.scheduleBel t p m).images = s.images := rfl
@[simp] theorem State.scheduleBel_queues (s : State) (t p : Nat) (m : Micro) : (s.scheduleBel t p m).queues = s.queues := rfl
@[simp] theorem State.scheduleBel_copies (s : State) (t p : Nat) (m : Micro) : (s.scheduleBel t p m).copies = s.copies := rfl
@[simp] theorem State.scheduleBel_fetched (s : State) (t p : Nat) (m : Micro) : (s.scheduleBel t p m).fetched = s.fetched := rfl
@[simp] theorem State.scheduleBel_rr (s : State) (t p : Nat) (m : Micro) : (s.scheduleBel t p m).rr = s.rr := rfl
@[simp] theorem State.scheduleBel_rrCopy (s : State) (t p : Nat) (m : Micro) : (s.scheduleBel t p m).rrCopy = s.rrCopy := rfl
@[simp] theorem State.scheduleBel_launches (s : State) (t p : Nat) (m : Micro) : (s.scheduleBel t p m).launches = s.launches := rfl
@[simp] theorem State.scheduleBel_tasks (s : State) (t p : Nat) (m : Micro) : (s.scheduleBel t p m).tasks = s.tasks := rfl
@[simp] theorem State.scheduleBel_gangs (s : State) (t p : Nat) (m : Micro) : (s.scheduleBel t p m).gangs = s.gangs := rfl
@[simp] theorem State.scheduleBel_reservations (s : State) (t p : Nat) (m : Micro) : (s.scheduleBel t p m).reservations = s.reservations := rfl
@[simp] theorem State.scheduleBel_claims (s : State) (t p : Nat) (m : Micro) : (s.scheduleBel t p m).claims = s.claims := rfl
@[simp] theorem State.scheduleBel_powerUps (s : State) (t p : Nat) (m : Micro) : (s.scheduleBel t p m).powerUps = s.powerUps := rfl
@[simp] theorem State.scheduleBel_pendings (s : State) (t p : Nat) (m : Micro) : (s.scheduleBel t p m).pendings = s.pendings := rfl
@[simp] theorem State.scheduleBel_sends (s : State) (t p : Nat) (m : Micro) : (s.scheduleBel t p m).sends = s.sends := rfl
@[simp] theorem State.scheduleBel_colls (s : State) (t p : Nat) (m : Micro) : (s.scheduleBel t p m).colls = s.colls := rfl

/-! ### `State.soon`: an event at once -/

@[simp] theorem State.soon_now (s : State) (m : Micro) : (s.soon m).now = s.now := rfl
@[simp] theorem State.soon_agenda (s : State) (m : Micro) : (s.soon m).agenda = m :: s.agenda := rfl
@[simp] theorem State.soon_calendar (s : State) (m : Micro) : (s.soon m).calendar = s.calendar := rfl
@[simp] theorem State.soon_issue (s : State) (m : Micro) : (s.soon m).issue = s.issue := rfl
@[simp] theorem State.soon_mask (s : State) (m : Micro) : (s.soon m).mask = s.mask := rfl
@[simp] theorem State.soon_fgHeld (s : State) (m : Micro) : (s.soon m).fgHeld = s.fgHeld := rfl
@[simp] theorem State.soon_free (s : State) (m : Micro) : (s.soon m).free = s.free := rfl
@[simp] theorem State.soon_nextId (s : State) (m : Micro) : (s.soon m).nextId = s.nextId := rfl
@[simp] theorem State.soon_belfry (s : State) (m : Micro) : (s.soon m).belfry = s.belfry := rfl
@[simp] theorem State.soon_belfryOn (s : State) (m : Micro) : (s.soon m).belfryOn = s.belfryOn := rfl
@[simp] theorem State.soon_pkg (s : State) (m : Micro) : (s.soon m).pkg = s.pkg := rfl
@[simp] theorem State.soon_ready (s : State) (m : Micro) : (s.soon m).ready = s.ready := rfl
@[simp] theorem State.soon_stage (s : State) (m : Micro) : (s.soon m).stage = s.stage := rfl
@[simp] theorem State.soon_berr (s : State) (m : Micro) : (s.soon m).berr = s.berr := rfl
@[simp] theorem State.soon_pres (s : State) (m : Micro) : (s.soon m).pres = s.pres := rfl
@[simp] theorem State.soon_svc (s : State) (m : Micro) : (s.soon m).svc = s.svc := rfl
@[simp] theorem State.soon_retired (s : State) (m : Micro) : (s.soon m).retired = s.retired := rfl
@[simp] theorem State.soon_retiredFor (s : State) (m : Micro) : (s.soon m).retiredFor = s.retiredFor := rfl
@[simp] theorem State.soon_offline (s : State) (m : Micro) : (s.soon m).offline = s.offline := rfl
@[simp] theorem State.soon_degraded (s : State) (m : Micro) : (s.soon m).degraded = s.degraded := rfl
@[simp] theorem State.soon_bar2base (s : State) (m : Micro) : (s.soon m).bar2base = s.bar2base := rfl
@[simp] theorem State.soon_bar2size (s : State) (m : Micro) : (s.soon m).bar2size = s.bar2size := rfl
@[simp] theorem State.soon_offStat (s : State) (m : Micro) : (s.soon m).offStat = s.offStat := rfl
@[simp] theorem State.soon_offBusy (s : State) (m : Micro) : (s.soon m).offBusy = s.offBusy := rfl
@[simp] theorem State.soon_offReq (s : State) (m : Micro) : (s.soon m).offReq = s.offReq := rfl
@[simp] theorem State.soon_offMap (s : State) (m : Micro) : (s.soon m).offMap = s.offMap := rfl
@[simp] theorem State.soon_marg (s : State) (m : Micro) : (s.soon m).marg = s.marg := rfl
@[simp] theorem State.soon_mres (s : State) (m : Micro) : (s.soon m).mres = s.mres := rfl
@[simp] theorem State.soon_mcmdNow (s : State) (m : Micro) : (s.soon m).mcmdNow = s.mcmdNow := rfl
@[simp] theorem State.soon_invalFrom (s : State) (m : Micro) : (s.soon m).invalFrom = s.invalFrom := rfl
@[simp] theorem State.soon_psuba (s : State) (m : Micro) : (s.soon m).psuba = s.psuba := rfl
@[simp] theorem State.soon_psubl (s : State) (m : Micro) : (s.soon m).psubl = s.psubl := rfl
@[simp] theorem State.soon_pstat (s : State) (m : Micro) : (s.soon m).pstat = s.pstat := rfl
@[simp] theorem State.soon_proofing (s : State) (m : Micro) : (s.soon m).proofing = s.proofing := rfl
@[simp] theorem State.soon_pres64 (s : State) (m : Micro) : (s.soon m).pres64 = s.pres64 := rfl
@[simp] theorem State.soon_meas (s : State) (m : Micro) : (s.soon m).meas = s.meas := rfl
@[simp] theorem State.soon_therm (s : State) (m : Micro) : (s.soon m).therm = s.therm := rfl
@[simp] theorem State.soon_mpwr (s : State) (m : Micro) : (s.soon m).mpwr = s.mpwr := rfl
@[simp] theorem State.soon_plim (s : State) (m : Micro) : (s.soon m).plim = s.plim := rfl
@[simp] theorem State.soon_psts (s : State) (m : Micro) : (s.soon m).psts = s.psts := rfl
@[simp] theorem State.soon_overWindows (s : State) (m : Micro) : (s.soon m).overWindows = s.overWindows := rfl
@[simp] theorem State.soon_placeHold (s : State) (m : Micro) : (s.soon m).placeHold = s.placeHold := rfl
@[simp] theorem State.soon_shutDown (s : State) (m : Micro) : (s.soon m).shutDown = s.shutDown := rfl
@[simp] theorem State.soon_dumpIx (s : State) (m : Micro) : (s.soon m).dumpIx = s.dumpIx := rfl
@[simp] theorem State.soon_perf (s : State) (m : Micro) : (s.soon m).perf = s.perf := rfl
@[simp] theorem State.soon_flash (s : State) (m : Micro) : (s.soon m).flash = s.flash := rfl
@[simp] theorem State.soon_firmware (s : State) (m : Micro) : (s.soon m).firmware = s.firmware := rfl
@[simp] theorem State.soon_msixTable (s : State) (m : Micro) : (s.soon m).msixTable = s.msixTable := rfl
@[simp] theorem State.soon_msixPend (s : State) (m : Micro) : (s.soon m).msixPend = s.msixPend := rfl
@[simp] theorem State.soon_msixOn (s : State) (m : Micro) : (s.soon m).msixOn = s.msixOn := rfl
@[simp] theorem State.soon_msixAll (s : State) (m : Micro) : (s.soon m).msixAll = s.msixAll := rfl
@[simp] theorem State.soon_qpages (s : State) (m : Micro) : (s.soon m).qpages = s.qpages := rfl
@[simp] theorem State.soon_dies (s : State) (m : Micro) : (s.soon m).dies = s.dies := rfl
@[simp] theorem State.soon_hbm (s : State) (m : Micro) : (s.soon m).hbm = s.hbm := rfl
@[simp] theorem State.soon_poison (s : State) (m : Micro) : (s.soon m).poison = s.poison := rfl
@[simp] theorem State.soon_remap (s : State) (m : Micro) : (s.soon m).remap = s.remap := rfl
@[simp] theorem State.soon_lostFrames (s : State) (m : Micro) : (s.soon m).lostFrames = s.lostFrames := rfl
@[simp] theorem State.soon_scalarBook (s : State) (m : Micro) : (s.soon m).scalarBook = s.scalarBook := rfl
@[simp] theorem State.soon_elasticBook (s : State) (m : Micro) : (s.soon m).elasticBook = s.elasticBook := rfl
@[simp] theorem State.soon_claimed (s : State) (m : Micro) : (s.soon m).claimed = s.claimed := rfl
@[simp] theorem State.soon_edges (s : State) (m : Micro) : (s.soon m).edges = s.edges := rfl
@[simp] theorem State.soon_edgeLate (s : State) (m : Micro) : (s.soon m).edgeLate = s.edgeLate := rfl
@[simp] theorem State.soon_roots (s : State) (m : Micro) : (s.soon m).roots = s.roots := rfl
@[simp] theorem State.soon_fwd (s : State) (m : Micro) : (s.soon m).fwd = s.fwd := rfl
@[simp] theorem State.soon_baseTT (s : State) (m : Micro) : (s.soon m).baseTT = s.baseTT := rfl
@[simp] theorem State.soon_newTT (s : State) (m : Micro) : (s.soon m).newTT = s.newTT := rfl
@[simp] theorem State.soon_handlers (s : State) (m : Micro) : (s.soon m).handlers = s.handlers := rfl
@[simp] theorem State.soon_domain (s : State) (m : Micro) : (s.soon m).domain = s.domain := rfl
@[simp] theorem State.soon_flights (s : State) (m : Micro) : (s.soon m).flights = s.flights := rfl
@[simp] theorem State.soon_lanterns (s : State) (m : Micro) : (s.soon m).lanterns = s.lanterns := rfl
@[simp] theorem State.soon_lanternReqs (s : State) (m : Micro) : (s.soon m).lanternReqs = s.lanternReqs := rfl
@[simp] theorem State.soon_outbox (s : State) (m : Micro) : (s.soon m).outbox = s.outbox := rfl
@[simp] theorem State.soon_waitingOut (s : State) (m : Micro) : (s.soon m).waitingOut = s.waitingOut := rfl
@[simp] theorem State.soon_transit (s : State) (m : Micro) : (s.soon m).transit = s.transit := rfl
@[simp] theorem State.soon_elastic (s : State) (m : Micro) : (s.soon m).elastic = s.elastic := rfl
@[simp] theorem State.soon_hostOut (s : State) (m : Micro) : (s.soon m).hostOut = s.hostOut := rfl
@[simp] theorem State.soon_hostQ (s : State) (m : Micro) : (s.soon m).hostQ = s.hostQ := rfl
@[simp] theorem State.soon_control (s : State) (m : Micro) : (s.soon m).control = s.control := rfl
@[simp] theorem State.soon_images (s : State) (m : Micro) : (s.soon m).images = s.images := rfl
@[simp] theorem State.soon_queues (s : State) (m : Micro) : (s.soon m).queues = s.queues := rfl
@[simp] theorem State.soon_copies (s : State) (m : Micro) : (s.soon m).copies = s.copies := rfl
@[simp] theorem State.soon_fetched (s : State) (m : Micro) : (s.soon m).fetched = s.fetched := rfl
@[simp] theorem State.soon_rr (s : State) (m : Micro) : (s.soon m).rr = s.rr := rfl
@[simp] theorem State.soon_rrCopy (s : State) (m : Micro) : (s.soon m).rrCopy = s.rrCopy := rfl
@[simp] theorem State.soon_launches (s : State) (m : Micro) : (s.soon m).launches = s.launches := rfl
@[simp] theorem State.soon_tasks (s : State) (m : Micro) : (s.soon m).tasks = s.tasks := rfl
@[simp] theorem State.soon_gangs (s : State) (m : Micro) : (s.soon m).gangs = s.gangs := rfl
@[simp] theorem State.soon_reservations (s : State) (m : Micro) : (s.soon m).reservations = s.reservations := rfl
@[simp] theorem State.soon_claims (s : State) (m : Micro) : (s.soon m).claims = s.claims := rfl
@[simp] theorem State.soon_powerUps (s : State) (m : Micro) : (s.soon m).powerUps = s.powerUps := rfl
@[simp] theorem State.soon_pendings (s : State) (m : Micro) : (s.soon m).pendings = s.pendings := rfl
@[simp] theorem State.soon_sends (s : State) (m : Micro) : (s.soon m).sends = s.sends := rfl
@[simp] theorem State.soon_colls (s : State) (m : Micro) : (s.soon m).colls = s.colls := rfl

/-! ### `State.soonAll`: events at once -/

@[simp] theorem State.soonAll_now (s : State) (ms : List Micro) : (s.soonAll ms).now = s.now := rfl
@[simp] theorem State.soonAll_agenda (s : State) (ms : List Micro) : (s.soonAll ms).agenda = ms ++ s.agenda := rfl
@[simp] theorem State.soonAll_calendar (s : State) (ms : List Micro) : (s.soonAll ms).calendar = s.calendar := rfl
@[simp] theorem State.soonAll_issue (s : State) (ms : List Micro) : (s.soonAll ms).issue = s.issue := rfl
@[simp] theorem State.soonAll_mask (s : State) (ms : List Micro) : (s.soonAll ms).mask = s.mask := rfl
@[simp] theorem State.soonAll_fgHeld (s : State) (ms : List Micro) : (s.soonAll ms).fgHeld = s.fgHeld := rfl
@[simp] theorem State.soonAll_free (s : State) (ms : List Micro) : (s.soonAll ms).free = s.free := rfl
@[simp] theorem State.soonAll_nextId (s : State) (ms : List Micro) : (s.soonAll ms).nextId = s.nextId := rfl
@[simp] theorem State.soonAll_belfry (s : State) (ms : List Micro) : (s.soonAll ms).belfry = s.belfry := rfl
@[simp] theorem State.soonAll_belfryOn (s : State) (ms : List Micro) : (s.soonAll ms).belfryOn = s.belfryOn := rfl
@[simp] theorem State.soonAll_pkg (s : State) (ms : List Micro) : (s.soonAll ms).pkg = s.pkg := rfl
@[simp] theorem State.soonAll_ready (s : State) (ms : List Micro) : (s.soonAll ms).ready = s.ready := rfl
@[simp] theorem State.soonAll_stage (s : State) (ms : List Micro) : (s.soonAll ms).stage = s.stage := rfl
@[simp] theorem State.soonAll_berr (s : State) (ms : List Micro) : (s.soonAll ms).berr = s.berr := rfl
@[simp] theorem State.soonAll_pres (s : State) (ms : List Micro) : (s.soonAll ms).pres = s.pres := rfl
@[simp] theorem State.soonAll_svc (s : State) (ms : List Micro) : (s.soonAll ms).svc = s.svc := rfl
@[simp] theorem State.soonAll_retired (s : State) (ms : List Micro) : (s.soonAll ms).retired = s.retired := rfl
@[simp] theorem State.soonAll_retiredFor (s : State) (ms : List Micro) : (s.soonAll ms).retiredFor = s.retiredFor := rfl
@[simp] theorem State.soonAll_offline (s : State) (ms : List Micro) : (s.soonAll ms).offline = s.offline := rfl
@[simp] theorem State.soonAll_degraded (s : State) (ms : List Micro) : (s.soonAll ms).degraded = s.degraded := rfl
@[simp] theorem State.soonAll_bar2base (s : State) (ms : List Micro) : (s.soonAll ms).bar2base = s.bar2base := rfl
@[simp] theorem State.soonAll_bar2size (s : State) (ms : List Micro) : (s.soonAll ms).bar2size = s.bar2size := rfl
@[simp] theorem State.soonAll_offStat (s : State) (ms : List Micro) : (s.soonAll ms).offStat = s.offStat := rfl
@[simp] theorem State.soonAll_offBusy (s : State) (ms : List Micro) : (s.soonAll ms).offBusy = s.offBusy := rfl
@[simp] theorem State.soonAll_offReq (s : State) (ms : List Micro) : (s.soonAll ms).offReq = s.offReq := rfl
@[simp] theorem State.soonAll_offMap (s : State) (ms : List Micro) : (s.soonAll ms).offMap = s.offMap := rfl
@[simp] theorem State.soonAll_marg (s : State) (ms : List Micro) : (s.soonAll ms).marg = s.marg := rfl
@[simp] theorem State.soonAll_mres (s : State) (ms : List Micro) : (s.soonAll ms).mres = s.mres := rfl
@[simp] theorem State.soonAll_mcmdNow (s : State) (ms : List Micro) : (s.soonAll ms).mcmdNow = s.mcmdNow := rfl
@[simp] theorem State.soonAll_invalFrom (s : State) (ms : List Micro) : (s.soonAll ms).invalFrom = s.invalFrom := rfl
@[simp] theorem State.soonAll_psuba (s : State) (ms : List Micro) : (s.soonAll ms).psuba = s.psuba := rfl
@[simp] theorem State.soonAll_psubl (s : State) (ms : List Micro) : (s.soonAll ms).psubl = s.psubl := rfl
@[simp] theorem State.soonAll_pstat (s : State) (ms : List Micro) : (s.soonAll ms).pstat = s.pstat := rfl
@[simp] theorem State.soonAll_proofing (s : State) (ms : List Micro) : (s.soonAll ms).proofing = s.proofing := rfl
@[simp] theorem State.soonAll_pres64 (s : State) (ms : List Micro) : (s.soonAll ms).pres64 = s.pres64 := rfl
@[simp] theorem State.soonAll_meas (s : State) (ms : List Micro) : (s.soonAll ms).meas = s.meas := rfl
@[simp] theorem State.soonAll_therm (s : State) (ms : List Micro) : (s.soonAll ms).therm = s.therm := rfl
@[simp] theorem State.soonAll_mpwr (s : State) (ms : List Micro) : (s.soonAll ms).mpwr = s.mpwr := rfl
@[simp] theorem State.soonAll_plim (s : State) (ms : List Micro) : (s.soonAll ms).plim = s.plim := rfl
@[simp] theorem State.soonAll_psts (s : State) (ms : List Micro) : (s.soonAll ms).psts = s.psts := rfl
@[simp] theorem State.soonAll_overWindows (s : State) (ms : List Micro) : (s.soonAll ms).overWindows = s.overWindows := rfl
@[simp] theorem State.soonAll_placeHold (s : State) (ms : List Micro) : (s.soonAll ms).placeHold = s.placeHold := rfl
@[simp] theorem State.soonAll_shutDown (s : State) (ms : List Micro) : (s.soonAll ms).shutDown = s.shutDown := rfl
@[simp] theorem State.soonAll_dumpIx (s : State) (ms : List Micro) : (s.soonAll ms).dumpIx = s.dumpIx := rfl
@[simp] theorem State.soonAll_perf (s : State) (ms : List Micro) : (s.soonAll ms).perf = s.perf := rfl
@[simp] theorem State.soonAll_flash (s : State) (ms : List Micro) : (s.soonAll ms).flash = s.flash := rfl
@[simp] theorem State.soonAll_firmware (s : State) (ms : List Micro) : (s.soonAll ms).firmware = s.firmware := rfl
@[simp] theorem State.soonAll_msixTable (s : State) (ms : List Micro) : (s.soonAll ms).msixTable = s.msixTable := rfl
@[simp] theorem State.soonAll_msixPend (s : State) (ms : List Micro) : (s.soonAll ms).msixPend = s.msixPend := rfl
@[simp] theorem State.soonAll_msixOn (s : State) (ms : List Micro) : (s.soonAll ms).msixOn = s.msixOn := rfl
@[simp] theorem State.soonAll_msixAll (s : State) (ms : List Micro) : (s.soonAll ms).msixAll = s.msixAll := rfl
@[simp] theorem State.soonAll_qpages (s : State) (ms : List Micro) : (s.soonAll ms).qpages = s.qpages := rfl
@[simp] theorem State.soonAll_dies (s : State) (ms : List Micro) : (s.soonAll ms).dies = s.dies := rfl
@[simp] theorem State.soonAll_hbm (s : State) (ms : List Micro) : (s.soonAll ms).hbm = s.hbm := rfl
@[simp] theorem State.soonAll_poison (s : State) (ms : List Micro) : (s.soonAll ms).poison = s.poison := rfl
@[simp] theorem State.soonAll_remap (s : State) (ms : List Micro) : (s.soonAll ms).remap = s.remap := rfl
@[simp] theorem State.soonAll_lostFrames (s : State) (ms : List Micro) : (s.soonAll ms).lostFrames = s.lostFrames := rfl
@[simp] theorem State.soonAll_scalarBook (s : State) (ms : List Micro) : (s.soonAll ms).scalarBook = s.scalarBook := rfl
@[simp] theorem State.soonAll_elasticBook (s : State) (ms : List Micro) : (s.soonAll ms).elasticBook = s.elasticBook := rfl
@[simp] theorem State.soonAll_claimed (s : State) (ms : List Micro) : (s.soonAll ms).claimed = s.claimed := rfl
@[simp] theorem State.soonAll_edges (s : State) (ms : List Micro) : (s.soonAll ms).edges = s.edges := rfl
@[simp] theorem State.soonAll_edgeLate (s : State) (ms : List Micro) : (s.soonAll ms).edgeLate = s.edgeLate := rfl
@[simp] theorem State.soonAll_roots (s : State) (ms : List Micro) : (s.soonAll ms).roots = s.roots := rfl
@[simp] theorem State.soonAll_fwd (s : State) (ms : List Micro) : (s.soonAll ms).fwd = s.fwd := rfl
@[simp] theorem State.soonAll_baseTT (s : State) (ms : List Micro) : (s.soonAll ms).baseTT = s.baseTT := rfl
@[simp] theorem State.soonAll_newTT (s : State) (ms : List Micro) : (s.soonAll ms).newTT = s.newTT := rfl
@[simp] theorem State.soonAll_handlers (s : State) (ms : List Micro) : (s.soonAll ms).handlers = s.handlers := rfl
@[simp] theorem State.soonAll_domain (s : State) (ms : List Micro) : (s.soonAll ms).domain = s.domain := rfl
@[simp] theorem State.soonAll_flights (s : State) (ms : List Micro) : (s.soonAll ms).flights = s.flights := rfl
@[simp] theorem State.soonAll_lanterns (s : State) (ms : List Micro) : (s.soonAll ms).lanterns = s.lanterns := rfl
@[simp] theorem State.soonAll_lanternReqs (s : State) (ms : List Micro) : (s.soonAll ms).lanternReqs = s.lanternReqs := rfl
@[simp] theorem State.soonAll_outbox (s : State) (ms : List Micro) : (s.soonAll ms).outbox = s.outbox := rfl
@[simp] theorem State.soonAll_waitingOut (s : State) (ms : List Micro) : (s.soonAll ms).waitingOut = s.waitingOut := rfl
@[simp] theorem State.soonAll_transit (s : State) (ms : List Micro) : (s.soonAll ms).transit = s.transit := rfl
@[simp] theorem State.soonAll_elastic (s : State) (ms : List Micro) : (s.soonAll ms).elastic = s.elastic := rfl
@[simp] theorem State.soonAll_hostOut (s : State) (ms : List Micro) : (s.soonAll ms).hostOut = s.hostOut := rfl
@[simp] theorem State.soonAll_hostQ (s : State) (ms : List Micro) : (s.soonAll ms).hostQ = s.hostQ := rfl
@[simp] theorem State.soonAll_control (s : State) (ms : List Micro) : (s.soonAll ms).control = s.control := rfl
@[simp] theorem State.soonAll_images (s : State) (ms : List Micro) : (s.soonAll ms).images = s.images := rfl
@[simp] theorem State.soonAll_queues (s : State) (ms : List Micro) : (s.soonAll ms).queues = s.queues := rfl
@[simp] theorem State.soonAll_copies (s : State) (ms : List Micro) : (s.soonAll ms).copies = s.copies := rfl
@[simp] theorem State.soonAll_fetched (s : State) (ms : List Micro) : (s.soonAll ms).fetched = s.fetched := rfl
@[simp] theorem State.soonAll_rr (s : State) (ms : List Micro) : (s.soonAll ms).rr = s.rr := rfl
@[simp] theorem State.soonAll_rrCopy (s : State) (ms : List Micro) : (s.soonAll ms).rrCopy = s.rrCopy := rfl
@[simp] theorem State.soonAll_launches (s : State) (ms : List Micro) : (s.soonAll ms).launches = s.launches := rfl
@[simp] theorem State.soonAll_tasks (s : State) (ms : List Micro) : (s.soonAll ms).tasks = s.tasks := rfl
@[simp] theorem State.soonAll_gangs (s : State) (ms : List Micro) : (s.soonAll ms).gangs = s.gangs := rfl
@[simp] theorem State.soonAll_reservations (s : State) (ms : List Micro) : (s.soonAll ms).reservations = s.reservations := rfl
@[simp] theorem State.soonAll_claims (s : State) (ms : List Micro) : (s.soonAll ms).claims = s.claims := rfl
@[simp] theorem State.soonAll_powerUps (s : State) (ms : List Micro) : (s.soonAll ms).powerUps = s.powerUps := rfl
@[simp] theorem State.soonAll_pendings (s : State) (ms : List Micro) : (s.soonAll ms).pendings = s.pendings := rfl
@[simp] theorem State.soonAll_sends (s : State) (ms : List Micro) : (s.soonAll ms).sends = s.sends := rfl
@[simp] theorem State.soonAll_colls (s : State) (ms : List Micro) : (s.soonAll ms).colls = s.colls := rfl

end Sys2Proof.Machine
end

