-- ==== Sys2Proof/Tests/Slice0.lean ====
section
/-!
SUPPORT. Tests of this model: the checks of well-formedness, words written out from the spec's encodings and what they decode
to, and for every statement of the obligations that has hypotheses a concrete state and operands that meet them.
-/

set_option Elab.async false

namespace Sys2Proof.Tests

open Sys2Proof Sys2Proof.Machine

/-! ### Well-formedness: what each check refuses (02 Table 2-10) -/

/-- A slot of a class, unguarded, without an extension. -/
def hd (c : BitVec 4) : Hdr := { cls := c, g := 0, gn := false, ext := none }

/-- A slot of a class with an extension. -/
def hx (c : BitVec 4) (e : BitVec 20) : Hdr := { hd c with ext := some e }

/-- SCALAR-RRR operands. -/
def r3 (d x y : BitVec 6) (fn : BitVec 6 := 0) (z : BitVec 6 := 0) (rnd : Rnd := .ne) : RRR :=
  { d := d, x := x, y := y, z := z, fn := fn, rnd := rnd }

/-- VEC-RRRR operands. -/
def v4 (d x y z : BitVec 6) (fmt : Fmt) (sub : BitVec 6 := 0) (ovf : Ovf := .inf) : VRRRR :=
  { d := d, x := x, y := y, z := z, fmt := fmt, ovf := ovf, rnd := .ne, ftz := false, sub := sub }

/-- VEC-RRI operands. -/
def vi (d x : BitVec 6) (fmt : Fmt) (imm : BitVec 21) (sub : BitVec 6 := 0) (ovf : Ovf := .inf) : VRRI :=
  { d := d, x := x, fmt := fmt, ovf := ovf, rnd := .ne, ftz := false, sub := sub, imm := imm }

/-- TILE operands. -/
def tl (td tx : BitVec 3) (fa fb : Fmt) (n : BitVec 6 := 0) : Tile :=
  { td := td, tx := tx, fa := fa, fb := fb, n := n, cap := 0, b := 0, ks := 0, js := 0, sp := false }

/-- TILE-ST operands of a whole store to the address register 0. -/
def tst (fd : Fmt) (ovf : Ovf) : TileSt :=
  { td := 0, rg := 0, nrg := 7, fd := fd, ovf := ovf, rnd := .ne, ftz := false, el := 0, dl := 0, b := 0 }

/-- SYS operands. -/
def sy (d x : BitVec 6) (imm : BitVec 24 := 0) (sr : BitVec 8 := 0) (cls : BitVec 4 := 0) : Sys :=
  { d := d, x := x, sr := sr, scope := .ctx, cls := cls, imm := imm }

/-- XFER operands. -/
def xf (d x y : BitVec 6) (sub : BitVec 6 := 0) (imm : BitVec 15 := 0) (z : BitVec 6 := 0) : Xfer :=
  { d := d, x := x, y := y, z := z, pr := 0, scope := .ctx, sub := sub, imm := imm }

/-- IDX operands. -/
def ix (d x y : BitVec 6) (fmt : Fmt) (sub : BitVec 6 := 0) (imm : BitVec 18 := 0) (tk : BitVec 3 := 0) : Idx :=
  { d := d, x := x, y := y, tk := tk, fmt := fmt, sub := sub, imm := imm }

/-- NET operands. -/
def nt (d : BitVec 6) (pl : BitVec 12) (b : BitVec 6) (roff : BitVec 18 := 0) (sub : BitVec 4 := 0) : Net :=
  { d := d, pl := pl, b := b, roff := roff, sub := sub }

/-- An opcode outside its classes: SUB on the clusters, LDS on an M-die's tile slot, MWB on a V-die (R74). -/
theorem test_class_refused :
    Instr.classOk .v (.sub (hd 2) (r3 1 2 3)) = false ∧ Instr.classOk .m (.lds (hd 2) { d := 1, x := 2, fn := 0, imm := 0 }) = false ∧
    Instr.classOk .v (.mwb (hd 12) (nt 1 0 2)) = false ∧ Instr.classOk .m (.sub (hd 1) (r3 1 2 3)) = false ∧
    Instr.classOk .v (.sub (hd 1) (r3 1 2 3)) = true ∧ Instr.classOk .v (.idleBundle 0 false false) = false := by decide

/-- Guards: G names q0 to q7 outside the clusters, and GN on q0 or p0 is reserved (R57). -/
theorem test_guard_refused :
    Instr.fieldRejects .v false (.add { hd 0 with g := 8 } (r3 1 2 3)) = [.reservedValue] ∧
    Instr.fieldRejects .v false (.add { hd 0 with gn := true } (r3 1 2 3)) = [.reservedValue] ∧
    Instr.fieldRejects .v false (.vadd { hd 2 with gn := true } (v4 1 2 3 0 .i32)) = [.reservedValue] ∧
    Instr.fieldRejects .v false (.vadd { hd 2 with g := 15, gn := true } (v4 1 2 3 0 .i32)) = [] := by decide

/-- Extensions: where the format allows none, a reserved KIND, a CMASK whose lowest cluster is not the carrier's, SP without
its plate (R61 to R63). -/
theorem test_extension_refused :
    Instr.fieldRejects .v false (.add (hx 0 0) (r3 1 2 3)) = [.extension] ∧
    Instr.fieldRejects .v false (.addi (hx 0 0x80000) { d := 1, x := 2, fn := 0, imm := 0 }) = [.reservedValue] ∧
    Instr.fieldRejects .v false (.addi (hx 0 0x40000) { d := 1, x := 2, fn := 0, imm := 0 }) = [.extension] ∧
    Instr.fieldRejects .v false (.vadd (hx 2 0x40800) (v4 1 2 3 0 .i32)) = [.extension] ∧
    Instr.fieldRejects .v false (.vadd (hx 2 0x40401) (v4 1 2 3 0 .i32)) = [.mbz, .extension] ∧
    Instr.fieldRejects .v false (.vadd (hx 2 0x40400) (v4 1 2 3 0 .i32)) = [] ∧
    Instr.fieldRejects .m false (.mma (hd 2) { tl 0 0 .bf16 .bf16 with sp := true }) = [.extension] := by decide

/-- Fields that must be zero: a register that the opcode does not use, SUB bits without a meaning, an operand of NPASS,
EXITS above 16 bits (R56). -/
theorem test_mbz_refused :
    Instr.fieldRejects .v false (.add (hd 0) (r3 1 2 3 0 4)) = [.mbz] ∧
    Instr.fieldRejects .v false (.vadd (hd 2) (v4 1 2 3 0 .i32 1)) = [.mbz] ∧
    Instr.fieldRejects .v false (.npass (hd 14) (nt 1 0 2)) = [.mbz] ∧
    Instr.fieldRejects .v false (.exits (hd 0) (sy 0 0 0x10000)) = [.mbz] ∧
    Instr.fieldRejects .v false (.oqpush (hd 15) (xf 1 0 0)) = [.mbz] ∧
    Instr.fieldRejects .v false (.tclr (hd 11) (ix 1 0 0 .f64 0 1)) = [.mbz] := by decide

/-- Register numbers outside the file: q8, p16, a4, a latch 4 of a tile word (R56). -/
theorem test_register_refused :
    Instr.fieldRejects .v false (.cmp (hd 0) (r3 8 2 3)) = [.reservedValue] ∧
    Instr.fieldRejects .v false (.vcmp (hd 2) (v4 16 2 3 0 .i32)) = [.reservedValue] ∧
    Instr.fieldRejects .v false (.rclr (hd 10) (v4 4 0 0 0 .i32)) = [.reservedValue] ∧
    Instr.fieldRejects .m false (.mldw (hd 2) (tl 0 4 .f64 .bf16)) = [.reservedValue] := by decide

/-- Unused FN and RND bits of a scalar word; then reserved values: a field past bit 63, a reserved system register or one
a user image may not write, a DRAIN class, RND on an integer operation, policy 10 on integer elements, those of HBI8 among
them (R76, R77, R115, R138, R139). -/
theorem test_value_refused :
    Instr.fieldRejects .v false (.add (hd 0) (r3 1 2 3 1)) = [.mbz] ∧
    Instr.fieldRejects .v false (.add (hd 0) (r3 1 2 3 0 0 .tz)) = [.mbz] ∧
    Instr.fieldRejects .v false (.bfx (hd 0) { d := 1, x := 2, fn := 0, imm := 0x1F8 }) = [] ∧
    Instr.fieldRejects .v false (.bfx (hd 0) { d := 1, x := 2, fn := 0, imm := 0x238 }) = [.reservedValue] ∧
    Instr.fieldRejects .v false (.rdsr (hd 0) (sy 1 0 0 0x18)) = [.reservedValue] ∧
    Instr.fieldRejects .m false (.rdsr (hd 0) (sy 1 0 0 0x0B)) = [.reservedValue] ∧
    Instr.fieldRejects .v false (.wrsr (hd 0) (sy 0 1 0 0x01)) = [.reservedValue] ∧
    Instr.fieldRejects .v true (.wrsr (hd 0) (sy 0 1 0 0x01)) = [] ∧
    Instr.fieldRejects .v false (.drain (hd 0) (sy 0 0 0 0 7)) = [.reservedValue] ∧
    Instr.fieldRejects .v false (.vadd (hd 2) { v4 1 2 3 0 .i32 with rnd := .tz }) = [.reservedValue] ∧
    Instr.fieldRejects .v false (.vadd (hd 2) (v4 1 2 3 0 .i32 0 .nan)) = [.reservedValue] ∧
    Instr.fieldRejects .m false (.mqst (hd 6) (tst Fmt.hbi8 Ovf.nan)) = [.reservedValue] := by decide

/-- Formats that an opcode does not accept (R75). -/
theorem test_format_refused :
    Instr.fieldRejects .v false (.vadd (hd 2) (v4 1 2 3 0 .f8a)) = [.format] ∧
    Instr.fieldRejects .v false (.vfma (hd 2) (v4 1 2 3 4 .i32)) = [.format] ∧
    Instr.fieldRejects .v false (.scat (hd 11) (ix 1 2 3 .i32)) = [.format] := by decide

/-- Privileged opcodes in a user image, and their acceptance in a handler image (R66, R137, R332). -/
theorem test_privilege_refused :
    Instr.fieldRejects .v false (.rett (hd 0) (sy 0 0)) = [.privilege] ∧ Instr.fieldRejects .v true (.rett (hd 0) (sy 0 0)) = [] ∧
    Instr.fieldRejects .v false (.ttsel (hd 15) (xf 1 2 0)) = [.privilege] ∧ Instr.fieldRejects .v true (.ttsel (hd 15) (xf 1 2 0)) = [] := by
  decide

/-- Limits of the tile and index opcodes: MCOPY onto itself, a kind of table that does not exist, an MSEL without SP. -/
theorem test_limits_refused :
    Instr.fieldRejects .m false (.mcopy (hd 2) (tl 1 1 .f64 .f64)) = [.reservedValue] ∧
    Instr.fieldRejects .v false (.ixcnt (hd 11) (ix 1 0 0 .f64 6)) = [.reservedValue] ∧
    Instr.fieldRejects .m false (.msel (hd 2) (tl 0 0 .f64 .f64)) = [.reservedValue] ∧
    Instr.fieldRejects .v false (.vqblk (hd 2) (vi 1 2 .hb8a 0x48 0x10)) = [.reservedValue] := by decide

/-! ### Witnesses: states and operands that meet the hypotheses of each statement, clause by clause -/

/-- The package after reset with the FG context of V0 changed; the slot under execution is one of it. -/
def here (f : Ctx → Ctx) : State := State.reset.modCtx 0 0 f

/-- Scalar registers of a context set. -/
def regs (l : List (Nat × Word)) (x : Ctx) : Ctx := { x with arch := l.foldl (fun a p => a.setS p.1 p.2) x.arch }

/-- The package after reset with scalar registers of V0's FG context set. -/
def rs (l : List (Nat × Word)) : State := here (regs l)

/-- The same with the slot under execution on another die or in another context. -/
def on (d c : Nat) (f : Ctx → Ctx) : State :=
  let s := State.reset.modCtx d c f
  { s with issue := { s.issue with die := d, ctx := c } }

/-- A window of 256 bytes over zero registers, and registers. -/
def wide (l : List (Nat × Word)) (x : Ctx) : Ctx := { regs l x with arch := { (regs l x).arch with bwinBase := 0, bwinLimit := 256 } }

/-- A program of one bundle, held as an image that a context runs. -/
def withCode (s : State) (d c : Nat) (ws : List Word) : State :=
  { s.modCtx d c fun x => { x with image := 7, prog := 0 } with
    images := [{ handle := 7, bytes := imageOfWords (kindOf d) ws, digest := 0, dupMaps := [] }] }

/-! ### Words written out from the encoding tables (02 Tables 2-1 to 2-4, 03 Tables 3-2 to 3-9) -/

/-- The instruction that a V-die decodes from a slot word of a class. -/
def dv (c : BitVec 4) (w : Word) (e : Option (BitVec 20) := none) : Option Instr := (decodeSlot .v false c w e).toOption

/-- The instruction that an M-die decodes from a slot word of a class. -/
def dm (c : BitVec 4) (w : Word) (e : Option (BitVec 20) := none) : Option Instr := (decodeSlot .m false c w e).toOption

/-- ADDI s4, s4, 128: opcode in 63:56, d in 49:44, x in 43:38, FN in 37:32, IMM in 31:0; CMP q3, s4, s5 with condition 2; ADD s1, s1, s3 in
slot S1. -/
theorem test_decode_scalar :
    dv 0 0x0200410000000080 = some (.addi (hd 0) { d := 4, x := 4, fn := 0, imm := 128 }) ∧
    dv 0 0x0A00310500200000 = some (.cmp (hd 0) (r3 3 4 5 2)) ∧
    dv 1 0x0000104300000000 = some (.add (hd 1) (r3 1 1 3)) := by decide

/-- LOOP with OFF = -8, and BRC on s10 and s5 with OFF = 2: opcode, FN in 49:46, x in 45:40, y in 39:34, OFF in 33:0. -/
theorem test_decode_branch :
    dv 0 0x55000003FFFFFFF8 = some (.loop (hd 0) { fn := 0, x := 0, y := 0, off := 0x3FFFFFFF8 }) ∧
    dv 0 0x51000A1400000002 = some (.brc (hd 0) { fn := 0, x := 10, y := 5, off := 2 }) := by decide

/-- LDS s7, [s3 - 16] with FN = 6. -/
theorem test_decode_memory :
    dv 1 0x400070C6FFFFFFF0 = some (.lds (hd 1) { d := 7, x := 3, fn := 6, imm := 0xFFFFFFF0 }) := by decide

/-- VADD v2, v0, v1 in BF16 under !p9 with an extension of KIND 01; VFMA v8, v0, v4, v8 in FP32. -/
theorem test_decode_vector :
    dv 2 0x109C200100680000 (some 0x7DC00) =
      some (.vadd { cls := 2, g := 9, gn := true, ext := some 0x7DC00 } { v4 2 0 1 0 .bf16 with ovf := .inf }) ∧
    dv 2 0x1400800420280000 = some (.vfma (hd 2) (v4 8 0 4 8 .f32)) := by decide

/-- NRD, NWR from a tile latch, IXPUSH. -/
theorem test_decode_network :
    dv 12 0x0000C0070C004000 = some (.nrd (hd 12) (nt 12 7 3 64)) ∧
    dm 14 0x0100002824000010 = some (.nwrTile (hd 14) (nt 0 0x28 9 0 1)) ∧
    dv 11 0x0000240A0B0C0008 = some (.ixpush (hd 11) (ix 2 16 10 .i64 3 8)) := by decide

/-- MSCLD with KN = 4, TG = 1, b = 7, IMM = 256, N = 63; MST of NRG = 7 row groups in BF16; MMA. -/
theorem test_decode_matrix :
    dm 6 0x000111C0100FC000 = some (.mscld (hd 6) { kj := false, kn := 4, tg := 1, b := 7, imm := 256, n := 63 }) ∧
    dm 2 0x04018E3400200000 = some (.mst (hd 2) { td := 3, rg := 0, nrg := 7, fd := .bf16, ovf := .inf, rnd := .ne, ftz := false, el := 0, dl := 0, b := 8 }) ∧
    dm 2 0x01019D63F1034000 =
      some (.mma (hd 2) { td := 3, tx := 1, fa := .hb4, fb := .hb8a, n := 63, cap := 8, b := 6, ks := 4, js := 0, sp := false }) := by decide

/-- RDSR s5, EC and DRAIN of class 4 in package scope: opcode, guard, GN, X, then d, x, SR, SCOPE, CLS and IMM; RACC a1, v2, p3
in FP32 under !q5: d, x, y, z, FMT, OVF, RND, FTZ, SUB and nine zeros; TDMA out with descriptor s1, promise 7: d, x, y, z, PR,
SCOPE, SUB and IMM. -/
theorem test_decode_other :
    dv 0 (0x64#8 ++ 0#4 ++ 0#1 ++ 0#1 ++ 5#6 ++ 0#6 ++ 0x0D#8 ++ 0#2 ++ 0#4 ++ 0#24) = some (.rdsr (hd 0) (sy 5 0 0 0x0D)) ∧
    dv 0 (0x67#8 ++ 0#4 ++ 0#1 ++ 0#1 ++ 0#6 ++ 0#6 ++ 0#8 ++ 2#2 ++ 4#4 ++ 0#24) =
      some (.drain (hd 0) { sy 0 0 0 0 4 with scope := .pkg }) ∧
    dv 10 (0x00#8 ++ 5#4 ++ 1#1 ++ 0#1 ++ 1#6 ++ 2#6 ++ 3#6 ++ 0#6 ++ 1#5 ++ 1#2 ++ 0#3 ++ 0#1 ++ 0#6 ++ 0#9) =
      some (.racc { hd 10 with g := 5, gn := true } (v4 1 2 3 0 .f32)) ∧
    dv 15 (0x00#8 ++ 0#4 ++ 0#1 ++ 0#1 ++ 1#6 ++ 2#6 ++ 3#6 ++ 0#6 ++ 7#3 ++ 0#2 ++ 1#6 ++ 0#15) =
      some (.tdmaOut (hd 15) { xf 1 2 3 1 with pr := 7 }) := by decide

/-- An idle bundle of three idle counts, and a bundle of S0 alone with its extension: PMASK in 63:48, STOP, CK, VJ, IDLE, EXT1, EXT0
(Table 2-1); ADDI's immediate widened to -2^32 by the WIDE field. -/
theorem test_decode_bundle :
    (decodeFirst .v false [0#16 ++ 1#1 ++ 0#1 ++ 1#1 ++ 3#5 ++ 0#20 ++ 0#20]).toOption = some (.idleBundle 3 false true) ∧
    (decodeFirst .v false [1#16 ++ 1#1 ++ 0#1 ++ 0#1 ++ 0#5 ++ 0#20 ++ 0x3FFFF#20, 0x0204410000000000]).toOption =
      some (.addi (hx 0 0x3FFFF) { d := 4, x := 4, fn := 0, imm := 0 }) ∧
    RI.value (hx 0 0x3FFFF) { d := 4, x := 4, fn := 0, imm := 0 } = -2 ^ 32 ∧
    (decodeFirst .m false [2#16 ++ 1#1 ++ 0#1 ++ 0#1 ++ 0#5 ++ 0#20 ++ 0#20, 0x0200410000000080]).toOption = none := by decide

theorem witness_ScalarIntegerResults :
    let s := rs [(2, 5)]
    s.guardOn (hd 0) = true ∧ s.arch.qreg ((r3 1 2 3 0).fn.toNat % 8) = true ∧ s.arch.qreg ((r3 1 2 3 7).fn.toNat % 8) = false ∧
    ((BitVec.ofNat 64 0).getLsbD 63 = false) ∧ (∀ fn ∈ [0, 1, 2, 3, 4, 5], (r3 1 2 3 fn).fn = fn) := by decide

theorem witness_ScalarIntegerResults_codes : 5 < (r3 1 2 3 6).fn.toNat % 8 ∧ 5 < (r3 1 2 3 15).fn.toNat % 8 := by decide

theorem witness_ImmediateResults :
    let o : RI := { d := 1, x := 2, fn := 0, imm := 0x1F8 }
    State.reset.guardOn (hd 0) = true ∧ o.imm.toNat % 2 ^ 6 + (o.imm.toNat / 2 ^ 6 % 2 ^ 6 + 1) = 64 ∧ (hd 0).ext = none ∧
    (hx 0 0x3FFFF).ext = some 0x3FFFF ∧ (0x3FFFF : BitVec 20).toNat < 2 ^ 18 := by decide

theorem witness_DivisionResults :
    let s := rs [(2, 0x8000000000000000), (3, 0xFFFFFFFFFFFFFFFF), (4, 0)]
    s.guardOn (hd 0) = true ∧ s.s 4 = 0 ∧ s.s 3 ≠ 0 ∧ (s.s 2).toInt = -2 ^ 63 ∧ (s.s 3).toInt = -1 := by decide

theorem witness_ScalarFloatResults : State.reset.guardOn (hd 0) = true ∧ (r3 1 2 3 8).fn.getLsbD 3 = true ∧ 0 < 1 ∧ (3 : Nat) ≠ 0 ∧
    (XV.mul (.fin false 3 1 0) (.inf true)).flags = 0 := by decide

-- R100: 460 toward zero into F8A is 448, 470 to nearest overflows; 2^-10 lies between 0 and the least subnormal of F8A.
theorem witness_SpecialValues_rounding :
    let max := fpValue .f8a (Fmt.f8a).maxFiniteBits
    let least := XV.fin false 1 1 (-6)
    (Fmt.f4.hasNaN = false ∧ Ovf.sat ≠ .trap) ∧
    ((XV.fin false 460 1 0).lt least = false ∧ 460 * 2 ^ (0 - 5 : Int).toNat / (1 * 2 ^ (5 - 0 : Int).toNat) < 2 ^ 4 ∧
      2 ^ 3 ≤ 460 * 2 ^ (0 - 5 : Int).toNat / (1 * 2 ^ (5 - 0 : Int).toNat) ∧
      max.lt (.fin false (roundMag 460 32 0 0 .tz false 0).1 1 5) = false ∧ max.lt (.fin false (roundMag 470 32 0 0 .ne false 0).1 1 5) = true) ∧
    ((XV.fin false 1 1 (-10)).lt least = true ∧ (XV.fin false 1 1 (-20)).lt (.fin false 1 1 (-14)) = true ∧ Fmt.f16.flushes = true ∧
      Fmt.f8a.flushes = false ∧ 1 * 2 ^ ((-10 : Int) - -9).toNat / (1 * 2 ^ ((-9 : Int) - -10).toNat) < 2 ^ 4) := by decide +kernel

-- Table 4-1: an infinity, a NaN, a subnormal and a normal code of FP16; the code 1111 of F8A.
theorem witness_SpecialValues_codes :
    (0x7C00 / 2 ^ 10 % 2 ^ 5 = 2 ^ 5 - 1 ∧ 0x7C00 % 2 ^ 10 = 0) ∧ (0x7E00 / 2 ^ 10 % 2 ^ 5 = 2 ^ 5 - 1 ∧ 0x7E00 % 2 ^ 10 ≠ 0) ∧
    0x0001 / 2 ^ 10 % 2 ^ 5 = 0 ∧ 0x3C00 / 2 ^ 10 % 2 ^ 5 = 15 ∧ (0x7F / 2 ^ 3 % 2 ^ 4 = 15 ∧ 0x7F % 2 ^ 3 = 7) ∧
    0x7E / 2 ^ 3 % 2 ^ 4 = 15 ∧ 0x7E % 2 ^ 3 ≠ 7 ∧ 0xFE < 2 ^ 8 := by decide

theorem witness_SpecialValues :
    (1 : Nat) ≠ 0 ∧ 2 ^ 63 ≤ (gridInt false (2 ^ 63) 1 0 .ne 0).1 ∧ (gridInt true (2 ^ 63 + 1) 1 0 .ne 0).1 < -2 ^ 63 ∧
    -2 ^ 63 ≤ (gridInt true (2 ^ 63) 1 0 .ne 0).1 ∧ (gridInt true (2 ^ 63) 1 0 .ne 0).1 < 2 ^ 63 ∧ 0 < 2 ∧ 2 ∣ 4 ∧ ¬ 2 ∣ 3 ∧
    2 * (3 - 3 / 2 * 2) = 2 ∧ 2 * (4 - 4 / 3 * 3) < 3 ∧ 3 < 2 * (5 - 5 / 3 * 3) ∧ Fmt.f32.isFloat = true ∧ Fmt.f32.hasInf = true ∧
    Fmt.f32.hasNaN = true ∧ Fmt.f8a.isFloat = true ∧ Fmt.f8a.hasInf = false ∧ Fmt.f8a.hasNaN = true ∧ Fmt.f4.isFloat = true ∧
    Fmt.f4.hasNaN = false := by decide +kernel

theorem witness_ConvertAndCompareResults :
    let s := rs [(2, 0x7FF8000000000000)]
    s.guardOn (hd 0) = true ∧ (∀ k ∈ [0, 1, 2, 3, 4, 5], (r3 1 2 3 k).fn.toNat % 8 = k.toNat) ∧ s.fp (r3 1 2 3 0).fpFmt 2 = .nan ∧
    XV.inf false ≠ .nan ∧ 0 < 1 := by decide

theorem witness_BankAccessResults :
    let s := here fun x => { regs [(2, 0x10), (3, 0x11), (4, 0x20)] x with arch := { (regs [(2, 0x10), (3, 0x11), (4, 0x20)] x).arch with bwinBase := 0x10, bwinLimit := 0x18 } }
    let ad : BitVec 6 → Nat := fun x => (s.s x + BitVec.ofInt 64 (RI.value (hd 0) { d := 1, x := x, fn := 3, imm := 0 })).toNat
    s.guardOn (hd 0) = true ∧ ad 3 % 8 ≠ 0 ∧ ad 2 % 8 = 0 ∧ s.arch.bwinBase.toNat ≤ ad 2 ∧ ad 2 + 8 ≤ s.arch.bwinLimit.toNat ∧
    ad 4 % 8 = 0 ∧ ¬ (ad 4 + 8 ≤ s.arch.bwinLimit.toNat) ∧ s.me.unjoined = [] := by decide

theorem witness_TranslatedAccessResults :
    let s := rs [(2, 0xFFFFFFFFFFFFFFF8), (3, 1)]
    s.guardOn (hd 0) = true ∧ (s.s 2 + BitVec.ofInt 64 (RI.value (hd 0) { d := 1, x := 2, fn := 3, imm := 0 })).toNat % 8 = 0 ∧
    (s.s 3 + BitVec.ofInt 64 (RI.value (hd 0) { d := 1, x := 3, fn := 3, imm := 0 })).toNat % 8 ≠ 0 := by decide

theorem witness_AtomicResults :
    let s := here fun x => { regs [(2, 8), (3, 9), (4, 0x8000000000000018), (5, 0x8000000000000020)] x with
      arch := { (regs [(2, 8), (3, 9), (4, 0x8000000000000018), (5, 0x8000000000000020)] x).arch with bwinBase := 0x18, bwinLimit := 0x20 } }
    let full := here fun x => { x with atomPos := 256 }
    s.guardOn (hd 0) = true ∧ (s.s 3).toNat % 8 ≠ 0 ∧ (s.s 2).toNat % 8 = 0 ∧ (s.s 2).getLsbD 63 = false ∧ s.me.atomPos < 256 ∧
    256 ≤ full.me.atomPos ∧ (s.s 4).toNat % 8 = 0 ∧ (s.s 4).getLsbD 63 = true ∧ s.arch.bwinBase.toNat ≤ (s.s 4).toNat - 2 ^ 63 ∧
    (s.s 4).toNat - 2 ^ 63 + 8 ≤ s.arch.bwinLimit.toNat ∧ ¬ ((s.s 5).toNat - 2 ^ 63 + 8 ≤ s.arch.bwinLimit.toNat) ∧
    ((s.readHome (.bank 0 0x18) 8).toOption = some 0) := by decide

theorem witness_BranchResults :
    let s := withCode (here fun x => { regs [(2, 8)] x with arch := { (regs [(2, 8)] x).arch with lc := 1, ec := 1 } }) 0 0
      [0x0000800000000000, 0x0000800000000000]
    let m := on 4 0 fun x => { x with arch := { x.arch with lc := 1 } }
    s.guardOn (hd 0) = true ∧ intCond 0 (s.s 2) (s.s 2) = true ∧ intCond 1 (s.s 2) (s.s 2) = false ∧
    isGroupStart (s.code s.issue.die s.issue.ctx) (s.s 2).toNat = true ∧
    isGroupStart (s.code s.issue.die s.issue.ctx) 9 = false ∧ State.reset.arch.lc = 0 ∧ s.arch.lc ≠ 0 ∧ s.issue.die < 4 ∧
    m.arch.lc ≠ 0 ∧ 4 ≤ m.issue.die := by decide

theorem witness_WaitResults :
    let s := here fun x => { regs [(2, 0x8000000000000010), (3, 3), (4, 0x8000000000000018)] x with
      arch := { (regs [(2, 0x8000000000000010), (3, 3), (4, 0x8000000000000018)] x).arch with bwinBase := 0x10, bwinLimit := 0x18 } }
    s.guardOn (hd 0) = true ∧ ((State.reset.s 5).toNat + Sys.value (hd 0) (sy 0 5)) % 2 ^ 64 ≤ (s.belfry - s.arch.gbase).toNat ∧
    (s.belfry - s.arch.gbase).toNat < ((s.s 3).toNat + Sys.value (hd 0) (sy 0 3)) % 2 ^ 64 ∧ (s.s 3).toNat % 8 ≠ 0 ∧
    (s.s 2).toNat % 8 = 0 ∧ (s.s 2).getLsbD 63 = true ∧ s.arch.bwinBase.toNat ≤ (s.s 2).toNat - 2 ^ 63 ∧
    (s.s 2).toNat - 2 ^ 63 + 8 ≤ s.arch.bwinLimit.toNat ∧ ¬ ((s.s 4).toNat - 2 ^ 63 + 8 ≤ s.arch.bwinLimit.toNat) ∧ s.me.unjoined = [] ∧
    (Mem.nat s.myDie.bank 0x10 8 ≠ 0 ↔ (sy 0 2 0).imm.getLsbD 0 = true) ∧
    ¬ (Mem.nat s.myDie.bank 0x10 8 ≠ 0 ↔ (sy 0 2 1).imm.getLsbD 0 = true) := by decide

theorem witness_WaitResults_translated :
    let e : Staged := { key := 0, family := .waitb, addr := 8, size := 8, value := some 5, steps := 0, used := false }
    let s := fun (f : Ctx → Ctx) => here fun x => f (regs [(2, 8)] x)
    let kept := s fun x => { x with staging := [e] }
    let bad := s fun x => { x with waitFault := some (0x23, none) }
    let got := s fun x => { x with waitReply := some (1, 0) }
    let late := s fun x => { x with waitReply := some (1, 1) }
    let asked := s fun x => { x with waitReq := some 3 }
    (kept.s 2).toNat % 8 = 0 ∧ (kept.s 2).getLsbD 63 = false ∧ nextStaged .waitb kept.me.staging = some e ∧ e.value = some 5 ∧
    e.addr = (kept.s 2).toNat ∧ e.size = 8 ∧ nextStaged .waitb bad.me.staging = none ∧ bad.me.waitFault = some (0x23, none) ∧
    nextStaged .waitb got.me.staging = none ∧ got.me.waitFault = none ∧ got.me.waitReply = some (1, 0) ∧ 0 ≤ got.bel ∧
    ((1 : Nat) ≠ 0 ↔ (sy 0 2 1).imm.getLsbD 0 = true) ∧ late.me.waitReply = some (1, 1) ∧ late.bel < 1 ∧ asked.me.waitFault = none ∧
    asked.me.waitReply = none ∧ asked.me.waitReq ≠ none := by decide

theorem witness_SystemResults :
    State.reset.guardOn (hd 0) = true ∧ State.reset.issue.ctx ≠ 1 ∧ (on 0 1 id).issue.ctx = 1 ∧ (on 0 1 id).guardOn (hd 0) = true := by
  decide

theorem witness_SystemRegisters :
    State.reset.issue.die < 4 ∧ State.reset.issue.ctx < 3 ∧ 4 ≤ (on 7 2 id).issue.die ∧ (on 7 2 id).issue.die < 8 ∧
    (on 7 2 id).issue.ctx = 2 ∧ (((on 7 2 id).ctx 7 0).held ≠ 0 ∨ ((on 7 2 fun _ => default).ctx 7 0).run ≠ .stopped) := by decide

/-- A request outstanding in V0's FG context: a TDMA that reads its own bank. -/
def waitingIn (k : ReqKind) : State :=
  here fun x => { x with committed := true, reqs := [{ (default : Req) with kind := k, home := some (.bank 0 0) }] }

set_option maxRecDepth 4096 in
theorem witness_FenceAndDrainResults :
    let s := waitingIn .tdmaIn
    let none_ := here fun x => { x with committed := true }
    let out := fun (s : State) (closes : Bool) =>
      (({ (if closes then s.closeWindows s.issue.die s.issue.ctx else s) with free := s.free + 1 } : State).waitedAll s.issue.die
        s.issue.ctx).filter fun w => w.covered s.issue.die .dom
    let ck : State := { State.reset with issue := { State.reset.issue with ck := true } }
    let bad := here fun x => { x with committed := true, fenceFaults := [(4, { code := 9, info := 0, cls := 0, clus := none })] }
    let all := sy 0 0
    let four := { sy 0 0 0 0 4 with scope := .dom }
    s.guardOn (hd 0) = true ∧ ck.issue.ck = true ∧ ck.me.committed = false ∧ s.issue.ck = false ∧
    s.me.fenceFaults.filter (faultCovered .dom none) = [] ∧ s.me.fenceFaults.filter (faultCovered .dom (some 4)) = [] ∧
    bad.me.fenceFaults.filter (faultCovered .dom none) ≠ [] ∧ bad.me.fenceFaults.filter (faultCovered .dom (some 4)) ≠ [] ∧
    out none_ true = [] ∧ out s true ≠ [] ∧ all.cls = 0 ∧ (out none_ true).filter (fun w => w.classes.any (· != 0)) = [] ∧
    (out s true).filter (fun w => w.classes.any (· != 0)) ≠ [] ∧ four.cls ≠ 0 ∧
    (out s false).filter (fun w => w.classes.contains (sy 0 0 0 0 1).cls.toNat) = [] ∧
    (out s false).filter (fun w => w.classes.contains (sy 0 0 0 0 2).cls.toNat) ≠ [] := by decide

theorem witness_FenceAndDrainResults_nothing :
    let w : Waited := { home := some (.stack 1 0), classes := [] }
    let s := State.reset
    { w with engine := true }.engine = true ∧ w.engine = false ∧ { w with home := some (.bank 3 0) }.home = some (.bank 3 0) ∧ w.home ≠ none ∧
    (s.ctx 0 0).arch.landing = [] ∧ (s.ctx 0 0).reqs = [] ∧ (s.ctx 0 0).arch.dq = [] ∧ (s.ctx 0 0).arch.scatIdle = true ∧ s.pendings = [] ∧
    (s.ctx 0 0).takes = [] ∧ s.sends = [] ∧ s.pushesOut 0 0 = [] ∧ s.openCopies 0 0 .dom = [] := by decide

theorem witness_ElementRules :
    Fmt.i8.isInt = true ∧ Fmt.n8.isInt = true ∧ Fmt.n8.isSigned = false ∧ (-(2 : Int) ^ (Fmt.i8.width - 1) ≤ -128) ∧
    ¬ ((128 : Int) < 2 ^ (Fmt.i8.width - 1)) ∧ ¬ ((0 : Int) ≤ -1) ∧ ((255 : Int) < 2 ^ Fmt.n8.width) ∧ Rnd.ne ≠ Rnd.st := by decide

theorem witness_VectorIntegerArithmetic : (v4 1 2 3 0 .n64).fmt.isInt = true ∧ (vi 1 2 .n64 5).fmt = (v4 1 2 3 0 .n64).fmt := by decide

theorem witness_VectorFloatArithmetic :
    let s := here fun x => { x with arch := (x.arch.setV 0 2 (BitVec.ofNat 1024 0x3F800000) (BitVec.allOnes 128)).setV 0 3 0x7FC00000 (BitVec.allOnes 128) }
    let v : BitVec 6 → Nat → XV := fun r e => fpSource .f32 false (elemOf (s.arch.vreg 0 r) 32 e)
    (v4 1 2 4 0 .f32).fmt.isFloat = true ∧ (v4 1 2 4 0 .f32).ftz = false ∧ (v 4 0).lt (v 2 0) = true ∧ v 3 0 = .nan ∧
    fpValue .f32 (elemOf (s.arch.vreg 0 2) 32 0) ≠ .nan := by decide +kernel

theorem witness_VectorMoves :
    (v4 1 2 3 0 .i32 2).fmt.isInt = true ∧ (v4 1 2 3 0 .f32 7).fmt.isFloat = true ∧ (v4 1 2 3 0 .f32 7).sub.toNat < 8 ∧
    8 ≤ (v4 1 2 3 0 .f32 8).sub.toNat ∧ XV.inf false ≠ .nan ∧ (1 ≠ 0 ∨ 0 ≠ 0) ∧ (∀ k ∈ [0, 1, 2], (v4 1 2 3 0 .i32 k).sub.toNat % 4 = k.toNat) ∧
    (vi 1 2 .i32 0 0).sub = 0 ∧ (vi 1 2 .i32 0 1).sub = 1 ∧ 2 ≤ (vi 1 2 .i32 0 2).sub.toNat := by decide

theorem witness_VectorConversionResults :
    let v := fpSource .bf16 false
    Fmt.bf16.isFloat = true ∧ v 0x7FC0 = .nan ∧ v 0xFF80 = .inf true ∧ (v 0x8000).isZero = true ∧
    (match v 0x3F80 with | .fin _ k _ _ => k != 0 | _ => false) = true := by decide +kernel

theorem witness_BlockRecordResults :
    let s := here fun x => { x with arch := (x.arch.setP 0 9 1 (BitVec.allOnes 128)).setV 0 2 (BitVec.allOnes 1024) (BitVec.allOnes 128) }
    let o := v4 1 2 0 0 .hb8a
    let q : QParams := { fmt := .hb4, fs8 := false, e := 0, delta := 0, rnd := .ne, ovf := .sat, ftz := false }
    (hd 2).clusters = [0] ∧ s.chosen { hd 2 with g := 10 } 16 0 = [] ∧ s.chosen (hd 2) 16 0 ≠ [] ∧
    recordOk o.fmt (s.arch.vreg 0 o.x) = false ∧ recordOk o.fmt (State.reset.arch.vreg 0 o.x) = true ∧ q.fmt.inHB = true ∧
    (List.replicate 32 XV.nan).length = 32 ∧ { q with e := 2 }.e ≠ 0 ∧ (List.replicate 32 XV.nan)[0]? = some .nan ∧
    0 ∉ (quantiseBlock q (List.replicate 32 .nan) 5).2.outliers := by decide +kernel

theorem witness_SpecialFunctionResults :
    (XV.fin false 1 1 0).lt (.fin false 3 1 (-1)) = true ∧ (3 : Nat) ≠ 0 ∧ 0 < 1 ∧ 5 < 2 ^ 13 ∧ specialFn 6 (.fin true 1 1 (-1)) = ⟨.fin false 0 1 0, 0⟩ := by
  decide

-- R109: an infinity ranks above every finite value and is elected.
theorem witness_BlockRecordResults_election :
    let q : QParams := { fmt := .hb4, fs8 := false, e := 1, delta := 2, rnd := .ne, ovf := .sat, ftz := false }
    let x : List XV := [.ofInt (-97), .ofInt 3, .fin false 1 1 (-1), .inf true] ++ List.replicate 28 (.fin false 0 1 0)
    let m := XV.ofInt 3
    q.fmt.inHB = true ∧ x.length = 32 ∧ q.e ≤ 4 ∧ (x.all fun v => match v with | .fin _ _ d _ => decide (0 < d) | _ => true) = true ∧
    (quantiseBlock q x 5).2.outliers = [3] ∧ m.isNaN = false ∧ m.isInf = false ∧ m.neg? = false ∧ m.isZero = false ∧
    (XV.fin false 0 1 0).isZero = true ∧ q.fmt.intElems = false ∧ Fmt.hbi8.intElems = true ∧ quotient m (scaleValue false 0x80) = .fin false 3 1 (-1) ∧
    127 < (gridInt false 300 1 0 .ne 0).1 ∧ (gridInt false 3 1 0 .ne 0).1 ≤ 127 := by decide +kernel

theorem witness_BlockRecordResults_record :
    let q : QParams := { fmt := .hb8a, fs8 := false, e := 1, delta := 0, rnd := .ne, ovf := .sat, ftz := false }
    let x : List (Bool × XV) := (false, .ofInt 3) :: List.replicate 31 (false, .ofInt 1)
    let r : Record := { seed := 5, dense := 0, scales := 0, entries := [], flags := 0, traps := [] }
    let t := recordBlock q true 1 0 0 x r
    let v := t.value
    t.dense < 2 ^ 512 ∧ t.scales < 2 ^ 32 ∧ t.entries.length = 1 ∧ (∀ n ∈ t.entries, n < 2 ^ 32) ∧ r.dense < 2 ^ (32 * 8 * 0) ∧
    recordOk .hb8a v = true ∧ recEscapes .hb8a v = [(0, 0)] ∧ (1, 5) ∉ recEscapes .hb8a v ∧ recValue .hb8a v 0 0 = .fin false 192 1 (-6) ∧
    (0 - r.entries.length < (quantiseBlock q (x.map (·.2)) 5).2.outliers.length) := by decide +kernel

theorem witness_ReductionResults :
    let s := here fun x => { x with arch := x.arch.setP 0 1 0x1111 (BitVec.allOnes 128) }
    let sel := fun p => (List.range 256).filter fun g => s.arch.fullSel p 32 g
    let el := fun g => intValue .i32 (s.arch.fullElem 2 32 g)
    s.guardOn (hd 10) = true ∧ cvtFrom (v4 1 2 0 1 .f32).z = (v4 1 2 0 1 .f32).fmt ∧ cvtFrom (v4 1 2 0 1 .bf16).z ≠ .bf16 ∧
    Rnd.ne ≠ Rnd.st ∧ (v4 1 2 1 0 .i32).fmt.inVI = true ∧ Ovf.inf ≠ Ovf.trap ∧ (v4 1 2 1 0 .i32 0).sub.getLsbD 0 = false ∧ sel 2 = [] ∧
    sel 1 = [0, 1, 2, 3] ∧ (∀ k ∈ sel 1, el k ≤ el 0 ∧ (k < 0 → el k < el 0)) ∧ (v4 1 2 1 0 .f32).fmt.isFloat = true ∧
    XV.nan ∈ [0x7FC00000].map (fpSource .f32 false) ∧ XV.nan ∉ [0x3F800000].map (fpSource .f32 false) := by
  decide +kernel

-- R170's worked example: the tree rounds 16,777,216 + 1 to even and reaches 16,777,218 with 2.
theorem witness_ReductionResults_floats :
    let o := v4 1 2 1 0 .f32
    let s := here fun x => { x with arch := x.arch.setP 0 1 0x1 (BitVec.allOnes 128) }
    let k : Work := { seed := 0, flags := 0, trap := none }
    let one := fpValue .f32 0x3F800000
    let sum := (treeSum o 0 10 k [some (fpValue .f32 0x4B800000), some one, some one, some one]).2
    s.guardOn (hd 10) = true ∧ o.fmt.inVF = true ∧ o.fmt.isInt = false ∧ (v4 1 2 1 0 .i32).fmt.isInt = true ∧ k.trap = none ∧
    (comb { o with ovf := .trap } 3 k (some (fpValue .f32 0x7F7FFFFF)) (some (fpValue .f32 0x7F7FFFFF))).1.trap = some 3 ∧
    sum.map (fun v => (roundTo .f32 v .ne .inf false 0).bits) = some 0x4B800001 ∧ s.arch.fullSel 2 32 0 = false ∧
    s.arch.fullSel 1 32 0 = true ∧ s.arch.fullSel 1 32 1 = false ∧ totalLess false one one = false := by decide +kernel

/-- An entry of the data queue. -/
def dq (st : DqStatus) : DqEntry := { (default : DqEntry) with status := st, tk := 2 }

theorem witness_IndexedQueueResults :
    let q := fun n (e : DqEntry) => here fun x => { x with arch := { x.arch with dq := List.replicate n e } }
    let full := here fun x => { x with arch := { x.arch with aq := List.replicate 32 default } }
    State.reset.guardOn (hd 11) = true ∧ (ix 1 2 3 .i32 0 0 2).tk = 2 ∧ State.reset.me.ten = false ∧ (ix 1 2 3 .i32 0 0 1).tk ≠ 2 ∧
    32 ≤ full.arch.aqOccupancy ∧ State.reset.arch.aqOccupancy < 32 ∧ 32 ≤ (q 32 (dq .wait)).arch.dq.length ∧
    (q 31 (dq .wait)).arch.dq.length < 32 ∧ State.reset.arch.dq = [] ∧ (q 1 (dq .wait)).arch.dq = dq .wait :: [] ∧
    (q 1 (dq .landed)).arch.dq = dq .landed :: [] ∧ (dq .landed).tk = 2 ∧
    (q 1 (dq (.poisoned 3 default))).arch.dq = dq (.poisoned 3 default) :: [] ∧
    (∀ k ∈ [0, 1, 2, 3, 4, 5], (ix 1 0 0 .f64 k).sub = k) := by decide

theorem witness_TagTableResults :
    let s := here fun x => { regs [(2, 5), (3, 4), (4, 0xFFF)] x with ten := true, tbase := 1, tlog := 0 }
    let full := { s with dies := tmod s.dies 0 fun d => { d with tags := (List.range 4).map fun k => (4 + k, 0x800000000000000000000000) } }
    State.reset.me.ten = false ∧ s.guardOn (hd 11) = true ∧ s.me.ten = true ∧ tagSet 1 0 (s.s 2) = 1 ∧
    s.me.tbase ≤ (s.s 3).toNat % 2 ^ 12 / 4 ∧ (s.s 3).toNat % 2 ^ 12 / 4 < s.me.tbase + 2 ^ s.me.tlog ∧
    ¬ ((s.s 4).toNat % 2 ^ 12 / 4 < s.me.tbase + 2 ^ s.me.tlog) ∧
    (∀ w < 4, (SMap.get s.myDie.tags (4 + w)).getLsbD 95 = false) ∧
    (∀ w < 4, (SMap.get full.myDie.tags (4 + w)).getLsbD 95 = true ∧ (SMap.get full.myDie.tags (4 + w)).extractLsb' 0 64 ≠ s.s 2) := by decide

theorem witness_TagTableResults_hit :
    let s := here fun x => { regs [(2, 5)] x with ten := true, tbase := 1, tlog := 0 }
    let hit := { s with dies := tmod s.dies 0 fun d => { d with tags := [(6, BitVec.ofNat 128 (2 ^ 95 + 5))] } }
    (SMap.get hit.myDie.tags 6).getLsbD 95 = true ∧ (SMap.get hit.myDie.tags 6).extractLsb' 0 64 = hit.s 2 ∧
    ∀ u < 2, (SMap.get hit.myDie.tags (4 + u)).getLsbD 95 = false := by decide

theorem witness_ScatterResults :
    let cfg : ScatRegion := { (default : ScatRegion) with conf := true, wide := true, len := 4 }
    let s := here fun x => { regs [(2, 0x3FFFF00000000)] x with arch := { (regs [(2, 0x3FFFF00000000)] x).arch with regions := tset x.arch.regions 1 cfg } }
    let full := here fun x => { x with arch := { x.arch with scat := tset x.arch.scat 0 { open_ := [], closed := (List.range 64).map fun k => [{ (default : ScatElem) with push := k }] } } }
    s.guardOn (hd 11) = true ∧ (tget s.arch.regions 1 default).conf = true ∧ (tget s.arch.regions 1 default).wide = true ∧
    (tget s.arch.regions 0 default).conf = false ∧ s.arch.fullElem 1 32 0 < cfg.len ∧ s.arch.scatOccupancy < 64 ∧
    64 ≤ full.arch.scatOccupancy ∧ (s.s 2).extractLsb' 48 16 ≠ 0 ∧
    (let u := here (wide [(2, 0x100000)])
     let d := u.s 2
     d.extractLsb' 10 6 = 0 ∧ d.extractLsb' 48 16 = 0 ∧ (d.extractLsb' 2 8).toNat ≤ 127 ∧ (d.extractLsb' 16 32).toNat = 16 ∧
     d.getLsbD 0 = false ∧ (u.s 3).toNat % 4 = 0 ∧ d.getLsbD 1 = false ∧ u.arch.bwinBase.toNat ≤ (u.s 3).toNat ∧
     (u.s 3).toNat + 16 * 4 ≤ u.arch.bwinLimit.toNat) := by decide

theorem witness_NetworkIsPermutation : 0 < 10 ∧ 1023 < 2 ^ 10 := by decide

/-- V0's FG context with a window of 16 bytes and plate 5: column 0 and port 0 enabled, no switch set; live plate 0 the same. -/
def netState : State :=
  here fun x => { regs [(2, 1)] x with
    plates := [(5, BitVec.ofNat 32768 (1 + 2 ^ 128 + 2 ^ 384)), (6, BitVec.ofNat 32768 (1 + 2 ^ 128 + 2 ^ 384))]
    arch := { (regs [(2, 1)] x).arch with bwinBase := 0, bwinLimit := 4, lp := tset x.arch.lp 0 { cen := 1, pen := 1, sel := [0], row := [0], pos := [(0, 0)] } } }

/-- M0's FG context with a plate that needs quarters 0 and 1, and quarter 0 alone. -/
def netTile : State := on 4 0 fun x => { x with groups := 1, plates := [(5, BitVec.ofNat 32768 (2 + 3 * 2 ^ 8))] }

theorem witness_NetworkResults :
    let s := netState
    let r := s.route 5
    let l := s.liveRoute 0
    s.guardOn (hd 12) = true ∧ s.me.unjoined = [] ∧ r.qmask &&& s.me.groups.toNat = r.qmask ∧
    ¬ ((netTile.route 5).qmask &&& netTile.me.groups.toNat = (netTile.route 5).qmask) ∧ 0 < r.ncol ∧ r.cen 0 = true ∧
    l.cen 0 = true ∧ (∀ p ∈ [r, l], p.row 0 = 0 ∧ (0 : Int) ≤ (s.s 2).toInt + p.row 0) ∧
    ¬ (4 * (((s.s 2).toInt + r.row 0) * r.ncol + 0) + 4 ≤ s.arch.bwinLimit.toNat) ∧ r.pen 0 = true := by decide +kernel

theorem witness_NetworkResults_passes :
    let s := netState
    s.netCheck (s.route 5) 0 = [] ∧ s.netCheck (s.route 6) 0 = [] ∧ s.netCheck (s.liveRoute 0) 0 = [] ∧
    netTile.netCheck (netTile.route 5) 0 ≠ [] := by decide +kernel

theorem witness_EdgeFrameResults :
    let s := netState
    let f : NFrame := { (default : NFrame) with edge := 1, arrive := 0 }
    let with_ := { s with dies := tmod s.dies 0 fun d => { d with nframes := [f, { f with edge := 2 }] } }
    s.guardOn (hd 12) = true ∧ s.issue.ctx ≠ 1 ∧ (on 0 1 id).issue.ctx = 1 ∧ s.netCheck (s.route 5) 0 = [] ∧
    ¬ ((netTile.route 5).qmask &&& netTile.me.groups.toNat = (netTile.route 5).qmask) ∧ neighbour 0 0 = none ∧ neighbour 0 3 = none ∧ neighbour 0 1 ≠ none ∧ neighbour 0 2 ≠ none ∧
    s.arriving 1 = none ∧ with_.arriving 1 = some f ∧ with_.arriving 2 = some { f with edge := 2 } ∧
    (s.route 5).qmask &&& s.me.groups.toNat = (s.route 5).qmask ∧ 9 % 4 ≠ 9 / 4 ∧ 4 % 4 = 0 ∧ 4 / 4 = 1 := by decide +kernel

/-- M0's FG context with group 0 and a plate 5 of quarter 0, and the group with changes. -/
def tileState (f : Ctx → Ctx) (k : TileGroup → TileGroup) : State :=
  let s := on 4 0 fun x => f { x with groups := 1, plates := [(5, BitVec.ofNat 32768 (2 + 2 ^ 8))] }
  { s with dies := tmod s.dies 4 fun d => { d with groups := tmod d.groups 0 k } }

/-- A powered group with tile bits. -/
def lit (b : Nat → TileBits) (x : TileGroup) : TileGroup :=
  { x with powered := true, bits := (List.range 8).foldl (fun v t => tset v t (b t)) x.bits }

theorem witness_TileGates :
    let busy := tileState id (lit fun _ => { (default : TileBits) with busy := true })
    State.reset.me.groups.getLsbD 0 = false ∧ (tileState id id).me.groups.getLsbD ((hd 2).cls.toNat - 2) = true ∧
    ((tileState id fun x => { x with powered := false }).group 0).powered = false ∧ (busy.group 0).powered = true ∧
    (∀ t < 8, ((busy.group 0).tileBits t).busy = true ∧ ((busy.group 0).tileBits t).mma = false) ∧ busy.arch.guarded = false ∧
    (tileState (fun x => { x with arch := { x.arch with guarded := true } }) id).arch.guarded = true ∧
    busy.mmaFaults (hd 2) (mmaArgs (hd 2) (tl 0 0 .bf16 .bf16) false false (busy.selectOf (hd 2) (tl 0 0 .bf16 .bf16))) (aStream 0) 0 ≠ [] := by
  decide +kernel

theorem witness_TileResults :
    let s := tileState id (lit fun t => { (default : TileBits) with form := decide (t < 2) })
    s.guardOn (hd 2) = true ∧ s.me.groups.getLsbD ((hd 2).cls.toNat - 2) = true ∧ (s.group 0).powered = true ∧
    (∀ t < 8, ((s.group 0).tileBits t).busy = false) ∧ ((s.group 0).tileBits 0).form = true ∧ ((s.group 0).tileBits 2).form = false ∧
    ((s.group 0).tileBits (partner 0)).busy = false ∧ SMap.wf (s.group 0).tiles = true ∧
    (tl 0 0 .f64 .f64 0).n.getLsbD 0 = false ∧ (tl 0 0 .f64 .f64 1).n.getLsbD 0 = true := by decide +kernel

theorem witness_WeightAndScaleResults :
    let r := [(2, 0x1000), (3, 0x400000), (4, 0x1001), (5, 0x10), (6, 0x11), (7, 0x12), (8, 1)]
    let s := tileState (fun x => { regs r x with arch := { (regs r x).arch with bwinBase := 0x10, bwinLimit := 0x12 } }) (lit fun _ => default)
    let a := fun b => (s.s b + BitVec.ofInt 64 (Scale.value (hd 6) { kj := false, kn := 0, tg := 0, b := b, imm := 0, n := 0 })).toNat
    let faults := fun (f : Fmt) (desc : Nat) => s.mldwFaults 0 (tl 0 0 .f64 f) none (desc % 2 ^ 24) (desc / 2 ^ 24 % 2 ^ 10) (desc / 2 ^ 34 % 2 ^ 16)
      (latchBytes f + (if f.inHB then 512 * 4 else 0) + 4 * (desc / 2 ^ 24 % 2 ^ 10)) (desc / 2 ^ 50)
    s.guardOn (hd 6) = true ∧ s.me.unjoined = [] ∧ s.netCheck (s.route 5) 0 = [] ∧ (s.s 4).toNat % 4096 ≠ 0 ∧
    (s.s 2).toNat % 4096 = 0 ∧ (s.s 2).toNat < 2 ^ 24 ∧ s.me.groups.getLsbD ((s.s 2).toNat / 2 ^ 22 % 4) = true ∧
    s.me.groups.getLsbD ((s.s 3).toNat / 2 ^ 22 % 4) = false ∧ s.me.groups.getLsbD 0 = true ∧ (s.group 0).powered = true ∧
    a 6 % 2 ≠ 0 ∧ a 5 % 2 = 0 ∧ s.arch.bwinBase.toNat ≤ a 5 ∧ a 5 + 2 * 1 ≤ s.arch.bwinLimit.toNat ∧ a 7 % 2 = 0 ∧
    ¬ (a 7 + 2 * 1 ≤ s.arch.bwinLimit.toNat) ∧ (tl 0 0 .f64 .bf16).sp = false ∧ Fmt.bf16.inHB = false ∧ faults .bf16 0 = [] ∧
    faults .bf16 1 ≠ [] ∧ faults .hb4 0 = [] := by decide +kernel

theorem witness_MatrixMultiplyResults :
    let good := tileState (regs [(2, 5)]) fun x => { lit (fun _ => default) x with
      annex := tset x.annex 0 { (default : Annex) with lvalid := true, fmtl := Fmt.bf16.code } }
    let bad := tileState (regs [(2, 5)]) (lit fun _ => default)
    let o := { tl 0 0 .bf16 .bf16 with b := 2 }
    let faults := fun (s : State) => s.mmaFaults (hd 2) (mmaArgs (hd 2) o true false (s.selectOf (hd 2) o)) (aStream (s.s o.b).toNat) 0
    good.guardOn (hd 2) = true ∧ good.me.groups.getLsbD 0 = true ∧ (good.group 0).powered = true ∧
    ((good.group 0).tileBits 0).busy = false ∧ faults good = [] ∧ faults bad ≠ [] ∧ o.fa.inHB = false ∧ o.cap = 0 := by decide +kernel

theorem witness_MatrixMultiplyResults_dot :
    let u : Opnd := { esc := false, raw := .fin false 1 1 0, full := .fin false 3 1 0 }
    XV.nan ∈ [(XV.nan, XV.inf true)].map (fun p => (p.1.mul p.2).val) ∧
    (let q := [(XV.inf true, XV.fin false 1 1 0), (XV.inf false, XV.fin false 1 1 0)].map fun p => (p.1.mul p.2).val
     XV.inf true ∈ q ∧ XV.inf false ∈ q) ∧
    (∀ v ∈ [(XV.fin false 1 1 0, XV.fin true 3 1 (-2))].map (fun p => (p.1.mul p.2).val), v.isNaN = false ∧ v.isInf = false) ∧
    (∀ p ∈ [(u, u)], p.1.esc = false ∧ p.2.esc = false) ∧
    (let t := exactSum ([(u, u)].map fun p => (p.1.raw.mul p.2.raw).val)
     t.isZero = false ∧ (t.mul ((XV.fin false 1 1 0).mul (.fin false 1 1 0)).val).val.isZero = false) := by decide +kernel

theorem witness_TileStoreResults :
    let o : TileSt := { td := 0, rg := 0, nrg := 0, fd := .bf16, ovf := .inf, rnd := .ne, ftz := false, el := 0, dl := 0, b := 2 }
    let s := withCode (tileState id (lit fun t => { (default : TileBits) with form := decide (t < 2) })) 4 0
      [0x4000800000000000, 0x0100000500000010]
    s.guardOn (hd 2) = true ∧ s.me.groups.getLsbD 0 = true ∧ (s.group 0).powered = true ∧ ((s.group 0).tileBits 0).busy = false ∧
    ((s.group 0).tileBits 0).form = true ∧ ((s.group 0).tileBits (partner 0)).busy = false ∧ s.companion = some (5, 0) ∧
    s.storeFaults 0 o false (storeDesc 0) s.companion = [] ∧
    ((tileState id (lit fun _ => default)).storeFaults 0 o false (storeDesc 0) none).length = 1 := by decide +kernel

theorem witness_TileStoreResults_companion :
    let s := withCode (tileState id id) 4 0 [0x4000800000000000, 0x0100000500000010]
    let w : SlotWord := { cls := 14, word := 0x0100000500000010, ext := none }
    decodeGroup ((s.code s.issue.die s.issue.ctx).drop (s.issue.pc.toNat / 8)) =
      some { slots := [w], ck := false, vj := false, idle := none, size := 2 } ∧
    (decodeSlot .m (s.issue.ctx == 2) w.cls w.word w.ext).toOption = some (.nwrTile (hd 14) (nt 0 5 0 0 1)) := by
  decide +kernel

theorem witness_TileStoreResults_trap :
    let s := tileState id fun x => { x with powered := true, tiles := [(tileKey 0 2 0 0, 0x7F7FFFFF)] }
    let v := s.tileCell 0 2 (0 / 256 % 8) (8 * 0 + 0 / (8 * 256)) (0 * 256 + 0 % 256)
    v.2 = .f32 ∧ (roundElem .f16 (fpSource v.2 false v.1) .ne .trap false (drawIf .ne (drawn .ne 0 s.issue.seed)).2).trap = true := by
  decide +kernel

theorem mem_placeBytes {a : Nat} {l : List Byte} {p : Nat × Byte} (h : p ∈ placeBytes a l) : a ≤ p.1 ∧ p.1 < a + l.length := by
  induction l generalizing a with
  | nil => simp [placeBytes] at h
  | cons b bs ih =>
    simp only [placeBytes, List.mem_cons] at h
    obtain rfl | h := h
    · simp
    · have := ih h
      simp only [List.length_cons]
      omega

theorem qstore_fold (s : State) (g : Nat) (o : TileSt) (d : StoreDesc) (q : QParams) (hd : d.lcap = 0)
    (l : List (Nat × Nat × Nat × Nat)) (hl : ∀ p ∈ l, p.1 < 64 ∧ p.2.1 < 8 ∧ p.2.2.1 < 2 ∧ p.2.2.2 < 4) (x : QStore)
    (h1 : x.lists = []) (h2 : ∀ p ∈ x.scales, p.1 < 8191) :
    (l.foldl (s.qstoreBlock g o d q) x).lists = [] ∧ ∀ p ∈ (l.foldl (s.qstoreBlock g o d q) x).scales, p.1 < 8191 := by
  induction l generalizing x with
  | nil => exact ⟨h1, h2⟩
  | cons a l ih =>
    rw [List.foldl_cons]
    refine ih (fun p hp => hl p (List.mem_cons_of_mem a hp)) _ (by simp [State.qstoreBlock, h1, hd, appended]) fun p hp => ?_
    simp only [State.qstoreBlock, List.mem_append, List.mem_singleton] at hp
    obtain hp | rfl := hp
    · exact h2 p hp
    · have := hl a (List.mem_cons_self ..)
      simp only
      omega

/-- The linear bytes of an MQST whose sub-lists hold nothing: scale entries, within the first 8 KiB of the bank. -/
theorem qstore_inside (s : State) (g : Nat) (o : TileSt) (d : StoreDesc) (q : QParams) (hd : d.lcap = 0) (hs : d.sadr = 0)
    (l : List (Nat × Nat × Nat × Nat)) (hl : ∀ p ∈ l, p.1 < 64 ∧ p.2.1 < 8 ∧ p.2.2.1 < 2 ∧ p.2.2.2 < 4)
    (x : QStore) (h1 : x.lists = []) (h2 : x.scales = []) :
    ∀ p ∈ qstoreLinear d (l.foldl (s.qstoreBlock g o d q) x), p.1 < 8192 := by
  have ⟨hx, hy⟩ := qstore_fold s g o d q hd l hl x h1 (by simp [h2])
  intro p hp
  simp only [qstoreLinear, hx, hs, List.mem_append, List.mem_flatMap, List.filter_nil, List.mapIdx_nil] at hp
  obtain ⟨e, he, hp⟩ | ⟨u, -, e, he, -⟩ := hp
  · have := mem_placeBytes hp
    have := hy e he
    simp only [show ∀ n, (bytesOfNat 2 n).length = 2 from fun n => by simp [bytesOfNat]] at *
    omega
  · simp at he

theorem tryScale_traps (q : QParams) (hi : q.fmt.elem.isInt = true) (ho : q.ovf = .sat) (xs : List (Nat × XV × Nat)) (c : Nat) :
    (tryScale q xs c).traps = [] := by
  have h : ∀ x s u, (quantiseElem q x s u).1.trap = false := fun x s u => by
    simp only [quantiseElem, hi, ho, if_true, apply_ite Prod.fst, apply_ite Rounded.trap, ite_self]
  simp [tryScale, List.filter_map, Function.comp_def, h]

theorem bestCandidate_mem {l : List Candidate} {c : Candidate} (h : bestCandidate l = some c) : c ∈ l := by
  induction l generalizing c with
  | nil => simp [bestCandidate] at h
  | cons a l ih =>
    simp only [bestCandidate] at h
    split at h
    · simp_all
    · next d hd =>
      have := ih hd
      split at h <;> (try split at h) <;> simp_all

theorem quantiseBlock_trap (q : QParams) (hi : q.fmt.elem.isInt = true) (hf : q.fmt.intElems = true) (ho : q.ovf = .sat)
    (x : List XV) (seed : Word) : (quantiseBlock q x seed).2.trap = none := by
  have h : ∀ x, (quantSpecial q x).trap = false := fun x => by
    simp only [quantSpecial, hf, ho, intOverflow, if_true]
    split <;> (try split) <;> rfl
  have hb : ∀ (a : List Nat) (fins : List (Nat × XV × Nat)), ((bestCandidate (a.map (tryScale q fins))).getD
      { code := 0, elems := [], flags := 0, traps := [], err := none }).traps = [] := fun a fins => by
    cases hc : bestCandidate (a.map (tryScale q fins)) with
    | none => rfl
    | some c =>
      obtain ⟨_, -, rfl⟩ := List.mem_map.1 (bestCandidate_mem hc)
      exact tryScale_traps q hi ho ..
  simp [quantiseBlock, List.filter_map, Function.comp_def, h]
  exact hb ..

theorem qstore_traps (s : State) (g : Nat) (o : TileSt) (d : StoreDesc) (q : QParams) (hi : q.fmt.elem.isInt = true)
    (hf : q.fmt.intElems = true) (ho : q.ovf = .sat) (hd : d.cp = false) (l : List (Nat × Nat × Nat × Nat)) (x : QStore)
    (h : x.traps = []) : (l.foldl (s.qstoreBlock g o d q) x).traps = [] := by
  induction l generalizing x with
  | nil => exact h
  | cons a l ih =>
    rw [List.foldl_cons]
    exact ih _ (by simp [State.qstoreBlock, h, hd, quantiseBlock_trap q hi hf ho])

theorem witness_TileStoreResults_quantised :
    let o : TileSt := { td := 2, rg := 0, nrg := 0, fd := .hbi8, ovf := .sat, rnd := .ne, ftz := false, el := 0, dl := 0, b := 2 }
    let s := withCode (tileState (fun x => { x with arch := { x.arch with bwinLimit := 8192 } }) (lit fun _ => default)) 4 0
      [0x4000800000000000, 0x0100000500000010]
    let d := storeDesc (s.s o.b).toNat
    let q : QParams := { fmt := o.fd, fs8 := d.kind, e := if o.el = 3 then 4 else o.el.toNat, delta := o.dl.toNat, rnd := o.rnd,
                         ovf := o.ovf, ftz := false }
    let order := (List.range (8 * (o.nrg.toNat + 1))).flatMap fun i => (List.range 8).flatMap fun a => (List.range 2).flatMap fun hb =>
      (List.range 4).map fun blk => (8 * o.rg.toNat + i, a, hb, blk)
    let x := order.foldl (s.qstoreBlock 0 o d q) { seed := s.issue.seed, lists := [], scales := [], codes := [], flags := 0, traps := [] }
    s.guardOn (hd 2) = true ∧ s.me.groups.getLsbD 0 = true ∧ (s.group 0).powered = true ∧ ((s.group 0).tileBits 2).busy = false ∧
    ((s.group 0).tileBits 2).form = false ∧ s.storeFaults 0 o true d s.companion = [] ∧ d.cp = false ∧ o.ovf ≠ .trap ∧
    (∀ p ∈ qstoreLinear d x, s.arch.bwinBase.toNat ≤ p.1 ∧ p.1 + 1 ≤ s.arch.bwinLimit.toNat) ∧ x.traps = [] := by
  intro o s d q order x
  have hl : ∀ p ∈ order, p.1 < 64 ∧ p.2.1 < 8 ∧ p.2.2.1 < 2 ∧ p.2.2.2 < 4 := by decide +kernel
  have h0 : s.arch.bwinBase.toNat = 0 ∧ s.arch.bwinLimit.toNat = 8192 := by decide +kernel
  refine ⟨by decide +kernel, by decide +kernel, by decide +kernel, by decide +kernel, by decide +kernel, by decide +kernel,
    by decide +kernel, by decide +kernel, fun p hp => ?_,
    qstore_traps s 0 o d q (by decide +kernel) (by decide +kernel) rfl (by decide +kernel) order _ rfl⟩
  have := qstore_inside s 0 o d q (by decide +kernel) (by decide +kernel) order hl _ rfl rfl p hp
  omega

/-- An image that holds a timetable of one slot: a transmit entry of Lantern 0 toward package 1, a grant of slot 0 of stack 0 to
program 0, and exchange 0 with one participant, member 0, whose map has the check value given. -/
def tableImage (mchk : Nat) : List Byte :=
  let tt := bytesOfNat 1 0 ++ bytesOfNat 3 1 ++ bytesOfNat 4 1 ++ bytesOfNat 4 1 ++ bytesOfNat 4 1 ++ bytesOfNat 48 0 ++
    bytesOfNat 16 (2 ^ 32 + 2 ^ 40 + 2 ^ 64) ++ bytesOfNat 8 (2 ^ 16) ++
    (bytesOfNat 2 0 ++ bytesOfNat 2 1 ++ bytesOfNat 4 0 ++ bytesOfNat 4 0 ++ bytesOfNat 8 mchk ++ bytesOfNat 12 0 ++ bytesOfNat 16 0)
  bytesOfNat 4 0x4E4C5349 ++ bytesOfNat 2 1 ++ bytesOfNat 2 0 ++ bytesOfNat 8 1 ++ bytesOfNat 8 (80 + tt.length) ++ bytesOfNat 40 0 ++
    segmentEntry 6 0 80 tt.length ++ tt

/-- A gang of one member on a die, running that image; package 0 with Lantern 0 up. -/
def gangState (mchk : Nat) (f : Ctx → Ctx) : State :=
  { here fun x => f { x with gang := 5, run := .running } with
    images := [{ handle := 7, bytes := tableImage mchk, digest := 0, dupMaps := [] }]
    gangs := [{ (default : Gang) with id := 5, state := .running, image := 7, tp := 64, members := [{ (default : Member) with ix := 0, die := 0, ctx := 0 }] }]
    lanterns := tset State.reset.lanterns 0 { (default : Lantern) with ls := 3 } }

theorem witness_TransferResults :
    let s := gangState 0 (wide [(2, 64), (3, 65), (4, 2 ^ 57), (5, 65600), (6, 256)])
    let pinned := { s with dies := tmod s.dies 0 fun d => { d with pins := [(0, { asid := 0, page := 0, size := 2 ^ 21, tgt := 0, out := 0, rd := true, wr := true })] } }
    s.guardOn (hd 15) = true ∧ s.issue.ctx ≠ 1 ∧ (on 0 1 id).issue.ctx = 1 ∧ (s.s 3).toNat % 64 ≠ 0 ∧ (s.s 0).toNat = 0 ∧
    (s.s 5).toNat % 64 = 0 ∧ 65536 < (s.s 5).toNat ∧ (s.s 2).toNat = 64 ∧ s.arch.bwinBase.toNat ≤ 0 ∧ 0 + 64 ≤ s.arch.bwinLimit.toNat ∧
    ¬ ((s.s 6).toNat + 64 ≤ s.arch.bwinLimit.toNat) ∧ s.me.unjoined = [] ∧ 2 ^ 57 ≤ (s.s 4).toNat ∧ (s.s 4).toNat % 64 = 0 ∧
    s.pinEntry 0 = none ∧ (pinned.tdmaTarget 0 64 true).toOption = some (0, 0) ∧ (pinned.tdmaTarget 0 64 false).toOption = some (0, 0) ∧
    (s.tdmaTarget 0 64 false).toOption = none := by decide +kernel

theorem witness_TransferResults_checks :
    let s := gangState 0 (wide [(2, 64), (3, 2 ^ 21 - 64), (5, 128), (6, 256)])
    let pinned := { s with dies := tmod s.dies 0 fun d => { d with pins := [(0, { asid := 0, page := 0, size := 2 ^ 21, tgt := 0, out := 0, rd := false, wr := false })] } }
    let p : Leaf := { asid := 0, page := 0, size := 2 ^ 21, tgt := 0, out := 0, rd := false, wr := false }
    s.guardOn (hd 15) = true ∧ (s.s 0).toNat = 0 ∧ ¬ ((s.s 6).toNat + 64 ≤ s.arch.bwinLimit.toNat) ∧ (s.s 3).toNat < 2 ^ 57 ∧
    pinned.pinEntry (s.s 3).toNat = some p ∧ p.page + p.size < (s.s 3).toNat + (s.s 5).toNat ∧ (s.s 5).toNat % 64 = 0 ∧
    pinned.pinEntry 0 = some p ∧ 0 + 64 ≤ p.page + p.size ∧ p.wr = false ∧ p.rd = false ∧ 0 + 128 ≤ s.arch.bwinLimit.toNat := by decide +kernel

theorem witness_FrameResults_checks :
    let s := gangState 0 (wide [(2, 64), (3, 65), (5, 65600), (6, 256)])
    s.guardOn (hd 15) = true ∧ s.issue.ctx ≠ 1 ∧ (s.s 3).toNat % 64 ≠ 0 ∧ 65536 < (s.s 5).toNat ∧ (s.s 0).toNat = 0 ∧
    (s.s 6).toNat % 64 = 0 ∧ ¬ ((s.s 6).toNat + (s.s 2).toNat ≤ s.arch.bwinLimit.toNat) := by decide +kernel

theorem witness_FrameResults :
    let s := gangState 0 (wide [(2, 64), (3, 1), (4, 2 ^ 10), (5, 8 * 2 ^ 10), (6, 1), (7, 2)])
    let f : StagedFrame := { key := (0, 1, 0, 0), gang := 5, ready := 0, data := List.replicate 64 0 }
    let have_ := fun f => { s with dies := tmod s.dies 0 fun d => { d with staging := [f] } }
    s.guardOn (hd 15) = true ∧ s.issue.ctx ≠ 1 ∧ (s.s 3).toNat % 64 ≠ 0 ∧ (s.s 2).toNat % 64 = 0 ∧ 0 < (s.s 2).toNat ∧
    0 + (s.s 2).toNat ≤ s.arch.bwinLimit.toNat ∧ s.routeBad (s.s 5).toNat = true ∧
    s.routeBad (s.s 4).toNat = false ∧ (s.s 4).toNat % 2 ^ 10 = s.pkg.toNat ∧ s.routeBad (s.s 6).toNat = false ∧
    (s.s 6).toNat % 2 ^ 10 ≠ s.pkg.toNat ∧ s.sendCarry 1 64 ≠ none ∧ s.sendCarry 2 64 = none ∧ s.routeBad 2 = false ∧
    s.myDie.staged (0, 1, 0, 0) = none ∧ (have_ f).myDie.staged (0, 1, 0, 0) = some f ∧ f.ready ≤ s.bel ∧ f.data.length = 64 ∧
    (have_ { f with ready := 1 }).myDie.staged (0, 1, 0, 0) = some { f with ready := 1 } ∧ s.bel < 1 ∧ f.data.length ≠ 128 := by decide +kernel

/-- A stencil map of one element of 4 bytes on one participant (Tables 13-11, 13-12). -/
def oneMap : List Byte :=
  let d := bytesOfNat 4 1 ++ bytesOfNat 8 1 ++ bytesOfNat 5 0xFFFFFFFF00 ++ bytesOfNat 7 0 ++ bytesOfNat 40 4
  bytesOfNat 1 0x53 ++ bytesOfNat 1 1 ++ bytesOfNat 2 4 ++ bytesOfNat 4 1 ++ bytesOfNat 20 1 ++ bytesOfNat 36 0 ++ d ++ d

theorem witness_CollectiveResults :
    let s := gangState 7690555255689996285 (wide [(2, 64)])
    let s := { s with dies := tmod s.dies 0 fun d => { d with bank := Mem.write [] (placeBytes 0 oneMap) } }
    let e : Xch := { xch := 0, npart := 1, start := 0, dur := 0, mchk := 7690555255689996285, parts := [0] }
    let bytes := s.bankBytes s.issue.die s.issue.ctx false true (s.s 0).toNat 192
    let m := readStencil bytes
    s.guardOn (hd 15) = true ∧ s.issue.ctx ≠ 1 ∧ (on 0 1 id).issue.ctx = 1 ∧ State.reset.exchangeOf 0 = none ∧
    s.exchangeOf 0 = some (e, 0) ∧ s.gangStep % periodOf s.myTimetable = e.start ∧ s.arch.inWindow 0 192 = true ∧ m.ok e.npart = true ∧
    natOfBytes (shake256 bytes 8) = e.mchk ∧ s.arch.inWindow 0 (m.extent m.src) = true ∧ s.arch.inWindow 0 (m.extent m.dst) = true ∧
    (s.exchangeCarry s.myGang s.me.member e s.gangStep s.myGang.carried (exchangeFlits e m.esz 0 (m.countTo 0))).isSome = true ∧
    s.arch.inWindow 0 64 = true ∧ (s.s 2).toNat = 64 ∧
    (s.exchangeCarry s.myGang s.me.member e s.gangStep s.myGang.carried (exchangeFlits e 4 0 fun _ => 64 / 4)).isSome = true := by
  decide +kernel

theorem witness_CollectiveResults_offStart :
    let s := { gangState 0 id with belfry := 1 }
    s.exchangeOf 0 = some ({ xch := 0, npart := 1, start := 0, dur := 0, mchk := 0, parts := [0] }, 0) ∧
    s.gangStep % periodOf s.myTimetable ≠ 0 := by decide +kernel

theorem witness_QueueAndBarrierResults :
    let l := [(2, 64), (3, 65), (4, 256), (5, 0x8000000000000010), (6, 0x8000000000000100), (7, 0x8000000000000008)]
    let s := here (wide l)
    let full := here fun x => { x with atomPos := 256 }
    let peer := fun (oq : List OqEntry) => State.reset.modCtx 4 0 fun x => { x with run := .running, arch := { x.arch with oq := oq } }
    let mine := fun (b : Bool) => on 4 0 fun x => { x with arch := { x.arch with oq := [{ (default : OqEntry) with poppable := b }] } }
    s.guardOn (hd 15) = true ∧ (s.s 3).toNat % 64 ≠ 0 ∧ (s.s 2).toNat % 64 = 0 ∧ ¬ ((s.s 4).toNat + 64 ≤ s.arch.bwinLimit.toNat) ∧
    s.arch.bwinBase.toNat ≤ (s.s 2).toNat ∧ (s.s 2).toNat + 64 ≤ s.arch.bwinLimit.toNat ∧ 256 ≤ full.me.atomPos ∧ s.me.atomPos < 256 ∧
    s.me.unjoined = [] ∧ (s.s 7).toNat % 16 ≠ 0 ∧ (s.s 5).toNat % 16 = 0 ∧ (s.s 5).getLsbD 63 = true ∧
    (s.s 5).toNat - 2 ^ 63 + 16 ≤ s.arch.bwinLimit.toNat ∧ ¬ ((s.s 6).toNat - 2 ^ 63 + 16 ≤ s.arch.bwinLimit.toNat) ∧
    (s.s 2).getLsbD 63 = false ∧ (State.reset.ctx 4 0).run = .absent ∧ ((peer []).ctx 4 0).run ≠ .absent ∧
    ((peer []).ctx 4 0).arch.oq.length < 64 ∧ 64 ≤ ((peer (List.replicate 64 default)).ctx 4 0).arch.oq.length ∧
    State.reset.arch.oq = [] ∧ (mine true).arch.oq = [{ (default : OqEntry) with poppable := true }] ∧
    (mine false).arch.oq = [{ (default : OqEntry) with poppable := false }] := by decide +kernel

theorem witness_FabricControlResults :
    let s := gangState 0 (regs [(2, 1), (3, 14)])
    let done := here fun x => { x with resynced := some 2 }
    s.guardOn (hd 15) = true ∧ s.issue.ctx ≠ 1 ∧ (on 0 1 id).issue.ctx = 1 ∧ (∃ e ∈ lanEntries s.myTimetable, e.lan = (s.s 0).toNat) ∧
    (¬ ∃ e ∈ lanEntries s.myTimetable, e.lan = (s.s 2).toNat) ∧ ¬ ((s.s 3).toNat < 14) ∧
    (s.s 0).toNat < phasesOf (s.timetable s.myGang) ∧ phasesOf (s.timetable s.myGang) ≤ (s.s 2).toNat ∧
    done.me.resynced = some 2 ∧ s.me.resynced = none := by decide +kernel

theorem witness_SlotRoundTrip :
    Instr.WellFormed .v false (.add (hd 1) (r3 63 62 61)) ∧ (Instr.add (hd 1) (r3 63 62 61)).hdr = some (hd 1) ∧
    (encodeSlot (.add (hd 1) (r3 63 62 61))).isSome = true ∧ Instr.WellFormed .m true (.rett (hx 0 0x3FFFF) (sy 0 0 0xFFFFFF)) ∧
    Instr.WellFormed .v false (.vadd { hx 9 0x60000 with g := 15, gn := true } (v4 63 63 63 0 .f16)) := by
  unfold Instr.WellFormed
  decide +kernel

/-- A state about to run one slot word of a program at the pc. -/
def aboutToRun (w : Word) : State :=
  { withCode State.reset 0 0 [0x0001800000000000, w] with agenda := [.slot 0 1 none, .commit] }

theorem witness_StepRunsDecoded :
    let s := aboutToRun 0x0200410000000080
    s.agenda = .slot 0 1 none :: [.commit] ∧ (s.code s.issue.die s.issue.ctx)[1]? = some 0x0200410000000080 ∧
    (decodeSlot (kindOf s.issue.die) true 0 0x0200410000000080 none).toOption = some (.addi (hd 0) { d := 4, x := 4, fn := 0, imm := 128 }) ∧
    (s.code s.issue.die s.issue.ctx)[2]? = none ∧ (decodeSlot (kindOf s.issue.die) true 0 0xFF00000000000000 none).toOption = none ∧
    (aboutToRun 0xFF00000000000000).code 0 0 = [0x0001800000000000, 0xFF00000000000000] ∧ State.reset.agenda = [] := by decide +kernel

theorem witness_SlotFrame :
    (Instr.add (hd 0) (r3 1 2 3)).hdr = some (hd 0) ∧ clustered (.add (hd 0) (r3 1 2 3)) = false ∧
    State.reset.guardOn { hd 0 with g := 1 } = false ∧ waits (.add (hd 0) (r3 1 2 3)) = false := by decide

theorem witness_WaitingFrame : (Instr.fence (hd 0) (sy 0 0)).hdr = some (hd 0) ∧ waits (.fence (hd 0) (sy 0 0)) = true := by decide

theorem witness_GroupIssues :
    let s := State.reset
    s.issue.die < 8 ∧ s.issue.ctx < 3 ∧ s.issue.hold = false ∧ s.issue.tileWait = false ∧ s.issue.traps = [] ∧
    s.issue.acts = [] ∧ s.issue.ck = false ∧
    ({ s with issue := { s.issue with ck := true } }.modCtx 0 0 fun x => { x with committed := true }).me.committed = true := by decide +kernel

theorem witness_LandingResults :
    let s := State.reset
    (s.ctx 7 2).dup = [] ∧ Memory.wf (s.die 7).bank = true ∧ ([(0, (1 : Byte)), (1, 2)].map (·.1)).Nodup ∧ 63 < 64 := by decide +kernel

theorem witness_LandingResults_memories :
    let s := State.reset
    let gr := tget (s.die 7).groups 3 default
    let on := gr.modBits 7 fun b => { b with form := true }
    Memory.wf (s.die 7).wbuf = true ∧ SMap.wf (s.die 7).tags = true ∧ [(1 : BitVec 16)].length ≤ 64 ∧ (gr.tileBits 7).form = false ∧
    (on.tileBits 7).form = true ∧ SMap.wf gr.tiles = true ∧ ([(5, (1 : BitVec 32)), (6, 0)].map (·.1)).Nodup ∧
    SMap.wf gr.latches = true ∧ SMap.wf gr.scales = true ∧ SMap.wf gr.lists = true ∧
    (∀ l ∈ [[(32767, (1 : Byte))]], (l.map (·.1)).Nodup ∧ ∀ p ∈ l, p.1 < 32768) ∧ (∀ l ∈ [[(1 : BitVec 16)]], l.length ≤ 2048) ∧
    (∀ l ∈ [[(1 : BitVec 32)]], l.length ≤ 512) := by decide +kernel

theorem witness_LandingResults_queues :
    let e : DqEntry := { (default : DqEntry) with id := 3 }
    let el : ScatElem := { push := 0, region := 0, cell := 0, value := 0, f64 := false, cfg := default }
    let l : Landing := { act := .scatPush 7 [el], rem := 0, cls := 11, born := 0, gstep := 0 }
    let y := (here fun x => { x with run := .running, arch := { x.arch with dq := [e] } }).ctx 0 0
    let p := here fun x => { x with arch := { x.arch with landing := [l] } }
    y.arch.dqEntry? 3 = some e ∧ y.arch.dqEntry? 4 = none ∧ y.arch.aq = [] ∧ e.waiting = [] ∧ y.run ≠ .exited ∧ el.cut = false ∧
    { el with cut := true }.cut = true ∧ ((tget y.arch.scat 7 default).open_ ++ [el]).length < 64 ∧
    64 ≤ (List.replicate 63 el ++ [el]).length ∧ y.arch.landing = [] ∧ (p.ctx 0 0).arch.landing = [l] ∧ l.act = .scatPush 7 (el :: []) ∧
    y.deferredGranules.length ≤ 4096 := by decide +kernel

theorem witness_LandingResults_frames :
    let s := gangState 0 id
    let f : StagedFrame := { key := (1, 2, 3, 4), gang := 5, ready := 0, data := [] }
    let t := { s with dies := tmod s.dies 0 fun d => { d with staging := [f] } }
    let h := State.reset.modCtx 0 2 fun x => { x with gang := 5 }
    let w := { h with gangs := [{ (default : Gang) with id := 5 }] }
    let g := (s.gangOf 0 0).getD default
    (s.gangOf 0 0).isSome = true ∧ (carry (s.timetable g) g.carried g.phase (s.ctx 0 0).member 1 0 0 2).map (·.1.lan) = some 0 ∧
    neighbour 0 0 = none ∧ neighbour 0 1 = some 4 ∧ State.reset.edges = BitVec.allOnes 14 ∧
    State.reset.edgeLate = [] ∧ (t.die 0).staged (1, 2, 3, 4) = some f ∧ (State.reset.ctx 1 1).deferred = [] ∧
    (State.reset.ctx 1 1).arrivals = [] ∧ (State.reset.ctx 1 1).deferScat = [] ∧ (State.reset.ctx 1 1).taken = [] ∧
    (State.reset.ctx 1 1).reqs = [] ∧ (State.reset.ctx 1 1).arch.scatIdle = true ∧ (w.gangOf 0 2).isSome = true ∧
    (checkpointOffsets (w.code 0 (w.ctx 0 2).served)).length < 1 ∧ 0 ≤ (checkpointOffsets (w.code 0 (w.ctx 0 2).served)).length := by
  decide +kernel

theorem witness_TrapRanksAndClasses :
    let t : Trap := { code := 0x30, info := 0, cls := 1, clus := none }
    leadTrap [t, { t with cls := 0 }] = some { t with cls := 0 } ∧ (0x09 : Nat) ≤ 0x09 ∧ 0x09 < t.code ∧ t.code ≠ 0x10 ∧ t.code ≠ 0x60 ∧
    t.code ≠ 0x61 ∧ State.reset.handlerOf 0 = none ∧ { State.reset with handlers := [(0, 7)] }.handlerOf 0 ≠ none ∧
    4 ≤ { (default : Gang) with tries := 4 }.tries := by decide +kernel

theorem witness_TakingATrap :
    let s := gangState 0 id
    let t : Trap := { code := 0x30, info := 0, cls := 15, clus := none }
    (∃ g, s.gangOf 0 0 = some g ∧ g.state = .running ∧ g.id ∈ s.gangs.map (·.id) ∧ g.tries < 4 ∧ g.others = 0) ∧
    (s.ctx 0 0).run = .running ∧ t.code < 256 ∧ t.cls < 16 ∧ s.effectiveClass 0 t.code = .fatal ∧
    { s with handlers := [(0, 7)] }.effectiveClass 0 t.code ≠ .fatal := by decide +kernel

theorem witness_ContextEvents :
    let run := fun (f : Ctx → Ctx) (ws : List Word) => withCode (here fun x => f { x with run := .running }) 0 0 ws
    let s := run id [0x0001800000000000, 0x0200410000000080]
    let ck := run id [0x0000C00000000000]
    (State.reset.ctx 0 0).run = .absent ∧ (s.ctx 0 0).run = .running ∧ (s.ctx 0 0).regionSteps < 65536 ∧ (s.ctx 0 0).idleLeft = 0 ∧
    (s.ctx 0 0).nonEmpty < 63 ∧ (s.groupAt 0 0).map (·.ck) = some false ∧ (ck.groupAt 0 0).map (·.ck) = some true ∧
    (ck.ctx 0 0).committed = false ∧
    (let t := run (fun x => { x with regionSteps := 65536, idleLeft := 1 }) []
     65536 ≤ (t.ctx 0 0).regionSteps ∧ (t.ctx 0 0).idleLeft ≠ 0) ∧
    (let t := run (fun x => { x with regionSteps := 65535, idleLeft := 1 }) []
     (t.ctx 0 0).regionSteps < 65536 ∧ (t.ctx 0 0).idleLeft ≠ 0) ∧
    63 ≤ ((run (fun x => { x with nonEmpty := 63 }) []).ctx 0 0).nonEmpty := by decide +kernel

theorem witness_ContextEvents_landing :
    let l : Landing := { act := .s 1 5, rem := 0, cls := 0, born := 0, gstep := 0 }
    let r : Req := { (default : Req) with id := 9, kind := .ldh 3 false, value := some 4, size := 8 }
    let s := here fun x => { x with run := .running, reqs := [r], arch := { x.arch with landing := [l] } }
    let far := here fun x => { x with arch := { x.arch with landing := [{ l with rem := 1 }] } }
    (∀ l ∈ (far.ctx 0 0).arch.landing, l.rem ≠ 0 ∧ l.atOnce = false) ∧ (s.ctx 0 0).dup = [] ∧ (s.ctx 0 0).arch.landing = [l] ∧
    (s.ctx 0 0).req? 9 = some r ∧ r.landed = false ∧ r.landed? = some (3, 4) ∧
    ((tget (State.reset.die 4).groups 3 default).tileBits 7).cnt = 0 := by decide +kernel

theorem witness_ContextEvents_tiles :
    let s := tileState id (lit fun t => { (default : TileBits) with busy := decide (t = 1), cnt := 1 })
    (∀ l ∈ (s.ctx 4 0).arch.landing, l.rem ≠ 0 ∧ l.atOnce = false) ∧ (s.ctx 4 0).groups.getLsbD 0 = true ∧
    ((tget (s.die 4).groups 0 default).tileBits 1).busy = true ∧ ((tget (s.die 4).groups 0 default).tileBits 1).cnt ≤ 1 := by decide +kernel

theorem witness_IndexedAndErrorEvents :
    let q : AqEntry := { (default : AqEntry) with id := 3 }
    let e : DqEntry := { (default : DqEntry) with id := 3, status := .wait }
    let w : ScatElem := { push := 0, region := 0, cell := 0, value := 0, f64 := false, cfg := default }
    let s := here fun x => { x with run := .running, arch := { x.arch with aq := [q], dq := [e], scat := tset x.arch.scat 7 { open_ := [], closed := [[w]] } } }
    let got := here fun x => { x with arch := { x.arch with dq := [{ e with waiting := [5], got := [(5, none, 8)] }] } }
    let tr : ScatElem := { w with cfg := { (default : ScatRegion) with translated := true } }
    let book := { State.reset with dies := tmod State.reset.dies 0 fun d => { d with slotq := [(0, 1, 2, 3)] } }
    (s.ctx 0 0).arch.aq = q :: [] ∧ s.elementsStop 0 0 = false ∧ got.elementsStop 0 0 = false ∧ (s.ctx 0 0).run = .running ∧ (s.ctx 0 0).arch.dqEntry? q.id = some e ∧
    e.waiting = [] ∧ q.tk ≠ 1 ∧ (got.ctx 0 0).arch.dqEntry? 3 = some { e with waiting := [5], got := [(5, none, 8)] } ∧
    ([(5, (none : Option Trap), 8)] : List _).find? (fun p => p.1 == 5) = some (5, none, 8) ∧
    (tget (s.ctx 0 0).arch.scat 7 default).closed = [w] :: [] ∧ [w].all (fun e => !e.cfg.translated) = true ∧
    [tr].any (fun e => e.cfg.translated) = true ∧ (book.die 0).slotq = [(0, 1, 2, 3)] ∧ (∀ k < 8, k ≠ 0 → (book.die k).slotq = []) ∧
    (∀ k < 8, (State.reset.die k).slotq = []) ∧ 255 / 128 = 1 := by decide +kernel

theorem witness_IndexedAndErrorEvents_walk :
    let s := { State.reset with roots := [(1, 0x200000)], hbm := tset State.reset.hbm 0 (Mem.write [] (placeBytes 0x200000 (bytesOfNat 8 (1 + 0x400000)) ++
      placeBytes 0x400000 (bytesOfNat 8 (1 + 2 + 4 + 8)))), }
    (s.walk 1 0).toOption = some { asid := 1, page := 0, size := 2 ^ 30, tgt := 0, out := 0, rd := true, wr := true } ∧
    ∀ c < 3, ∀ r ∈ (s.ctx 0 c).reqs, r.untranslated = false := by decide +kernel

theorem witness_IndexedAndErrorEvents_scalar :
    let q : ScalarReq := { key := [], stack := 0, channel := 0, from_ := 0, slot := some 102, work := some (0, .commit, .read 0 0 1) }
    let e : Dated := { at_ := 102, phase := 0, what := .read 0 0 1 }
    let s := { State.reset with scalarBook := [q], calendar := [e] }
    (∀ k < 8, (s.die k).slotq = []) ∧ s.erringScalar 0 0 0 = some (q, 102) ∧ State.reset.erringScalar 0 0 0 = none ∧
    s.scalarBook = [q] ∧ 102 / 128 = 0 ∧ e ∈ s.calendar ∧ e.what = .read 0 0 1 := by decide +kernel

theorem witness_IndexedAndErrorEvents_slot :
    let p := State.reset.withFetchWord 128 (0x0001800000000000 + 0x0200410000000080 * 2 ^ 64)
    let s := p.modCtx 0 0 fun c => { c with run := .running }
    (s.ctx 0 0).run = .running ∧ s.readers 0 0 0 4 = 0 :: [] ∧ s.readers 0 0 0 5 = [] := by decide +kernel

theorem witness_IndexedAndErrorEvents_retry :
    let b : BurstSlot := (0, 1, 0, 3)
    let g : Gran := { (default : Gran) with slot := some b }
    let r : Req := { (default : Req) with id := 9, grans := [g] }
    let s := { gangState 0 fun x => { x with reqs := [r] } with pendings := [] }
    let q : ScalarReq := { key := [], stack := 0, channel := 0, from_ := 0, slot := some 102, work := some (0, .commit, .done 0 0 9) }
    ((s.pairsOf 0 0).filter fun p => p.1 == 0).map (·.2) ≠ [] ∧ (s.ctx 0 0).reqs = [r] ∧ r.grans = [g] ∧ g.slot = some b ∧ g.done = false ∧
    (0 == b.1 && b.2.2.2 == 3 && (b.2.1 == 1 && decide (0 ≤ b.2.2.1))) = true ∧ (s.ctx 0 1).reqs = [] ∧ (s.ctx 0 2).reqs = [] ∧
    ((s.pairsOf 0 0).filter fun p => (hops 0 p.1 == 0) == (hops 0 0 == 0)).idxOf? (0, 0) = some 0 ∧
    q.work = some (0, .commit, .done 0 0 9) ∧ (s.ctx 0 0).req? 9 = some r ∧ q.slot ≠ none ∧ (default : ScatElem).region < 8 ∧
    ({ (default : ScatElem) with cfg := { (default : ScatRegion) with wide := true } }).cfg.wide = true ∧
    (default : ScatElem).cfg.wide = false := by decide +kernel

theorem witness_MemoryEvents :
    let g : Gran := { (default : Gran) with k := 1, data := some 7, due := 0 }
    let r : Req := { (default : Req) with id := 9, kind := .tdmaIn, grans := [g] }
    let s := here fun x => { x with run := .running, reqs := [r] }
    let w : DefWrite := { (default : DefWrite) with mask := 1 }
    let p : Pending := { (default : Pending) with id := 2, write := some w, home := some (.bank 7 0) }
    let a : Pending := { (default : Pending) with id := 3, arrival := some { addr := 0x8000000000000000, value := 1, scope := .ctx } }
    let z := { State.reset with pendings := [p, { p with id := 4, home := some (.stack 0 0) }, a] }
    let at_ : Req := { (default : Req) with id := 8, kind := .atomic .cas 0 5 1 0, home := some (.bank 0 0), size := 8, value := none }
    let back := { at_ with value := some 3 }
    let sent := here fun x => { x with sentAtomics := [at_] }
    let full := here fun x => { x with sentAtomics := [back] }
    (s.ctx 0 0).req? 9 = some r ∧ r.gran? 1 = some g ∧ g.done = false ∧ (s.ctx 0 0).run ≠ .stopped ∧ g.data = some 7 ∧ g.due % 2 ^ 64 = s.bel ∧
    z.pendings.find? (fun p => p.id == 2) = some p ∧ p.sent = false ∧ p.slot = none ∧ z.blockedPending p = false ∧
    Memory.wf (z.die 7).bank = true ∧ a.write = none ∧ isBankAddr (0x8000000000000000 : Word).toNat = true ∧
    (z.readHome (.bank 0 0) 16).toOption = some 0 ∧ (sent.ctx 0 0).sentAtomics.find? (fun r => r.id == 8) = some at_ ∧ at_.value = none ∧
    ((sent.settleWord 0 0 8 (.bank 0 0)).bind fun u => (u.readHome (.bank 0 0) 8).toOption) = some (0 : Word).toNat ∧ at_.poison = none ∧
    (full.ctx 0 0).sentAtomics.find? (fun r => r.id == 8) = some back ∧ back.value = some 3 ∧ back.logIx = some 0 ∧
    (full.ctx 0 0).waitingAtomic 0 = none := by decide +kernel

theorem witness_MemoryEvents_stack :
    let p : Pending := { (default : Pending) with id := 4, write := some default, home := some (.stack 0 0) }
    let s := { State.reset with pendings := [p, { p with id := 5, slot := some default, due := 0 }] }
    s.pendings.find? (fun p => p.id == 4) = some p ∧ p.sent = false ∧ p.slot = none ∧ s.blockedPending p = false ∧
    s.pendings.find? (fun p => p.id == 5) = some { p with id := 5, slot := some default, due := 0 } ∧ 0 = s.bel ∧
    s.blockedPending { p with id := 5, slot := some default, due := 0 } = false ∧ State.reset.pendings = [] ∧
    (State.reset.ctx 0 0).scalars = [] ∧
    ({ State.reset with belfryOn := true }.elasticTurn [.stack 0 64]).isSome = true ∧
    State.reset.burstAt (.stack 0 64) = some (0, channelOf 64) := by decide +kernel

/-- An atomic at a word in a stack whose channel refreshes, after a released STH to it. -/
theorem witness_MemoryEvents_late :
    let at_ : Req := { (default : Req) with id := 8, kind := .atomic .add 0 5 1 0, home := some (.stack 0 0), size := 8 }
    let w : DefWrite := { (default : DefWrite) with mask := 1, sth := true }
    let p : Pending := { (default : Pending) with id := 2, write := some w, home := some (.stack 0 0) }
    let s := { here fun x => { x with sentAtomics := [at_] } with pendings := [p], belfryOn := true }
    (s.ctx 0 0).sentAtomics.find? (fun r => r.id == 8) = some at_ ∧ s.settleWord 0 0 8 (.stack 0 0) = none := by decide +kernel

theorem witness_FrameEvents :
    let f : Frame := { (default : Frame) with dstDie := 0, gang := 5, data := [] }
    let s := gangState 0 id
    let n : NFrame := { (default : NFrame) with id := 3 }
    let x : Coll := { (default : Coll) with req := 9, gang := 5, xch := 0, len := 0, recv := [] }
    let got := { x with recv := [(0, 0, 4, [])] }
    let r : Req := { (default : Req) with id := 9, kind := .collective, grans := [{ (default : Gran) with k := 0 }] }
    let t := { gangState 0 fun x => { x with reqs := [r], takes := [(1, 64, [3])] } with colls := [x] }
    let late := { t with colls := [got] }
    let fr := { s with dies := tmod s.dies 0 fun d => { d with nframes := [n] } }
    (fr.die 0).nframes.find? (fun f => f.id == 3) = some n ∧ (s.ctx 0 0).run ≠ .absent ∧ (s.ctx 0 0).gang = f.gang ∧
    f.dstPkg = s.pkg.toNat ∧ (s.die 0).duplicate (0, 0, 0, 0) = false ∧ s.gang? 5 = some s.myGang ∧
    s.stagedBytes 0 5 + f.data.length ≤ shareOf (s.timetable s.myGang) (s.ctx 0 0).prog ∧
    (t.ctx 0 0).takes.find? (fun t => t.1 == 1) = some (1, 64, [3]) ∧ (t.ctx 0 0).run ≠ .stopped ∧
    t.colls.find? (fun x => x.gang == f.gang && x.xch == f.seq % 2 ^ 16) = some x ∧
    t.collRecord x = some { xch := 0, npart := 1, start := 0, dur := 0, mchk := 0, parts := [0] } ∧ x.has 0 0 = false ∧
    got.has 0 0 = true ∧ got.ready 0 0 4 = true ∧ got.ready 0 0 late.bel = false ∧ (late.ctx 0 0).run = .running ∧
    (t.ctx 0 0).req? 9 = some r ∧ r.gran? 0 = some { (default : Gran) with k := 0 } ∧
    (default : Gran).done = false ∧ t.colls.find? (fun y => y.req == 9) = some x ∧ x.granule 1 0 0 = some [] ∧
    (∃ g ∈ r.grans, g.done = false) ∧ ∀ g ∈ [{ (default : Gran) with done := true }], g.done = true := by decide +kernel

theorem witness_FrameEvents_untaken :
    let s := gangState 0 id
    let f : Frame := { (default : Frame) with dstDie := 1, gang := 5 }
    (s.ctx 1 0).run = .absent ∧ f.srcPkg = s.pkg.toNat ∧ (s.ctx f.srcDie 0).run ≠ .absent ∧ (s.ctx f.srcDie 0).gang = f.gang ∧
    f.dstPkg = s.pkg.toNat ∧ { f with srcPkg := 3 }.srcPkg ≠ s.pkg.toNat ∧ { f with dstPkg := 3 }.dstPkg ≠ s.pkg.toNat := by decide +kernel

theorem witness_FrameEvents_full :
    let f : Frame := { (default : Frame) with gang := 5, data := [(0 : Byte)] }
    let x : Coll := { (default : Coll) with req := 9, gang := 5, rank := 1 }
    let s := { gangState 0 id with colls := [x] }
    x.has 0 0 = false ∧ 0 ≠ x.rank ∧ shareOf (s.timetable s.myGang) (s.ctx x.die x.ctx).prog < s.stagedBytes x.die x.gang + f.data.length := by
  decide +kernel

/-- An address space 1 whose first GiB is the package's stack 0, with bytes of stack 0 and queues. -/
def mapped (bs : List (Nat × Byte)) (qs : List Queue) : State :=
  { State.reset with
    roots := [(1, 0x200000)], queues := qs
    hbm := tset State.reset.hbm 0 (Mem.write [] (placeBytes 0x200000 (bytesOfNat 8 (1 + 0x400000)) ++
      placeBytes 0x400000 (bytesOfNat 8 (1 + 2 + 4 + 8)) ++ bs)) }

/-- The header of a queue with one entry at index 0, its ring at 0x1000040 (Table 9-5). -/
def header (kind : Nat) : List Byte :=
  bytesOfNat 8 1 ++ bytesOfNat 8 0 ++ bytesOfNat 1 4 ++ bytesOfNat 1 kind ++ bytesOfNat 6 0 ++ bytesOfNat 8 0x1000040 ++
    bytesOfNat 8 0 ++ bytesOfNat 1 4 ++ bytesOfNat 23 0

/-- A copy packet of 64 bytes with the flags given (Table 9-7). -/
def packet (flags : Nat) : List Byte :=
  bytesOfNat 4 0 ++ bytesOfNat 1 1 ++ bytesOfNat 1 flags ++ bytesOfNat 2 0 ++ bytesOfNat 8 0 ++ bytesOfNat 8 0x2000000 ++ bytesOfNat 8 64 ++
    bytesOfNat 8 0x3000000 ++ bytesOfNat 24 0

/-- A copy queue registered at that header, whose head has been seen. -/
def copyQueue : Queue := { (default : Queue) with ix := 0, launch := false, header := 0x1000000, asid := 1, seen := some 0 }

theorem witness_LaunchEvents_copy :
    let s := fun f => mapped (placeBytes 0x1000000 (header 0 ++ packet f)) [copyQueue]
    let y := copyQueue
    (s 0).queue? 0 = some y ∧ y.stopped = false ∧ y.launch = false ∧ (s 0).copies = [] ∧ (s 0).rixPending y = false ∧
    (match (s 0).headPacket y with | (.bytes h, .bytes p) => h == header 0 && p == packet 0 | _ => false) = true ∧
    copyBad (packet 0) = false ∧ copyBad (packet 1) = false ∧ packet 0 ≠ [] ∧ y.seen = some 0 ∧ bit 0 (natAt (packet 0) 5 1) = false ∧
    bit 0 (natAt (packet 1) 5 1) = true ∧
    (match (s 1).portRead 0 1 (natAt (packet 1) 32 8) 8 with | .bytes w => natOfBytes w == 0 | _ => false) = true ∧
    (let c : Copy := { (default : Copy) with queue := 0, dst := 0x2000000, len := 64, src := [some (List.replicate 64 1)] }
     let t := { s 0 with copies := [c, { c with queue := 1, stage := 2, abar := some 64 }] }
     t.copies.find? (fun c => c.queue == 0) = some c ∧ c.stage = 0 ∧ c.performed = 0 ∧ 64 * 0 < c.len ∧
     c.src.getD 0 none = some (List.replicate 64 1) ∧ c.len ≤ 64 * (0 + 1) ∧ c.abar = none ∧ { c with abar := some 64 }.abar = some 64 ∧
     { c with stage := 2 }.stage = 2) := by decide +kernel

theorem witness_LaunchEvents_copyHome :
    let s := { State.reset with
      roots := [(1, 0x200000)], pres := 0xFF, domain := [0]
      hbm := tset State.reset.hbm 0 (Mem.write [] (placeBytes 0x200000 (bytesOfNat 8 (1 + 0x400000)) ++
        placeBytes 0x400000 (bytesOfNat 8 (1 + 2 + 4 + 8 + 16 + 2 ^ 47)))) }
    (s.reachPort 1 64 false true).toOption = some (.bank 0 64) := by decide +kernel

/-- A task and its launch. -/
def task : Task := { (default : Task) with id := 3, launch := 4, blockedAt := some 0 }

theorem witness_LaunchEvents :
    let i : Image := { handle := 7, bytes := tableImage 0, digest := 0, dupMaps := [] }
    let s := { State.reset with images := [i], tasks := [task], belfry := 1048576, belfryOn := true, ready := true }
    let done : Launch := { (default : Launch) with id := 4, completing := true }
    let open_ : Launch := { (default : Launch) with id := 4, completing := false, graph := some 0 }
    s.task? 3 = some task ∧ task.blockedAt = some 0 ∧ s.imageOf task.record = some i ∧ s.assign i.bytes task.record = some [] ∧
    0 + Config.claimCounts ≤ s.bel ∧ s.ready = true ∧ { s with launches := [done] }.launch? 4 = some done ∧ done.completing = true ∧
    { s with launches := [open_] }.launch? 4 = some open_ ∧ open_.completing = false ∧ open_.abar = none ∧ open_.graph ≠ none ∧
    (let h : Hold := { bg := false, image := 7, members := [(0, 0, 0)] }
     let u := { task with id := 9 }
     let g : Gang := { (default : Gang) with id := 5, succTask := some 9, hold := h }
     let t := { s with gangs := [g, { (default : Gang) with id := 6, hold := h }], tasks := [u] }
     t.gang? 5 = some g ∧ g.succTask = some u.id ∧ t.task? u.id = some u ∧ t.imageOf u.record = some i ∧
     (∃ o ∈ t.placedHolds 5, t.slotsConflict h o = true)) ∧
    (let r : Reservation := { (default : Reservation) with gang := 2 }
     State.reset.imageOf (reservedRecord r) = none ∧ s.imageOf (reservedRecord r) = some i ∧
     s.dieAbsent i.bytes (reservedRecord r) = false ∧ s.assign i.bytes (reservedRecord r) = some [] ∧
     s.fits { bg := false, image := i.handle, members := [] } 0 0 0 = true) ∧
    (let g : Gang := { (default : Gang) with id := 5, state := .placing, home := 1, task := 3 }
     let t := { s with gangs := [g] }
     t.gang? 5 = some g ∧ g.startAt = 0 ∧ g.home ≠ t.pkg.toNat ∧ t.task? g.task = some task) := by decide +kernel

theorem witness_LaunchEvents_records :
    let h : Hold := { bg := false, image := 7, members := [(0, 7, 0x200000000)] }
    let cold : Gang := { (default : Gang) with hold := h, cold := [(7, 1)] }
    [(1 : Byte)] ≠ [] ∧ 63 % 64 + [(1 : Byte)].length ≤ 64 ∧ 0x1000020 % 32 = 0 ∧ task.saved = none ∧ task.record.bg = false ∧ h.bg = false ∧
    (∃ m ∈ h.members, m.2.1 < 8) ∧ cold.cold[0]? = some (7, 1) ∧ cold.saved = [] ∧
    { cold with saved := [default] }.saved ≠ [] := by decide

theorem witness_LaunchEvents_leaving :
    let i : Image := { handle := 7, bytes := tableImage 0, digest := 0, dupMaps := [] }
    let g : Gang := { (default : Gang) with id := 5, state := .ended, succTask := some 9, hold := { bg := false, image := 7, members := [(0, 1, 0)] } }
    let s := { State.reset with images := [i], gangs := [g], tasks := [{ task with id := 9 }], offline := 3, offBusy := true, offReq := 8 }
    let h := s.successorHold g task.record
    (∃ m ∈ h.members, s.offline.getLsbD m.2.1 = true) ∧ (∃ x ∈ s.holdGrants h, s.offline.getLsbD x.1 = true ∧ x.2 ≠ 0) ∧
    s.leavingStack h = true ∧ ({ g with resumeAt := some 1 }.resumeAt = some 1 ∧ s.bel < 1) := by decide +kernel

theorem witness_LaunchEvents_table :
    let i : Image := { handle := 7, bytes := imageOfWords .v [], digest := 0, dupMaps := [] }
    let s := { State.reset with images := [i], ready := true }
    s.imageOf (reservedRecord default) = some i ∧ s.timetableRefused i.bytes (reservedRecord default) [] = false ∧
    s.dieAbsent i.bytes (reservedRecord default) = false ∧ s.assign i.bytes (reservedRecord default) = some [] ∧
    s.fits { bg := false, image := 7, members := [] } 0 0 0 = true := by decide +kernel

theorem witness_LaunchEvents_successor :
    let i : Image := { handle := 7, bytes := imageOfWords .v [], digest := 0, dupMaps := [] }
    let g : Gang := { (default : Gang) with id := 5, state := .ended, succTask := some 9, hold := { bg := false, image := 7, members := [(0, 1, 0)] } }
    let u : Task := { task with id := 9 }
    let s := { State.reset with images := [i], gangs := [g], tasks := [u], pres := 0x3FF, svc := 0x3FF }
    let h := s.successorHold g u.record
    let far := { g with others := 1 }
    s.gang? 5 = some g ∧ g.state = .ended ∧ g.succTask = some u.id ∧ s.task? u.id = some u ∧ g.resumeAt = none ∧ g.others = 0 ∧
    { s with gangs := [far] }.gang? 5 = some far ∧ far.others ≠ 0 ∧ { g with resumeAt := some 0 }.resumeAt = some s.bel ∧
    s.leavingStack h = false ∧ (∀ m ∈ h.members, ¬ (s.offBusy = true ∧ m.2.1 = s.offReq.toNat % 8)) ∧ s.successorFits g h = true ∧
    s.placeHold = false ∧ (∀ m ∈ h.members, s.closedDie m.2.1 = false) ∧
    (let busy := { s with offBusy := true, offReq := 1 }
     ∃ m ∈ (busy.successorHold g u.record).members, busy.offBusy = true ∧ m.2.1 = busy.offReq.toNat % 8) ∧
    { s with placeHold := true }.placeHold = true := by decide +kernel

theorem witness_LaunchEvents_reserve :
    let a : ReserveAnswer := { (default : ReserveAnswer) with gang := 5, ready := some 64 }
    let no := { a with ready := none, status := 0 }
    let i : Image := { handle := 7, bytes := tableImage 0, digest := 0, dupMaps := [] }
    let r : Reservation := { (default : Reservation) with ranks := [0], entries := [0], record := BitVec.ofNat 2048 (2 ^ 1152) }
    let s := { State.reset with images := [i], belfryOn := true }
    (default : Reservation).succ = none ∧ State.reset.belfryOn = false ∧ a.ready = some 64 ∧ no.ready = none ∧ no.status = 0 ∧
    { (default : Gang) with saved := [default] }.saved ≠ [] ∧ s.dieAbsent i.bytes (reservedRecord r) = true ∧
    s.timetableRefused i.bytes (reservedRecord default) [] = true := by decide +kernel

/-- The package with one gang. -/
def oneGang (g : Gang) (f : Ctx → Ctx) : State := { here fun x => f { x with gang := g.id } with gangs := [g] }

/-- A gang of one member on V0. -/
def one (st : GangState) : Gang :=
  { (default : Gang) with id := 5, state := st, tp := 64, members := [{ (default : Member) with ix := 0, die := 0, ctx := 0 }] }

theorem witness_GangEvents_groups :
    let own := on 7 0 fun x => { x with run := .running, groups := 8 }
    let warm := { own with dies := tmod own.dies 7 fun d => { d with groups := tmod d.groups 3 fun g => { g with powering := true } } }
    own.ownsGroup 7 3 = true ∧ (tget (own.die 7).groups 3 default).powered = false ∧
    (tget (warm.die 7).groups 3 default).powering = true ∧ State.reset.ownsGroup 4 0 = false := by decide +kernel

theorem witness_GangEvents_handler :
    let g := one .rollback
    let s := { oneGang g id with handlers := [(0, 7)] }
    s.gangOf 0 0 = some g ∧ s.handlerOf 0 = some 7 ∧ g.state = .rollback ∧ (s.ctx 0 2).run = .absent ∧
    ((s.modCtx 0 2 fun x => { x with run := .running }).ctx 0 2).run ≠ .absent := by decide +kernel

theorem witness_GangEvents :
    let has := fun (g : Gang) => (oneGang g id).gang? 5 = some g
    let ck := withCode (oneGang (one .running) fun x => { x with run := .running }) 0 0 [0x0000C00000000000]
    let bare := fun (st : GangState) => { one st with members := [] }
    let m : Member := { (default : Member) with ix := 0, die := 0, ctx := 0 }
    has (one .placing) ∧ (one .placing).startAt = State.reset.bel ∧ (one .placing).saved = [] ∧
    has (one .running) ∧ ck.liveMembers (one .running) ≠ [] ∧ (∀ m ∈ ck.liveMembers (one .running), ck.atCk m = true) ∧
    has (one .preempting) ∧ (one .preempting).preempt = none ∧ { one .preempting with preempt := some (0, 131071) }.preempt = some (0, 131071) ∧
    (((one .preempting).members.map (oneGang (one .preempting) id).saveMember).map SavedMember.size).sum ≤ 131072 ∧
    131071 < (((one .preempting).members.map (oneGang (one .preempting) id).saveMember).map SavedMember.size).sum ∧
    has { bare .rollback with resumeAt := some 0 } ∧ { bare .rollback with resumeAt := some 0 }.resumeAt = some State.reset.bel ∧
    has { one .rollback with resumeAt := some 0 } ∧ (one .rollback).members = [m] ∧ m.resumeAt = none ∧
    ((oneGang (one .rollback) fun x => { x with run := .stopped }).ctx m.die m.ctx).run = .stopped ∧
    has { one .running with rerun := 1 } ∧ { one .running with rerun := 1 }.tries < 4 ∧ (one .running).rerun ≠ 1 ∧
    ((oneGang (bare .running) id).rerunRecord (bare .running)) = [] ∧
    ((oneGang (one .running) fun x => { x with run := .running }).rerunRecord (one .running)).length = 1 ∧ (one .running).rerunSigs = [] ∧
    (one .running).state ≠ .saved ∧ has (one .draining) ∧ ((oneGang (one .draining) id).ctx 0 0).succ = none ∧
    has { one .running with resumeAt := some 0 } ∧
    ((oneGang (one .running) fun x => { x with atResync := some 0 }).ctx m.die m.ctx).atResync = some 0 := by decide +kernel

theorem witness_GangEvents_traps :
    let t : Trap := default
    let m : Member := { (default : Member) with trap := some t }
    let g := { one .rollback with members := [m] }
    let small := { one .preempting with preempt := some (0, 1), offline := true }
    (oneGang g id).gang? 5 = some g ∧ g.members = [m] ∧ m.trap = some t ∧ m.die < 8 ∧ m.ctx < 3 ∧ m.restored = false ∧
    { m with restored := true }.restored = true ∧ g.state = .rollback ∧ (oneGang small id).gang? 5 = some small ∧
    1 < ((small.members.map (oneGang small id).saveMember).map SavedMember.size).sum ∧ small.offline = true := by decide +kernel

theorem witness_GangEvents_members :
    let g := one .running
    let m : Member := { (default : Member) with ix := 0, die := 0, ctx := 0 }
    let s := oneGang g fun x => { x with run := .running }
    g.bg = false ∧ g.members = [m] ∧ m.die < 8 ∧ m.ctx < 3 ∧ s.dupMap m.die m.ctx 0 = [] ∧ (s.ctx m.die m.ctx).gang = g.id ∧
    m ∈ s.liveMembers g ∧ g ∈ s.gangs ∧ (∀ m ∈ g.members, m.die ≠ 7) ∧ ((s.freeGang g).ctx 0 0).run = .absent := by decide +kernel

theorem witness_GangEvents_end :
    let g := { one .draining with task := 3 }
    let names := fun (n : Option Nat) => oneGang g fun x => { x with succ := n }
    let two := { g with members := g.members ++ [{ (default : Member) with ix := 1, die := 1, ctx := 0 }] }
    let i : Image := { handle := 7, bytes := tableImage 0, digest := 0, dupMaps := [] }
    let u : Task := { task with id := 9, index := 1, succof := some 0, record := { (default : LaunchRecord) with succ := true } }
    let s := { names (some 1) with images := [i], tasks := [task, u] }
    (names none).gang? 5 = some g ∧ g.members ≠ [] ∧ (∀ m ∈ g.members, ((names none).ctx m.die m.ctx).succ = none) ∧
    (∀ m ∈ g.members, ((names (some 1)).ctx m.die m.ctx).succ = some 1) ∧ g.home = State.reset.pkg.toNat ∧
    { g with home := 1 }.home ≠ State.reset.pkg.toNat ∧ (names (some 1)).successorOf g 1 = none ∧ s.gang? 5 = some g ∧
    s.successorOf g 1 = some u ∧
    (∃ m ∈ two.members, ∃ k ∈ two.members, ((names (some 1)).ctx m.die m.ctx).succ ≠ ((names (some 1)).ctx k.die k.ctx).succ) ∧
    (let r := { one .running with rerun := 2 }
     let s := oneGang r fun x => { x with run := .running }
     s.gang? 5 = some r ∧ r.rerun ≠ 1 ∧ ∃ x ∈ s.rerunRecord r, x ∉ r.rerunSigs) := by decide +kernel

/-- A package whose Lantern i has changes. -/
def lan (i : Nat) (l : Lantern) : State := { State.reset with lanterns := tset State.reset.lanterns i l, belfryOn := true }

theorem witness_LanternEvents :
    let up : Lantern := { (default : Lantern) with ls := 3 }
    let x : RingFlit := { (default : RingFlit) with seq := 7 }
    let q : LanternReq := { id := 4, ident := 12, mask := 1, wake := true, arm := none, die := 0, gang := 0, at_ := 0 }
    let away : Lantern := { up with ls := 6, faultAt := some 5, resumeAt := some 0 }
    let bad : Lantern := { up with rxBad := [2] }
    let l := (lan 12 up).lantern 12
    (1 : BitVec 64) &&& ~~~l.woken &&& ~~~l.locking ≠ 0 ∧
    { State.reset with lanternReqs := [q] }.lanternReqs = [q] ∧ q.ident = 12 ∧ q.at_ = State.reset.now ∧ q.die < 8 ∧
    ((lan 12 away).lantern 12).faultAt = some 5 ∧ ((lan 12 away).lantern 12).ls = 6 ∧
    ((lan 12 away).lantern 12).resumeAt = some (lan 12 away).now ∧ 12 % 7 ≠ 6 ∧ l.active = true ∧ l.faultAt = none ∧ l.ls ≠ 1 ∧
    (lan 12 up).belfryOn = true ∧ (lan 12 up).identDown 12 = false ∧ 1 ≠ l.rxSeq ∧ 0 = l.rxSeq ∧ l.rxBytes + 64 ≤ elasticBuffer ∧
    elasticBuffer < ((lan 12 { up with rxBytes := elasticBuffer }).lantern 12).rxBytes + 64 ∧
    ((lan 12 bad).lantern 12).rxBad.contains 2 = true ∧ State.reset.belfryOn = false ∧ l.txq = [] ∧
    ((lan 12 { up with ring := [{ x with seq := 6 }, x] }).lantern 12).ring = [{ x with seq := 6 }] ++ x :: [] ∧ 6 ≠ x.seq ∧
    (∀ x ∈ l.ring, x.seq ≠ 0) ∧ (lan 12 up).elastic = [] ∧
    (let m := { away with ring := [x, { x with seq := 8, at_ := 50 }], faultAt := some 100 }
     ¬ (100 ≤ x.at_ + 64 ∨ ∃ y ∈ m.txq, y.seq = some x.seq) ∧ 100 ≤ 50 + 64 ∧ m.ring = [x] ++ { x with seq := 8, at_ := 50 } :: []) ∧
    (0 + 2 ^ 32 - l.rxSeq) % 2 ^ 32 < 65536 ∧ 65536 ≤ (65536 + 2 ^ 32 - l.rxSeq) % 2 ^ 32 ∧ (65536 + 2 ^ 32 - l.rxSeq) % 2 ^ 32 < 2 ^ 31 ∧
    (lan 12 { up with ls := 7 }).identDown 12 = true ∧
    { (default : Elastic) with via := some (12, 3) }.via = some (12, 3) ∧
    { State.reset with newTT := [(12, [])] }.newTT.find? (fun b => b.1 == 12) = some (12, []) ∧ 27 < 28 ∧
    (one .running).state ≠ .saved ∧ ∃ m ∈ (one .running).members, m.die ∈ edgeEnds 0 := by decide +kernel

theorem witness_LanternEvents_request :
    let up : Lantern := { (default : Lantern) with ls := 3 }
    let r : LanternReq := { id := 4, ident := 13, mask := 1, wake := true, arm := none, die := 0, gang := 0, at_ := 0 }
    let s := lan 13 up
    let l := s.lantern 13
    r.ident < 14 ∧ s.identDown 13 = false ∧ (lan 13 { up with ls := 7 }).identDown 13 = true ∧ { r with wake := false }.wake = false ∧
    r.wake = true ∧ r.arm = none ∧ (r.mask &&& ~~~s.timedGroups 13) &&& ~~~l.woken &&& ~~~l.locking ≠ 0 ∧
    { r with arm := some 0 }.arm = some 0 ∧ l.queued < 1 ∧ 0 ≤ l.queued := by decide +kernel

/-- A package that waits for one elastic frame. -/
def waitsFor (w : Awaits) : State := { State.reset with elastic := [{ (default : Elastic) with id := 3, who := w }] }

theorem witness_ElasticEvents :
    let s := { State.reset with poison := [(1, 64)], pres := 0xFF, belfryOn := true }
    let at_ : Frame := { (default : Frame) with addr := 64, op := 6 + 4 * 2 ^ 8 }
    let long : Frame := { (default : Frame) with addr := 64, data := List.replicate 65 0 }
    let fw : FwdEntry := { pkg := 2, nextHop := 2, mask := 1 }
    let via := { lan 0 { (default : Lantern) with ls := 3 } with fwd := [fw] }
    let full := { s with elasticBook := List.replicate 3 (0, channelOf 64, 0) }
    State.reset.belfryOn = false ∧ { at_ with port := some 8 }.port ≠ none ∧ at_.port = none ∧
    (s.domainHome 64).toOption = some (.stack 0 64) ∧ (s.domainHome (2 ^ 36 + 64)).toOption = some (.stack 1 64) ∧
    (∃ u, s.elasticTurn [.stack 0 64] = some u ∧ (u.readHome (.stack 0 64) 8).toOption = some 0 ∧
      (u.serveAtomic (.stack 0 64) at_).toOption.isSome = true) ∧
    (∃ u, s.elasticTurn [.stack 1 64] = some u ∧ (u.readHome (.stack 1 64) 8).toOption = none ∧
      (u.serveAtomic (.stack 1 64) at_).toOption.isSome = false) ∧ full.elasticTurn [.stack 0 64] = none ∧
    (Machine.Home.stack 0 64).inside = true ∧ (Machine.Home.host 0).inside = false ∧ 64 < long.data.length ∧
    (s.domainHome (2 ^ 58 - 1)).toOption = none ∧ via.forwardEntry 2 = some fw ∧ s.forwardEntry 2 = none ∧ 14 < 15 ∧ 15 ≤ 15 := by
  decide +kernel

theorem witness_ElasticEvents_answers :
    let f : Frame := { (default : Frame) with op := 8, data := List.replicate 8 0 }
    let s := { State.reset with belfryOn := true }
    let bad : Frame := { (default : Frame) with faults := [(0, 0x23, 64)] }
    (s.readRows f.dstDie f.asid (s.rowEntry f) f.op (Frame.rowIndices f)).2.length = (Frame.rowIndices f).length ∧
    Frame.rowIndices f = [0] ∧ (s.rowEntry f).valid = false ∧ (default : Frame).faults = [] ∧ bad.faults = [(0, 0x23, 64)] ∧
    (waitsFor (.elem 0 0 1 [2])).elastic.find? (fun e => e.id == 3) = some { (default : Elastic) with id := 3, who := .elem 0 0 1 [2] } ∧
    (waitsFor (.req 0 0 1)).elastic.find? (fun e => e.id == 3) = some { (default : Elastic) with id := 3, who := .req 0 0 1 } := by
  decide +kernel

theorem witness_ElasticEvents_homes :
    let s := { State.reset with poison := [(1, 64)] }
    let op := fun k => { (default : Frame) with op := k + 4 * 2 ^ 8, data := [1] }
    (default : Frame).srcPkg = s.pkg.toNat ∧ { (default : Frame) with srcPkg := 1 }.srcPkg ≠ s.pkg.toNat ∧
    ([4, 16, 64].all fun n => (s.readHome (.stack 0 64) n).toOption == some 0 && (s.readHome (.stack 1 64) n).toOption == none) = true ∧
    ((List.range 8).all fun k => (op k).op % 2 ^ 8 == k && (op k).op / 2 ^ 8 % 2 ^ 8 == 4) = true ∧
    (0 = natOfBytes (({ (default : Frame) with op := 2 + 4 * 2 ^ 8 }).data.take 8)) ∧ 0 ≠ natOfBytes ((op 2).data.take 8) ∧
    ¬ (2 ^ 4 ≤ (15 + 2 ^ 64 - 0) % 2 ^ 64) ∧ 2 ^ 4 ≤ (16 + 2 ^ 64 - 0) % 2 ^ 64 := by decide +kernel

theorem witness_ElasticEvents_requests :
    let q : Req := { (default : Req) with id := 9, kind := .ldh 1 false, pstep := 64 }
    let e : DqEntry := { (default : DqEntry) with id := 3, status := .wait, waiting := [5] }
    let s := here fun x => { x with run := .running, reqs := [q], arch := { x.arch with dq := [e] } }
    (s.ctx 0 0).req? 9 = some q ∧ q.poison = none ∧ q.kind ≠ .tdmaOut ∧ q.ended = false ∧ { q with done := true }.ended = true ∧
    pastStep s.bel q.pstep = false ∧ pastStep 65 q.pstep = true ∧ { q with replayed := true }.replayed = true ∧
    (s.ctx 0 0).arch.dqEntry? 3 = some e ∧ 5 ∈ e.waiting ∧ s.elementsStop 0 0 = false ∧ e.status = .wait ∧
    { e with status := .poisoned 0 default }.status = .poisoned 0 default := by decide +kernel

/-- A state whose mailbox arguments are these, with bytes in stack 0. -/
def mail (as : List Nat) (bs : List (Nat × Byte)) : State :=
  { mapped bs [] with marg := (List.range 8).foldl (fun v i => tset v i (BitVec.ofNat 64 (as.getD i 0))) State.reset.marg, pres := 0xFF }

theorem witness_MailboxCommands :
    let q := mail [0x1000000, 0xFF, 1] (placeBytes 0x1000000 (header 1))
    let y : Queue := { (default : Queue) with ix := 0, launch := false, header := 0x1000000, asid := 1 }
    let full := { mail [0, 0] (placeBytes 0x1000000 (header 0)) with queues := [y] }
    let idle := { mail [0, 0] (placeBytes 0x1000000 (bytesOfNat 16 0 ++ (header 0).drop 16)) with queues := [y] }
    (match q.portRead registerKey 1 (q.arg 0) 64 with | .bytes h => h == header 1 | _ => false) = true ∧ q.arg 0 % 64 = 0 ∧ q.arg 1 = 0xFF ∧
    headerBad (header 1) = false ∧ (q.portForget registerKey).freeIndex (natAt (header 1) 17 1 == 1) = some 0 ∧
    (mail [1] []).arg 0 % 64 ≠ 0 ∧ full.queues.find? (fun y => y.ix == full.arg 0 && b2n y.launch == full.arg 1) = some y ∧
    (match full.portRead registerKey 1 y.header 64 with | .bytes h => hWix h != hRix h | _ => false) = true ∧
    (match idle.portRead registerKey 1 y.header 64 with | .bytes h => hWix h == hRix h | _ => false) = true ∧
    2 ^ 12 ≤ (mail [4096] []).arg 0 ∧ (mail [4095, 0x200000] []).arg 0 < 2 ^ 12 ∧ 0x200000 % 2 ^ 21 = 0 ∧ physOk 0x200000 (2 ^ 21) = true ∧
    (mail [1023, 0x10000] []).arg 0 < 1024 ∧ 0x10000 % 2 ^ 16 = 0 ∧ physOk 0x10000 (2 ^ 16) = true ∧
    (let r := mail [3, 63, 0, 0, 8, 0, 1] []
     r.arg 0 < 4 ∧ r.diePresent (r.arg 0) = true ∧ r.arg 1 < 64 ∧ r.arg 4 = 8 ∧ r.arg 6 < 2) ∧
    (let r := mail [1023, 1, 1023, 0x3FFF] []
     r.arg 0 < 1024 ∧ r.arg 1 < 2 ∧ r.arg 2 < 1024 ∧ r.arg 3 < 2 ^ 14 ∧ r.arg 1 = 1) ∧
    State.reset.openAccess 0 0 0 = false ∧
    (let w : Pending := { (default : Pending) with write := some default }
     { State.reset with pendings := [w], invalFrom := 1 }.openAccess 0 0 1 = true) := by decide +kernel

theorem witness_MailboxCommands_pin :
    let pin := mail [7, 511, 4095, 0x10000, 0x10000, 0x20000, 7] []
    let l : Leaf := { asid := 4095, page := 0x10000, size := 0x10000, tgt := 0, out := 0x20000, rd := true, wr := true }
    let held := { State.reset with dies := tmod State.reset.dies 7 fun d => { d with pins := [(511, l)], unpins := [511] } }
    (pin.arg 2, pin.arg 3, pin.arg 4, pin.arg 5, bit 0 (pin.arg 6), bit 1 (pin.arg 6)) = (l.asid, l.page, l.size, l.out, l.rd, l.wr) ∧
    pin.diePresent (pin.arg 0) = true ∧ pin.arg 0 < 8 ∧ pin.arg 1 < 512 ∧ l.asid < 4096 ∧ 4 ≤ pin.arg 6 ∧ pin.arg 6 < 8 ∧
    l.size = 2 ^ 16 ∧ l.page % 2 ^ 16 = 0 ∧ l.page + 2 ^ 16 ≤ 2 ^ 57 ∧ l.out % 2 ^ 16 = 0 ∧ physOk l.out (2 ^ 16) = true ∧
    pin.pinAt (pin.arg 0) (pin.arg 1) = none ∧ held.pinAt 7 511 = some l ∧ 511 ∈ (held.die 7).unpins ∧ held.pinHeld 7 l = false ∧
    held.pinBusy 7 l = false := by decide +kernel

theorem witness_MailboxCommands_rest :
    let entry := 0xFFFF * 2 ^ 16 + 2 ^ 32 + 2 ^ 40 + 2 ^ 48 + 13 * 2 ^ 52
    let tt := mail [13, 0x1000000, 1] (placeBytes 0x1000000 (bytesOfNat 16 entry))
    let i : Image := { handle := 7, bytes := bytesOfNat 6 0 ++ bytesOfNat 1 1, digest := 5, dupMaps := [] }
    let h := { mail [0x1000000, 0x1000000] (placeBytes 0x1000000 (bytesOfNat 64 5)) with images := [i] }
    tt.arg 0 < 14 ∧ physOk (tt.arg 1) (16 * tt.arg 2) = true ∧
    tt.physRead (tt.arg 1) (16 * tt.arg 2) = some (bytesOfNat 16 entry) ∧ natAt (bytesOfNat 16 entry) 0 16 = entry ∧
    baseEntryBad (tt.arg 0) entry = false ∧ anyShare ([entry].map (lanEntry 0)) = false ∧ h.diePresent ((mail [4] []).arg 0) = true ∧
    physOk (h.arg 1) 64 = true ∧ h.physRead (h.arg 1) 64 = some (bytesOfNat 64 5) ∧ natOfBytes (bytesOfNat 64 5) ≠ 0 ∧
    (State.reset.physRead 0 64).map natOfBytes = some 0 ∧ h.imageAt (h.arg 1) = some i ∧ bit 0 (natAt i.bytes 6 1) = true ∧
    h.imageNamed i = false ∧
    (match ((h.queues.filter fun y => y.launch).map h.queuedDigests).foldl Got.append (.bytes []) with
      | .bytes ds => !digestIn i.digest ds && digestIn i.digest (bytesOfNat 64 5)
      | _ => false) = true ∧ { h with gangs := [one .running] }.imageNamed { i with handle := 0 } = true ∧
    { mail [5, 0, 64] [] with gangs := [one .running] }.gang? ((mail [5] []).arg 0) = some (one .running) ∧ physOk 0 64 = true ∧
    (mail [5] []).gang? 5 = none ∧ physOk ((mail [0, 64] []).arg 0) ((mail [0, 64] []).arg 1) = true ∧ (mail [0, 64] []).arg 1 ≠ 0 ∧
    ((mail [0, 64] []).physRead 0 64).isSome = true ∧ ((mail [] []).physRead 0 32).isSome = true := by decide +kernel

theorem witness_MailboxCommands_report (nonce : List Byte) (hn : nonce.length = 32) :
    physOk 0 ((State.reset.reportBody nonce).length + 4627) = true := by
  have h : (State.reset.reportBody nonce).length ≤ 2 ^ 20 := by
    have h2 : (bytesOfNat 8 State.reset.pkg.toNat ++ bytesOfNat 8 State.reset.diePresWord.toNat ++
        (State.reset.meas.toList.flatMap fun m => bytesOfNat 64 m.toNat)).length = 528 := by decide +kernel
    simp only [State.reportBody, List.length_append, List.length_take] at h2 ⊢
    omega
  have e : bits 35 0 0 = 0 := by decide
  simp only [physOk, e, Nat.zero_add, Bool.and_eq_true, decide_eq_true_eq, Bool.not_eq_true', Bool.and_eq_false_imp,
    decide_eq_false_iff_not]
  exact ⟨⟨by omega, by omega⟩, fun _ => by omega⟩

/-- A program of one group: EXIT in S0. -/
def exitImage : List Byte := imageOfWords .v [0x0001800000000000, 0x6000000000000000]

theorem witness_ProofingAndResetEvents :
    let s := { State.reset with pstat := 1 }
    s.pstat.getLsbD 0 = true ∧ State.reset.pstat.getLsbD 0 = false ∧ s.proofing = none ∧
    { s with proofing := some exitImage }.proofing = some exitImage ∧ (proofImage exitImage).toOption = some [] ∧
    (proofImage []).toOption = none ∧
    (State.reset.images.map fun i => i.bytes.length).sum + (sealedBytes exitImage).length ≤ sealedArea ∧
    { State.reset with offBusy := true }.offBusy = true ∧ State.reset.offBusy = false ∧ (9 : Word).toNat % 8 ≠ 0 ∧
    { State.reset with pres := 0x3FF }.diePresent ((9 : Word).toNat % 8) = true ∧ State.reset.offline.getLsbD 1 = false ∧
    (9 : Word).getLsbD 3 = true ∧ (1 : Word).getLsbD 3 = false ∧ State.reset.gangsNeeding 1 = [] := by decide +kernel

theorem witness_ProofingAndResetEvents_boot :
    let b : BootInputs := { (default : BootInputs) with pkg := 1, domain := [0, 1] }
    { (default : BootInputs) with failStage := some (2, 1, 9) }.failStage = some (2, 1, 9) ∧ (default : BootInputs).failStage = none ∧
    (∀ p ∈ (default : BootInputs).domain, (default : BootInputs).pkg.toNat ≤ p) ∧
    0 ∈ b.domain ∧ 0 < b.pkg.toNat := by decide

/-- The search of a range that finds its first number. -/
theorem find_zero (n : Nat) (p : Nat → Bool) (hn : 0 < n) (hp : p 0 = true) : (List.range n).find? p = some 0 := by
  rw [List.find?_range_eq_some]
  exact ⟨hp, by simpa using hn, by simp⟩

/-- A frame moves to frame 0 of stack 0, if that is in service and unused. -/
theorem newFrame_zero (s : State) (d : Nat) (ms : List Nat) (hd : 0 ≠ d) (hs : s.stackInService 0 = true)
    (hu : unusedFrame 0 (ms.getD 0 0) 0 = true) : s.newFrame d ms = some (0, 0) := by
  have e : List.range 8 = 0 :: [1, 2, 3, 4, 5, 6, 7] := by decide
  unfold State.newFrame
  generalize hn : stackFrames = n
  have hp : 0 < n := by subst hn; simp [stackFrames]
  rw [e, List.findSome?_cons, if_pos ⟨hd, hs⟩, find_zero n _ hp hu]
  rfl

theorem witness_ProofingAndResetEvents_frame : lowestUsed 1 = some 0 :=
  find_zero stackFrames _ (by simp [stackFrames]) (by decide)

theorem witness_ProofingAndResetEvents_newFrame : { State.reset with pres := 0x3FF, offReq := 9 }.newFrame 1 [0, 1] = some (0, 0) :=
  newFrame_zero _ 1 [0, 1] (by decide) (by decide +kernel) (by decide)

theorem witness_ProofingAndResetEvents_noFrame : lowestUsed ([0, 0].getD 1 0) = none := by
  simp [lowestUsed, bit]

/-- Every place of the stacks of a package without lost, remapped or poisoned places can be read. -/
theorem physRead_isSome (s : State) (a n : Nat) (h1 : s.lostFrames = []) (h2 : s.remap = []) (h3 : s.poison = []) :
    (s.physRead a n).isSome = true := by
  unfold State.physRead
  suffices ∀ (l : List (Nat × Nat)) (bs : List Byte), (l.foldl (fun (m : Option (List Byte)) c =>
      match m, s.readHome (physHome c.1) c.2 with
      | some bs, .ok v => some (bs ++ bytesOfNat c.2 v)
      | _, _ => none) (some bs)).isSome = true from this _ _
  intro l
  induction l with
  | nil => intro bs; rfl
  | cons c l ih =>
    intro bs
    have h : s.readHome (physHome c.1) c.2 = .ok (Mem.nat (s.stack (bits 38 36 c.1)) (bits 35 0 c.1) c.2) := by
      simp [State.readHome, physHome, State.placeOf, State.poisoned, h1, h2, h3]
    simp only [List.foldl_cons, h]
    exact ih _

theorem witness_ProofingAndResetEvents_map : ∃ masks, State.reset.frameMasks ((9 : Word).toNat / 2 ^ 16 * 2 ^ 16) = some masks := by
  have h := physRead_isSome State.reset 0 (2 ^ 20) rfl rfl rfl
  have e : physOk 0 (2 ^ 20) = true := by decide
  obtain ⟨bs, hb⟩ := Option.isSome_iff_exists.1 h
  exact ⟨_, show State.reset.frameMasks 0 = _ by rw [State.frameMasks, e, hb]; rfl⟩

theorem witness_HostAccesses :
    let s := { State.reset with qpages := [(1023, 0x10000)] }
    let odd := { State.reset with bar2base := 1, bar2size := 1 }
    s.inBar2 (2 ^ 30) 1 = false ∧ s.inBar2 (2 ^ 30 - 8) 8 = true ∧ s.windowAddr (2 ^ 30 - 8) = some (2 ^ 30 - 8) ∧
    (chunksOf (2 ^ 30 - 8) 8).all (fun c => hostReadable c.1) = true ∧
    odd.inBar2 0 8 = true ∧ odd.windowAddr 0 = none ∧ s.inBar2 (2 ^ 30 - 8) [0, 0, 0, 0, (0 : Byte)].length = true ∧
    s.inBar2 (2 ^ 30) [(0 : Byte)].length = false ∧ (2 ^ 26 - 8) + 8 ≤ 2 ^ 26 ∧ (2 ^ 26 - 8) % 2 ^ 16 + 8 ≤ 2 ^ 16 ∧
    s.qpages.find? (fun p => p.1 == (2 ^ 26 - 8) / 2 ^ 16) = some (1023, 0x10000) ∧
    s.qpages.find? (fun p => p.1 == 0) = none ∧
    barOk 2 4 = false ∧ 2 ≠ resizableBar ∧ 2 ≠ msixControl ∧ 10 ≤ bits 13 8 (13 * 2 ^ 8) ∧ bits 13 8 (13 * 2 ^ 8) ≤ 19 ∧
    State.reset.msixPend = 0 ∧ 7 < 8 ∧ min State.reset.plim.toNat 2800 < 2801 % 2 ^ 16 ∧ 920 ≤ (BitVec.ofInt 16 920).toInt := by
  decide +kernel

/-- A package whose BELFRY runs: the channel of granule 64 has slots in frame 0, that of granule 0 refreshes. -/
theorem witness_HostAccesses_bursts :
    let s := { State.reset with belfryOn := true }
    let busy := { s with hostQ := [.read 64 100 []] }
    busy.hostQ ≠ [] ∧ s.hostQ = [] ∧ 0 < 8 ∧ 64 % 64 + 8 ≤ 64 ∧ [(1 : Byte)] ≠ [] ∧ 127 % 64 + [(1 : Byte)].length ≤ 64 ∧
    (∃ u, s.elasticTurn [physHome 64] = some u ∧ (u.readHome (physHome 64) 8).toOption = some 0) ∧
    (s.elasticTurn [physHome 127]).isSome = true ∧ s.elasticTurn [physHome 0] = none ∧
    reservedPhys (bits 38 36 127) (bits 35 0 127) = false ∧ reservedPhys (bits 38 36 0xF80000000) (bits 35 0 0xF80000000) = true ∧
    (∃ u, busy.elasticTurn [physHome 64] = some u ∧ (u.readHome (physHome 64) (min 100 (64 - 64 % 64))).toOption = some 0) ∧
    0 < 100 := by
  decide +kernel

theorem witness_MemoriesStayCanonical : State.reset.memWf = true ∧ State.reset.bounded = true ∧ (match step State.reset with | .next _ => true | _ => false) = true := by
  decide +kernel

/-! ### Single steps, with results worked out by hand from the rules -/

/-- What a slot records, where it answers a next state. -/
def acts (r : Res) : Option (List (Nat × Nat × Act)) := match r with | .next t => some t.issue.acts | _ => none

/-- The traps that a slot raises: cause and information. -/
def traps (r : Res) : Option (List (Nat × Nat)) := match r with | .next t => some (t.issue.traps.map fun t => (t.code, t.info)) | _ => none

/-- A word placed for the next step is fetched, decoded and run: ADDI s4, s4, 128 records 128 for s4 after 1 step (R115). -/
theorem test_step_runs_placed_word :
    acts (step (State.reset.withFetchWord 128 (0x0001800000000000 + 0x0200410000000080 * 2 ^ 64))) = some [(1, 0, .s 4 128)] ∧
    decodeTableWord 128 (0x0001800000000000 + 0x0200410000000080 * 2 ^ 64) = some (.addi (hd 0) { d := 4, x := 4, fn := 0, imm := 128 }) := by
  decide +kernel

/-- −1 × −1 has the high half 0 signed and 2^64 − 2 unsigned (R114). -/
theorem test_mulh_signs :
    let s := rs [(2, 0xFFFFFFFFFFFFFFFF)]
    acts (exec (.mulh (hd 0) (r3 1 2 2)) s) = some [(3, 0, .s 1 0)] ∧
    acts (exec (.mulhn (hd 0) (r3 1 2 2)) s) = some [(3, 0, .s 1 0xFFFFFFFFFFFFFFFE)] := by decide +kernel

/-- −7 / 2 truncates to −3 with remainder −1 (R116). -/
theorem test_division_truncates :
    let s := rs [(2, 0xFFFFFFFFFFFFFFF9), (3, 2)]
    acts (exec (.divs (hd 0) (r3 1 2 3)) s) = some [(18, 0, .s 1 0xFFFFFFFFFFFFFFFD)] ∧
    acts (exec (.rems (hd 0) (r3 1 2 3)) s) = some [(18, 0, .s 1 0xFFFFFFFFFFFFFFFF)] := by decide +kernel

/-- 1.5 + 2.25 = 3.75 in FP64, and 1 / 3 in FP32 is 0x3EAAAAAB, inexact (R100, R117). -/
theorem test_float :
    let s := rs [(2, 0x3FF8000000000000), (3, 0x4002000000000000), (4, 0x3F800000), (5, 0x40400000)]
    acts (exec (.fadd (hd 0) (r3 1 2 3)) s) = some [(4, 0, .s 1 0x400E000000000000)] ∧
    (acts (exec (.fdiv (hd 0) (r3 1 4 5 8)) s)).map (·.head?) = some (some (16, 0, .s 1 0x3EAAAAAB)) := by decide +kernel

/-- LDS of a sign-extended byte, and a misaligned word (R119). -/
theorem test_lds :
    let s := { here (wide [(2, 3), (3, 2)]) with issue := State.reset.issue }
    let s := { s with dies := tmod s.dies 0 fun d => { d with bank := [(3, 0x80)] } }
    acts (exec (.lds (hd 0) { d := 1, x := 2, fn := 4, imm := 0 }) s) = some [(4, 0, .s 1 0xFFFFFFFFFFFFFF80)] ∧
    traps (exec (.lds (hd 0) { d := 1, x := 3, fn := 2, imm := 0 }) s) = some [(0x30, 2)] := by decide +kernel

/-- A write of the value that an unlisted byte reads as leaves no entry. -/
theorem test_memory_canonical :
    Mem.setByte (Mem.setByte [] 5 7) 5 0 = [] ∧ Mem.setByte (Mem.setByte [] 5 7) 3 1 = [(3, 1), (5, 7)] ∧
    Mem.nat (Mem.setNat [] 8 4 0x01020304) 8 4 = 0x01020304 ∧ Mem.byte (Mem.setNat [] 8 4 0x01020304) 8 = 4 := by decide

/-- The generator: its first draw after a zero SEED starts from 0x9E37_79B9_7F4A_7C15 (R103). -/
theorem test_generator_zero : drawIf .st 0 = drawIf .st 0x9E3779B97F4A7C15 ∧ drawIf .ne 5 = (5, 0) := by decide +kernel

end Sys2Proof.Tests
end

/-! # Steps and issuing groups (01 R14, R35–R37, R53; 11 R300) -/

namespace Sys2Proof.Machine

/-! ### The next thing of a count -/

/-- A step does the thing at the head of the agenda. -/
theorem step_of_agenda_cons {s : State} {m : Micro} {ms : List Micro} (h : s.agenda = m :: ms) :
    step s = runMicro exec m { s with agenda := ms } := by
  rw [step, advance, h]

/-- A step plans a new count where nothing is left of the present one. -/
theorem step_of_agenda_nil {s : State} (h : s.agenda = []) : step s = .next s.planCount := by
  rw [step, advance, h]

/-- A slot word that the sealed image holds and that decodes runs with its instruction's meaning. -/
theorem runSlot_of_decodes {ex : Meaning} {cls : BitVec 4} {off : Nat} {ext : Option (BitVec 20)} {s : State} {w : Word} {i : Instr}
    (hw : (s.code s.issue.die s.issue.ctx)[off]? = some w) (hi : decodeSlot (kindOf s.issue.die) true cls w ext = .ok i) :
    runSlot ex cls off ext s = ex i s := by
  simp only [runSlot, hw, slotInstr, hi]

/-- The fetch of a word that the sealed image does not hold is a fault. -/
theorem runSlot_of_absent {ex : Meaning} {cls : BitVec 4} {off : Nat} {ext : Option (BitVec 20)} {s : State}
    (hw : (s.code s.issue.die s.issue.ctx)[off]? = none) : runSlot ex cls off ext s = .fault .notSealedCode := by
  simp only [runSlot, hw]

/-- The fetch of a word that does not decode is a fault. -/
theorem runSlot_of_undecodable {ex : Meaning} {cls : BitVec 4} {off : Nat} {ext : Option (BitVec 20)} {s : State} {w : Word}
    {e : Reject} (hw : (s.code s.issue.die s.issue.ctx)[off]? = some w)
    (he : decodeSlot (kindOf s.issue.die) true cls w ext = .error e) : runSlot ex cls off ext s = .fault .notSealedCode := by
  simp only [runSlot, hw, slotInstr, he]

/-- Settles O41: the head of the agenda decides which thing runs, and the fetch of a slot word has three outcomes. -/
theorem stepRunsDecoded : Obligations.StepRunsDecoded := by
  intro s ms
  refine ⟨fun i h => step_of_agenda_cons h, fun cls off ext w i h hw hi => ?_, fun cls off ext h hw => ?_,
    fun cls off ext w e h hw he => ?_, fun h => step_of_agenda_cons h, step_of_agenda_nil⟩
  · exact (step_of_agenda_cons h).trans (runSlot_of_decodes hw hi)
  · exact (step_of_agenda_cons h).trans (runSlot_of_absent hw)
  · exact (step_of_agenda_cons h).trans (runSlot_of_undecodable hw he)

/-! ### The issue of a group -/

@[simp] theorem State.perfEvent_dies (s : State) (die ev : Nat) (c : Option Nat) (n : Nat) : (s.perfEvent die ev c n).dies = s.dies := rfl
@[simp] theorem State.perfEvent_hbm (s : State) (die ev : Nat) (c : Option Nat) (n : Nat) : (s.perfEvent die ev c n).hbm = s.hbm := rfl

/-- What the issue of the group in progress makes of its context (R35, R37), before the requests that no longer bind are dropped. -/
def State.issuedCtx (s : State) (x : Ctx) : Ctx :=
  let i := s.issue
  { x with
    arch := { x.arch with
      pc := i.branch.getD (i.pc + BitVec.ofNat 64 (8 * i.size))
      seed := i.seed
      landing := x.arch.landing ++ i.acts.map fun a =>
        { act := a.2.2, rem := a.1, cls := a.2.1, born := (s.ctx i.die i.ctx).steps, gstep := s.gangStep } }
    stepped := true
    idleLeft := i.idle.getD 0
    nonEmpty := if i.idle.isSome then 0 else x.nonEmpty + 1
    committed := false
    atResync := none
    resynced := none
    unjoined := if i.vj then [] else x.unjoined }

/-- A group that issues changes its own context, and beside it only what is soon to be done, what is counted and the mask of the
die's cycle. -/
theorem State.issueGroup_eq (s : State) : ∃ u : State,
    s.issueGroup = u.modCtx s.issue.die s.issue.ctx (fun x => (s.issuedCtx x).prune u.bel) ∧ u.dies = s.dies ∧ u.hbm = s.hbm := by
  unfold State.issueGroup
  exact ⟨_, rfl, by simp [apply_ite State.dies], by simp [apply_ite State.hbm]⟩

/-- A group that holds nothing, waits for nothing, traps nothing, ends no context and is no checkpoint group still to commit
issues. -/
theorem State.endGroup_of_issues {s : State} (hold : s.issue.hold = false) (wait : s.issue.tileWait = false) (traps : s.issue.traps = [])
    (stays : ∀ a ∈ s.issue.acts, ∀ k, a.2.2 ≠ .exit k) (ck : s.issue.ck = false ∨ s.me.committed = true) :
    s.endGroup = s.issueGroup := by
  have noExit : (s.issue.acts.any fun a => a.2.2.isExit) = false := by
    rw [List.any_eq_false]
    intro a ha
    have := stays a ha
    cases h : a.2.2 <;> simp_all [Act.isExit]
  have open_ : (s.issue.ck && !(s.ctx s.issue.die s.issue.ctx).committed) = false := by
    rcases ck with h | h
    · simp [h]
    · simp [show (s.ctx s.issue.die s.issue.ctx).committed = true from h]
  simp [State.endGroup, noExit, hold, wait, traps, open_]

/-- States with the same dies have the same contexts. -/
theorem State.ctx_of_dies {s t : State} (h : s.dies = t.dies) (d c : Nat) : s.ctx d c = t.ctx d c := by
  rw [State.ctx, State.die, h]; rfl

/-- Settles O44: such a group issues, and the issue changes its own context alone. -/
theorem groupIssues : Obligations.GroupIssues := by
  refine ⟨fun n ck vj s => rfl, fun s hd hc hold wait traps stays ck => ?_⟩
  obtain ⟨u, issued, dies, hbm⟩ := s.issueGroup_eq
  have mine : s.endGroup.ctx s.issue.die s.issue.ctx = (s.issuedCtx s.me).prune u.bel := by
    rw [State.endGroup_of_issues hold wait traps stays ck, issued, State.ctx_modCtx _ _ _ _ hd hc, State.ctx_of_dies dies]; rfl
  intro i x y
  have same : y = (s.issuedCtx x).prune u.bel := mine
  rw [State.endGroup_of_issues hold wait traps stays ck, issued]
  refine ⟨by rw [same]; rfl, by rw [same]; rfl, by rw [same]; rfl, by rw [same]; rfl, ?_, by rw [same]; rfl, hbm, fun d => ?_,
    fun d c other => ?_⟩
  · have idle : y.nonEmpty = if i.idle.isSome then 0 else x.nonEmpty + 1 := by rw [same]; rfl
    rw [idle]
    cases i.idle <;> rfl
  · rw [State.modCtx_bank, State.die, dies]; rfl
  · rw [State.ctx_modCtx_ne _ _ _ _ _ _ other, State.ctx_of_dies dies]

end Sys2Proof.Machine

/-! # Tables, sparse maps and masked bytes: what a read gives after a write -/

namespace Sys2Proof.Machine

/-! ### Fixed-size tables -/

theorem tget_tset {α : Type} {n : Nat} (v : Vector α n) (i : Nat) (x d : α) (h : i < n) : tget (tset v i x) i d = x := by
  simp [tget, tset, h]

theorem tget_tset_ne {α : Type} {n : Nat} (v : Vector α n) (i j : Nat) (x d : α) (h : j ≠ i) :
    tget (tset v i x) j d = tget v j d := by
  simp [tget, tset, Vector.getElem?_setIfInBounds_ne (Ne.symm h)]

/-- A change of one entry writes the changed entry. -/
theorem tmod_eq_tset {α : Type} {n : Nat} (v : Vector α n) (i : Nat) (f : α → α) (d : α) (h : i < n) :
    tmod v i f = tset v i (f (tget v i d)) := by
  simp [tget, tset, tmod, h]

theorem tset_tset {α : Type} {n : Nat} (v : Vector α n) (i : Nat) (x y : α) : tset (tset v i x) i y = tset v i y := by
  simp [tset]

/-- Entries written from the first place upward, as far as the list goes. -/
theorem tget_foldl_tset {α : Type} {n : Nat} (v : Vector α n) (i : Nat) (d : α) (es : List α) (h : es.length ≤ n) :
    tget ((es.mapIdx fun i e => (i, e)).foldl (fun v p => tset v p.1 p.2) v) i d =
      if i < es.length then es.getD i d else tget v i d := by
  obtain ⟨rs, rfl⟩ : ∃ rs : List α, es = rs.reverse := ⟨es.reverse, es.reverse_reverse.symm⟩
  induction rs with
  | nil => rfl
  | cons e rs ih =>
    rw [List.reverse_cons] at h ⊢
    generalize rs.reverse = es at h ih
    simp only [List.length_append, List.length_singleton] at h
    rw [List.mapIdx_concat, List.foldl_append, List.foldl_cons, List.foldl_nil]
    rw [List.getD_eq_getElem?_getD] at ih ⊢
    rcases Nat.lt_trichotomy i es.length with lt | rfl | gt
    · rw [tget_tset_ne _ _ _ _ _ (Nat.ne_of_lt lt), ih (by omega), if_pos lt, List.length_append, List.length_singleton,
        if_pos (by omega), List.getElem?_append_left lt]
    · rw [tget_tset _ _ _ _ (by omega), List.length_append, List.length_singleton, if_pos (by omega), List.getElem?_concat_length]
      rfl
    · rw [tget_tset_ne _ _ _ _ _ (Nat.ne_of_gt gt), ih (by omega), if_neg (by omega), List.length_append, List.length_singleton,
        if_neg (by omega)]

/-! ### Sparse maps -/

theorem SMap.setAll_wf {w : Nat} (l : List (Nat × BitVec w)) : ∀ m : SMap w, SMap.wf m = true → SMap.wf (SMap.setAll m l) = true := by
  induction l with
  | nil => intro m h; exact h
  | cons p l ih => intro m h; exact ih _ (SMap.set_wf m p.1 p.2 h)

/-- Several words written at places that differ: each place reads its word, every other place what it held. -/
theorem SMap.get_setAll {w : Nat} (l : List (Nat × BitVec w)) (a : Nat) (hl : (l.map (·.1)).Nodup) :
    ∀ m : SMap w, SMap.wf m = true → SMap.get (SMap.setAll m l) a = ((l.find? fun p => p.1 == a).map (·.2)).getD (SMap.get m a) := by
  induction l with
  | nil => intro m _; rfl
  | cons p l ih =>
    intro m hm
    obtain ⟨new, hl⟩ := List.nodup_cons.mp (by simpa only [List.map_cons] using hl)
    have rest := ih hl _ (SMap.set_wf m p.1 p.2 hm)
    by_cases e : p.1 = a
    · have none : (l.find? fun q => q.1 == a) = none := by
        rw [List.find?_eq_none]
        intro q hq hqa
        exact new (List.mem_map.mpr ⟨q, hq, by rw [e]; exact eq_of_beq hqa⟩)
      rw [none, e, SMap.get_set_same m 0 a _ hm] at rest
      simpa [SMap.setAll, e] using rest
    · rw [SMap.get_set_other m 0 p.1 a _ hm (Ne.symm e)] at rest
      simpa [SMap.setAll, e] using rest

/-- The words at the places that a test keeps. -/
theorem SMap.get_filter {w : Nat} (keep : Nat → Bool) (a : Nat) : ∀ (m : SMap w) (lo : Nat), SMap.wfFrom lo m = true →
    SMap.get (m.filter fun p => keep p.1) a = if keep a then SMap.get m a else 0
  | [], _, _ => by simp [SMap.get]
  | (k, v) :: m, lo, h => by
    simp only [SMap.wfFrom, Bool.and_eq_true, decide_eq_true_eq] at h
    obtain ⟨-, hm⟩ := h
    have rest := SMap.get_filter keep a m (k + 1) hm
    by_cases hk : keep k
    · simp only [List.filter_cons, hk, if_true, SMap.get, rest]
      by_cases e : a = k
      · simp [e, hk]
      · by_cases lt : a < k <;> simp [e, lt]
    · simp only [List.filter_cons, hk, Bool.false_eq_true, if_false, rest]
      by_cases e : a = k
      · simp [e, hk]
      · by_cases lt : a < k
        · simp [SMap.get, e, lt, SMap.get_of_lt m (k + 1) a hm (by omega)]
        · simp [SMap.get, e, lt]

/-- A lower bound of the keys may be lowered. -/
theorem SMap.wfFrom_mono {w lo lo' : Nat} {m : SMap w} (h : SMap.wfFrom lo m = true) (hl : lo' ≤ lo) : SMap.wfFrom lo' m = true :=
  SMap.set_wfFrom.mono 0 0 m h hl

theorem SMap.filter_wfFrom {w : Nat} (keep : Nat × BitVec w → Bool) : ∀ (m : SMap w) (lo : Nat), SMap.wfFrom lo m = true →
    SMap.wfFrom lo (m.filter keep) = true
  | [], _, _ => rfl
  | (k, v) :: m, lo, h => by
    simp only [SMap.wfFrom, Bool.and_eq_true, decide_eq_true_eq] at h
    obtain ⟨⟨hk, hv⟩, hm⟩ := h
    have rest := SMap.filter_wfFrom keep m (k + 1) hm
    rw [List.filter_cons]
    split
    · simp only [SMap.wfFrom, Bool.and_eq_true, decide_eq_true_eq]
      exact ⟨⟨hk, hv⟩, rest⟩
    · exact SMap.wfFrom_mono rest (by omega)

theorem SMap.filter_wf {w : Nat} (keep : Nat × BitVec w → Bool) (m : SMap w) (h : SMap.wf m = true) :
    SMap.wf (m.filter keep) = true := SMap.filter_wfFrom keep m 0 h

/-- In a list whose keys differ the search for a key finds its entry. -/
theorem find?_key_of_mem {α : Type} {l : List (Nat × α)} {a : Nat} {b : α} (hl : (l.map (·.1)).Nodup) (h : (a, b) ∈ l) :
    (l.find? fun p => p.1 == a) = some (a, b) := by
  induction l with
  | nil => cases h
  | cons p l ih =>
    obtain ⟨new, hl⟩ := List.nodup_cons.mp (by simpa only [List.map_cons] using hl)
    rcases List.mem_cons.mp h with rfl | h
    · simp
    · have ne : p.1 ≠ a := fun e => new (List.mem_map.mpr ⟨(a, b), h, e.symm⟩)
      simpa [ne] using ih hl h

theorem find?_key_of_not_mem {α : Type} {l : List (Nat × α)} {a : Nat} (h : a ∉ l.map (·.1)) :
    (l.find? fun p => p.1 == a) = none := by
  rw [List.find?_eq_none]
  intro p hp e
  exact h (List.mem_map.mpr ⟨p, hp, eq_of_beq e⟩)

/-- The word at a place that several words are written at. -/
theorem SMap.get_setAll_of_mem {w : Nat} {l : List (Nat × BitVec w)} {m : SMap w} {a : Nat} {b : BitVec w} (hm : SMap.wf m = true)
    (hl : (l.map (·.1)).Nodup) (h : (a, b) ∈ l) : SMap.get (SMap.setAll m l) a = b := by
  rw [SMap.get_setAll l a hl m hm, find?_key_of_mem hl h]; rfl

/-- The word at a place that none of several words is written at. -/
theorem SMap.get_setAll_of_not_mem {w : Nat} {l : List (Nat × BitVec w)} {m : SMap w} {a : Nat} (hm : SMap.wf m = true)
    (hl : (l.map (·.1)).Nodup) (h : a ∉ l.map (·.1)) : SMap.get (SMap.setAll m l) a = SMap.get m a := by
  rw [SMap.get_setAll l a hl m hm, find?_key_of_not_mem h]; rfl

/-- Places that differ still differ when all are shifted alike. -/
theorem nodup_shift {l : List Nat} (n : Nat) (h : l.Nodup) : (l.map fun k => n + k).Nodup :=
  List.pairwise_map.mpr (List.Pairwise.imp (fun ne e => ne (Nat.add_left_cancel e)) h)

/-! ### Masked bytes of a vector register (R22) -/

theorem byteMask_lt (p : PReg) : ∀ n, byteMask n p < 2 ^ (8 * n)
  | 0 => by simp [byteMask]
  | n + 1 => by
    have ih := byteMask_lt p n
    have step : 2 ^ (8 * (n + 1)) = 256 * 2 ^ (8 * n) := by rw [Nat.mul_add, Nat.pow_add]; omega
    rw [byteMask, step]
    split <;> omega

/-- Bit j of the byte mask is the predicate's bit of byte j / 8. -/
theorem testBit_byteMask (p : PReg) (j : Nat) : ∀ n, (byteMask n p).testBit j = (decide (j < 8 * n) && p.getLsbD (j / 8))
  | 0 => by simp [byteMask]
  | n + 1 => by
    have ih := testBit_byteMask p j n
    have cell : byteMask (n + 1) p = 2 ^ (8 * n) * (if p.getLsbD n then 2 ^ 8 - 1 else 0) + byteMask n p := by
      rw [byteMask]; split <;> omega
    rw [cell, Nat.testBit_two_pow_mul_add _ (byteMask_lt p n)]
    by_cases low : j < 8 * n
    · simp [low, ih, show j < 8 * (n + 1) by omega]
    · by_cases here : j < 8 * (n + 1)
      · have : j / 8 = n := by omega
        cases hp : p.getLsbD n
        · simp [low, this, hp]
        · simp only [low, if_false, if_true, Nat.testBit_two_pow_sub_one, this, hp, here, decide_true, Bool.and_true, decide_eq_true_eq]
          omega
      · rw [if_neg low]
        split
        · simp only [Nat.testBit_two_pow_sub_one, here, decide_false, Bool.false_and, decide_eq_false_iff_not]
          omega
        · simp [here]

/-- A masked write replaces the bytes that the mask selects and keeps the others. -/
theorem blendV_byte (old new : VReg) (m : PReg) (i : Nat) (h : i < 128) :
    (blendV old new m).extractLsb' (8 * i) 8 = (if m.getLsbD i then new else old).extractLsb' (8 * i) 8 := by
  apply BitVec.eq_of_getLsbD_eq
  intro j hj
  have place : (8 * i + j) / 8 = i := by omega
  have inside : 8 * i + j < 1024 := by omega
  have mask : (BitVec.ofNat 1024 (byteMask 128 m)).getLsbD (8 * i + j) = m.getLsbD i := by
    rw [BitVec.getLsbD_ofNat, testBit_byteMask, place]
    simp [inside]
  simp only [BitVec.getLsbD_extractLsb', blendV, BitVec.getLsbD_or, BitVec.getLsbD_and, BitVec.getLsbD_not, mask, inside,
    decide_true, Bool.true_and]
  cases m.getLsbD i <;> simp

end Sys2Proof.Machine

/-! # What a landing result changes in the memories of its die, and what a trap leaves (01 R38, 12 R312) -/

namespace Sys2Proof.Machine

/-! ### What a die holds beside its contexts -/

/-- A die without its contexts: its memories, array groups, frames and tables. -/
def State.stores (s : State) (k : Nat) : Die := { s.die k with ctx := default }

theorem State.stores_of_dies {s t : State} (h : s.dies = t.dies) (k : Nat) : s.stores k = t.stores k := by
  rw [State.stores, State.die, h]; rfl

@[simp] theorem State.modCtx_stores (s : State) (d c k : Nat) (f : Ctx → Ctx) : (s.modCtx d c f).stores k = s.stores k := by
  by_cases h : k = d
  · subst h
    by_cases h8 : k < 8
    · rw [State.stores, State.die_modCtx _ _ _ _ h8]; rfl
    · simp [State.stores, State.modCtx, State.modDie, State.die, tget, tmod, h8]
  · rw [State.stores, State.modCtx, State.die_modDie_ne _ _ _ _ h]; rfl

@[simp] theorem State.modArch_stores (s : State) (d c k : Nat) (f : Arch → Arch) : (s.modArch d c f).stores k = s.stores k :=
  s.modCtx_stores d c k _

@[simp] theorem State.modGang_stores (s : State) (g k : Nat) (f : Gang → Gang) : (s.modGang g f).stores k = s.stores k := rfl
@[simp] theorem State.soon_stores (s : State) (m : Micro) (k : Nat) : (s.soon m).stores k = s.stores k := rfl
@[simp] theorem State.perfEvent_stores (s : State) (die ev : Nat) (c : Option Nat) (n k : Nat) :
    (s.perfEvent die ev c n).stores k = s.stores k := rfl

/-! ### A trap changes no memory -/

theorem State.planStops_stores (bound d c k : Nat) (ms : List Member) : ∀ s : State,
    (s.planStops bound d c ms).1.stores k = s.stores k := by
  induction ms with
  | nil => intro s; rfl
  | cons m ms ih => intro s; exact ih _

theorem State.countRollback_stores (s : State) (g : Gang) (k : Nat) : (s.countRollback g).stores k = s.stores k := by
  have : ∀ (ms : List Member) (s : State),
      (ms.foldl (fun s m => s.perfEvent m.die 0x07 (some m.ctx) 1) s).stores k = s.stores k := by
    intro ms
    induction ms with
    | nil => intro s; rfl
    | cons m ms ih => intro s; exact ih _
  exact this _ s

theorem State.abortByTrap_stores (s : State) (g : Gang) (d c k : Nat) (t : Trap) : (s.abortByTrap g d c t).stores k = s.stores k := by
  simp [State.abortByTrap]

theorem State.joinAbort_stores (s : State) (g : Gang) (d c k : Nat) (t : Trap) : (s.joinAbort g d c t).stores k = s.stores k := by
  unfold State.joinAbort
  dsimp only
  split <;> simp

theorem State.startRollback_stores (s : State) (g : Gang) (d c k : Nat) (t : Trap) :
    (s.startRollback g d c t).stores k = s.stores k := by
  unfold State.startRollback
  split
  · exact s.abortByTrap_stores g d c k t
  · simp [State.countRollback_stores, State.planStops_stores]

theorem State.joinRollback_stores (s : State) (g : Gang) (d c k : Nat) (t : Trap) : (s.joinRollback g d c t).stores k = s.stores k := by
  unfold State.joinRollback
  split
  · exact s.abortByTrap_stores g d c k t
  · split
    · dsimp only
      split <;> simp
    · rfl

theorem State.countTrap_stores (s : State) (d c k : Nat) (t : Trap) : (s.countTrap d c t).stores k = s.stores k := by
  unfold State.countTrap
  split <;> rfl

/-- A trap changes nothing of a die but its contexts (R38). -/
theorem State.takeTrap_stores (s : State) (d c k : Nat) (ts : List Trap) : (s.takeTrap d c ts).stores k = s.stores k := by
  unfold State.takeTrap
  split
  · rfl
  · rfl
  · next t g _ _ =>
    rw [← s.countTrap_stores d c k t]
    dsimp only
    split
    · exact State.abortByTrap_stores ..
    split
    · exact State.joinAbort_stores ..
    split
    · exact State.abortByTrap_stores ..
    split
    · exact State.joinRollback_stores ..
    split
    · exact State.abortByTrap_stores ..
    · exact State.startRollback_stores ..

/-- Before-images change nothing of a die but its contexts (R312). -/
theorem State.noteLines_stores (s : State) (d c cls g store k : Nat) (lines : List Nat) :
    (s.noteLines d c cls g store lines).stores k = s.stores k := by
  unfold State.noteLines State.storeFull
  split
  · rfl
  · dsimp only
    split
    · rw [State.takeTrap_stores, State.modCtx_stores]
    · rw [State.modCtx_stores]

/-! ### The memories of a die -/

theorem State.ownBankWrite_bank (s : State) (d c cls g : Nat) (plate : Bool) (bs : List (Nat × Byte)) (hd : d < 8) :
    ((s.ownBankWrite d c cls g plate bs).die d).bank = SMap.setAll (w := 8) (s.die d).bank bs := by
  rw [State.ownBankWrite, State.modCtx_bank, State.die_modDie _ _ _ hd]
  exact congrArg (fun m => Mem.write m bs) (congrArg Die.bank (s.noteLines_stores d c cls g 0 d _) :)

theorem State.wbufWrite_wbuf (s : State) (d c cls g : Nat) (bs : List (Nat × Byte)) (hd : d < 8) :
    ((s.wbufWrite d c cls g bs).die d).wbuf = SMap.setAll (w := 8) (s.die d).wbuf bs := by
  rw [State.wbufWrite, State.die_modDie _ _ _ hd]
  exact congrArg (fun m => Mem.write m bs) (congrArg Die.wbuf (s.noteLines_stores d c cls g 1 d _) :)

theorem State.tagWrite_tags (s : State) (d c cls g : Nat) (ws : List (Nat × BitVec 128)) (hd : d < 8) :
    ((s.tagWrite d c cls g ws).die d).tags = SMap.setAll (s.die d).tags ws := by
  rw [State.tagWrite, State.die_modDie _ _ _ hd]
  exact congrArg (fun m => SMap.setAll m ws) (congrArg Die.tags (s.noteLines_stores d c cls g 2 d _) :)

/-- Tags cleared in a range of slots lose their bit 95 there, and no other slot changes (R195). -/
theorem SMap.get_clearTags (m : SMap 128) (n k a : Nat) (h : SMap.wf m = true) :
    SMap.get (SMap.setAll m ((List.range k).map fun i => (n + i, SMap.get m (n + i) &&& ~~~((1 : BitVec 128) <<< 95)))) a =
      if n ≤ a ∧ a < n + k then SMap.get m a &&& ~~~((1 : BitVec 128) <<< 95) else SMap.get m a := by
  have keys : (((List.range k).map fun i => (n + i, SMap.get m (n + i) &&& ~~~((1 : BitVec 128) <<< 95))).map (·.1)).Nodup := by
    rw [List.map_map]
    exact nodup_shift n List.nodup_range
  split
  · next inside =>
    refine SMap.get_setAll_of_mem h keys (List.mem_map.mpr ⟨a - n, List.mem_range.mpr (by omega), ?_⟩)
    rw [show n + (a - n) = a by omega]
  · next outside =>
    refine SMap.get_setAll_of_not_mem h keys fun mem => outside ?_
    simp only [List.map_map, List.mem_map, List.mem_range, Function.comp] at mem
    obtain ⟨i, hi, rfl⟩ := mem
    omega

end Sys2Proof.Machine

/-! # What a landing result changes in an array group (01 R31, R32; 08 R202, R206, R208, R214) -/

namespace Sys2Proof.Machine

/-! ### One group of a die -/

theorem State.group_modGroup (s : State) (d k : Nat) (f : TileGroup → TileGroup) (hd : d < 8) (hk : k < 4) :
    tget ((s.modGroup d k f).die d).groups k default = f (tget (s.die d).groups k default) := by
  rw [State.modGroup, State.die_modDie _ _ _ hd]
  exact tget_tmod _ _ _ _ hk

theorem State.group_modGroup_ne (s : State) (d k j : Nat) (f : TileGroup → TileGroup) (hd : d < 8) (h : j ≠ k) :
    tget ((s.modGroup d k f).die d).groups j default = tget (s.die d).groups j default := by
  rw [State.modGroup, State.die_modDie _ _ _ hd]
  exact tget_tmod_ne _ _ _ _ _ h

/-! ### The bits of a tile -/

@[simp] theorem TileGroup.modBits_tiles (x : TileGroup) (t : Nat) (f : TileBits → TileBits) : (x.modBits t f).tiles = x.tiles := rfl
@[simp] theorem TileGroup.zeroTile_tileBits (x : TileGroup) (t j : Nat) : (x.zeroTile t).tileBits j = x.tileBits j := rfl

theorem TileGroup.tileBits_modBits (x : TileGroup) (t : Nat) (f : TileBits → TileBits) (h : t < 8) :
    (x.modBits t f).tileBits t = f (x.tileBits t) := tget_tmod _ _ _ _ h

theorem TileGroup.tileBits_modBits_ne (x : TileGroup) (t j : Nat) (f : TileBits → TileBits) (h : j ≠ t) :
    (x.modBits t f).tileBits j = x.tileBits j := tget_tmod_ne _ _ _ _ _ h

theorem partner_ne (t : Nat) : partner t ≠ t := by
  unfold partner; split <;> omega

theorem partner_lt {t : Nat} (h : t < 8) : partner t < 8 := by
  unfold partner; split <;> omega

theorem TileGroup.clearForm_of_clear {x : TileGroup} {t : Nat} (h : (x.tileBits t).form = false) : x.clearForm t = x := by
  simp [TileGroup.clearForm, h]

/-- FORM of the tile is clear afterwards, and nothing else of it has changed. -/
theorem TileGroup.clearForm_tileBits (x : TileGroup) (t : Nat) (ht : t < 8) :
    (x.clearForm t).tileBits t = { x.tileBits t with form := false } := by
  unfold TileGroup.clearForm
  split
  · rw [TileGroup.tileBits_modBits_ne _ _ _ _ (partner_ne t).symm, TileGroup.tileBits_modBits _ _ _ ht]
  · next h =>
    rw [Bool.not_eq_true] at h
    rw [← h]

/-- FORM of the other tile of a pair is cleared with it. -/
theorem TileGroup.clearForm_partner {x : TileGroup} {t : Nat} (ht : t < 8) (h : (x.tileBits t).form = true) :
    ((x.clearForm t).tileBits (partner t)).form = false := by
  rw [TileGroup.clearForm, if_pos h, TileGroup.tileBits_modBits _ _ _ (partner_lt ht)]

@[simp] theorem TileGroup.clearForm_tiles (x : TileGroup) (t : Nat) : (x.clearForm t).tiles = x.tiles := by
  unfold TileGroup.clearForm
  split <;> rfl

/-- An operation that finds no FORM to clear sets the bits of its tile and of no other. -/
theorem TileGroup.setBusy_eq {x : TileGroup} {t : Nat} {form : Option Bool} (n : Nat) (pair mma : Bool)
    (h : form = some false → (x.tileBits t).form = false) :
    x.setBusy t n pair mma form = x.modBits t fun b =>
      { b with busy := true, cnt := n, pair := pair, mma := mma, form := form.getD b.form, inuse := b.inuse || form.isSome } := by
  unfold TileGroup.setBusy
  split
  · next e => rw [TileGroup.clearForm_of_clear (h e)]
  · rfl

/-- An operation that clears FORM clears it in both tiles of the pair. -/
theorem TileGroup.setBusy_clears {x : TileGroup} {t : Nat} (n : Nat) (pair mma : Bool) (ht : t < 8) (h : (x.tileBits t).form = true) :
    let y := x.setBusy t n pair mma (some false)
    (y.tileBits t).form = false ∧ (y.tileBits (partner t)).form = false ∧ (y.tileBits t).busy = true ∧ (y.tileBits t).cnt = n := by
  intro y
  have mine : y.tileBits t = _ := TileGroup.tileBits_modBits (x.clearForm t) t _ ht
  have other : y.tileBits (partner t) = (x.clearForm t).tileBits (partner t) :=
    TileGroup.tileBits_modBits_ne (x.clearForm t) t _ _ (partner_ne t)
  rw [mine, other]
  exact ⟨rfl, TileGroup.clearForm_partner ht h, rfl, rfl⟩

/-! ### The words of a tile -/

/-- The words of a zeroed tile read zero, those of every other tile as before. -/
theorem TileGroup.get_zeroTile (x : TileGroup) (t a : Nat) (h : SMap.wf x.tiles = true) :
    SMap.get (x.zeroTile t).tiles a = if a / 16384 % 8 == t then 0 else SMap.get x.tiles a := by
  refine (SMap.get_filter (fun a => a / 16384 % 8 != t) a x.tiles 0 h).trans ?_
  by_cases e : a / 16384 % 8 = t <;> simp [e]

theorem TileGroup.zeroTile_wf (x : TileGroup) (t : Nat) (h : SMap.wf x.tiles = true) : SMap.wf (x.zeroTile t).tiles = true :=
  SMap.filter_wf _ _ h

/-- A tile written whole holds its words and zeroes, is in use and has no FORM (R202). -/
theorem TileGroup.tileSet_results {x : TileGroup} {t : Nat} {cells : List (Nat × BitVec 32)} (ht : t < 8) (wf : SMap.wf x.tiles = true)
    (nodup : (cells.map (·.1)).Nodup) :
    let z := (x.zeroTile t).clearForm t
    let y := ({ z with tiles := SMap.setAll z.tiles cells } : TileGroup).modBits t fun b => { b with inuse := true }
    (∀ a, SMap.get y.tiles a =
      ((cells.find? fun p => p.1 == a).map (·.2)).getD (if a / 16384 % 8 == t then 0 else SMap.get x.tiles a)) ∧
    (y.tileBits t).inuse = true ∧ (y.tileBits t).form = false := by
  intro z y
  have bits : y.tileBits t = { z.tileBits t with inuse := true } := TileGroup.tileBits_modBits _ _ _ ht
  refine ⟨fun a => ?_, by rw [bits], by rw [bits]; exact congrArg TileBits.form ((x.zeroTile t).clearForm_tileBits t ht)⟩
  change SMap.get (SMap.setAll z.tiles cells) a = _
  rw [show z.tiles = (x.zeroTile t).tiles from TileGroup.clearForm_tiles _ _,
    SMap.get_setAll _ _ nodup _ (x.zeroTile_wf t wf), x.get_zeroTile t a wf]

/-- A freed tile reads zero, is not in use and has no FORM (R202). -/
theorem TileGroup.tileFree_results {x : TileGroup} {t : Nat} (ht : t < 8) (wf : SMap.wf x.tiles = true) :
    let y := (x.zeroTile t).modBits t fun b => { b with form := false, inuse := false }
    (∀ a, SMap.get y.tiles a = if a / 16384 % 8 == t then 0 else SMap.get x.tiles a) ∧
    y.tileBits t = { x.tileBits t with form := false, inuse := false } :=
  ⟨fun a => x.get_zeroTile t a wf, TileGroup.tileBits_modBits _ _ _ ht⟩

/-! ### The stores of a latch

A latch store holds, for each array `a` and latch `w`, a plane of `n` entries from `(a * 4 + w) * n` on. -/

theorem plane_inj {n x y p q : Nat} (hp : p < n) (hq : q < n) (h : x * n + p = y * n + q) : x = y ∧ p = q := by
  have hx : (x * n + p) / n = x := by rw [Nat.mul_comm, Nat.mul_add_div (by omega), Nat.div_eq_of_lt hp]; rfl
  have hy : (y * n + q) / n = y := by rw [Nat.mul_comm, Nat.mul_add_div (by omega), Nat.div_eq_of_lt hq]; rfl
  have e : x = y := by rw [← hx, h, hy]
  subst e
  exact ⟨rfl, Nat.add_left_cancel h⟩

/-- The planes of latch `w` of the first arrays take their entries. -/
def SMap.setPlanes {v : Nat} (w n : Nat) (entries : Nat → List (Nat × BitVec v)) (count : Nat) (m : SMap v) : SMap v :=
  (List.range count).foldl (fun m a => SMap.setAll m ((entries a).map fun p => ((a * 4 + w) * n + p.1, p.2))) m

theorem SMap.setPlanes_wf {v : Nat} (w n : Nat) (entries : Nat → List (Nat × BitVec v)) (count : Nat) (m : SMap v)
    (h : SMap.wf m = true) : SMap.wf (SMap.setPlanes w n entries count m) = true :=
  List.foldlRecOn (motive := fun m => SMap.wf m = true) _ _ h fun _ hm _ _ => SMap.setAll_wf _ _ hm

/-- An entry of a plane of one latch after the planes of latch `w` have been written. -/
theorem SMap.get_setPlanes {v : Nat} {w n : Nat} {entries : Nat → List (Nat × BitVec v)} {m : SMap v} (hm : SMap.wf m = true) (hw : w < 4)
    (fits : ∀ a, ((entries a).map (·.1)).Nodup ∧ ∀ p ∈ entries a, p.1 < n) {a u b : Nat} (hu : u < 4) (hb : b < n) :
    ∀ count, SMap.get (SMap.setPlanes w n entries count m) ((a * 4 + u) * n + b) =
      if u = w ∧ a < count then (((entries a).find? fun p => p.1 == b).map (·.2)).getD (SMap.get m ((a * 4 + u) * n + b))
      else SMap.get m ((a * 4 + u) * n + b)
  | 0 => by simp [SMap.setPlanes]
  | count + 1 => by
    have ih := SMap.get_setPlanes hm hw fits (a := a) hu hb count
    obtain ⟨nodup, small⟩ := fits count
    have keys : (((entries count).map fun p => ((count * 4 + w) * n + p.1, p.2)).map (·.1)).Nodup := by
      have : ((entries count).map fun p => ((count * 4 + w) * n + p.1, p.2)).map (·.1) =
          ((entries count).map (·.1)).map fun k => (count * 4 + w) * n + k := by simp [Function.comp_def]
      rw [this]
      exact nodup_shift _ nodup
    have last : SMap.setPlanes w n entries (count + 1) m =
        SMap.setAll (SMap.setPlanes w n entries count m) ((entries count).map fun p => ((count * 4 + w) * n + p.1, p.2)) := by
      simp [SMap.setPlanes, List.range_succ]
    rw [last, SMap.get_setAll _ _ keys _ (SMap.setPlanes_wf w n entries count m hm), ih, List.find?_map]
    by_cases here : u = w ∧ a = count
    · obtain ⟨rfl, rfl⟩ := here
      have same : ((fun p : Nat × BitVec v => p.1 == (a * 4 + u) * n + b) ∘ fun p : Nat × BitVec v => ((a * 4 + u) * n + p.1, p.2)) =
          fun p => p.1 == b := by
        funext p
        rw [Bool.eq_iff_iff]
        simp only [Function.comp_apply, beq_iff_eq, Nat.add_left_cancel_iff]
      rw [same, if_neg (by omega), if_pos ⟨rfl, Nat.lt_succ_self a⟩, Option.map_map]; rfl
    · have none : (entries count).find? ((fun p : Nat × BitVec v => p.1 == (a * 4 + u) * n + b) ∘
          fun p : Nat × BitVec v => ((count * 4 + w) * n + p.1, p.2)) = none := by
        rw [List.find?_eq_none]
        intro p hp e
        have := (plane_inj (small p hp) hb (eq_of_beq e)).1
        exact here (by omega)
      rw [none]
      have : (u = w ∧ a < count + 1) ↔ (u = w ∧ a < count) := by omega
      simp only [this]; rfl

/-- The entries of a list, numbered from zero. -/
def numbered {α : Type} (l : List α) : List (Nat × α) := l.mapIdx fun i v => (i, v)

theorem numbered_keys {α : Type} (l : List α) : (numbered l).map (·.1) = List.range l.length := by
  apply List.ext_getElem <;> simp [numbered]

theorem map_numbered {α β : Type} (l : List α) (f : Nat × α → β) : (numbered l).map f = l.mapIdx fun i v => f (i, v) := by
  apply List.ext_getElem <;> simp [numbered]

theorem numbered_fits {α : Type} {l : List α} {n : Nat} (h : l.length ≤ n) :
    ((numbered l).map (·.1)).Nodup ∧ ∀ p ∈ numbered l, p.1 < n := by
  refine ⟨by rw [numbered_keys]; exact List.nodup_range, fun p hp => ?_⟩
  have := List.mem_map_of_mem (f := (·.1)) hp
  rw [numbered_keys, List.mem_range] at this
  omega

/-- The search for a number among the numbered entries finds the entry that stands there. -/
theorem find?_numbered {α : Type} (l : List α) (i : Nat) (d : α) :
    (((numbered l).find? fun p => p.1 == i).map (·.2)).getD d = l.getD i d := by
  by_cases h : i < l.length
  · have mem : (i, l[i]) ∈ numbered l := List.mem_mapIdx.mpr ⟨i, h, rfl⟩
    rw [find?_key_of_mem (numbered_fits (Nat.le_refl _)).1 mem]
    simp [h]
  · rw [find?_key_of_not_mem (by rw [numbered_keys, List.mem_range]; exact h)]
    simp [h]

/-! ### A latch -/

/-- A loaded latch is a zeroed one whose planes take their entries. -/
theorem TileGroup.loadLatch_eq (x : TileGroup) (w : Nat) (f : Fmt) (sp : Bool) (plate llen : Nat) (bs : List (List (Nat × Byte)))
    (sc : List (List (BitVec 16))) (st : List (List (BitVec 32))) :
    x.loadLatch w f sp plate llen bs sc st = { x with
      latches := SMap.setPlanes w 32768 (fun a => bs.getD a []) 8 (x.zeroLatch w).latches
      scales := SMap.setPlanes w 2048 (fun a => numbered (sc.getD a [])) 8 (x.zeroLatch w).scales
      lists := SMap.setPlanes w 512 (fun a => numbered (st.getD a [])) 8 (x.zeroLatch w).lists
      annex := tmod x.annex w fun _ => { lvalid := true, fmtl := f.code, lsp := sp, lplate := BitVec.ofNat 11 plate,
                                         llen := BitVec.ofNat 10 llen, linuse := true } } := by
  simp only [SMap.setPlanes, map_numbered]
  rfl

/-- The stores of a zeroed latch read zero, those of every other latch as before. -/
theorem TileGroup.get_zeroLatch (x : TileGroup) (w a u b : Nat) (hu : u < 4) :
    (SMap.wf x.latches = true → b < 32768 → SMap.get (x.zeroLatch w).latches ((a * 4 + u) * 32768 + b) =
      if u = w then 0 else SMap.get x.latches ((a * 4 + u) * 32768 + b)) ∧
    (SMap.wf x.scales = true → b < 2048 → SMap.get (x.zeroLatch w).scales ((a * 4 + u) * 2048 + b) =
      if u = w then 0 else SMap.get x.scales ((a * 4 + u) * 2048 + b)) ∧
    (SMap.wf x.lists = true → b < 512 → SMap.get (x.zeroLatch w).lists ((a * 4 + u) * 512 + b) =
      if u = w then 0 else SMap.get x.lists ((a * 4 + u) * 512 + b)) := by
  refine ⟨fun h hb => (SMap.get_filter (fun k => k / 32768 % 4 != w) _ _ 0 h).trans ?_,
    fun h hb => (SMap.get_filter (fun k => k / 2048 % 4 != w) _ _ 0 h).trans ?_,
    fun h hb => (SMap.get_filter (fun k => k / 512 % 4 != w) _ _ 0 h).trans ?_⟩
  · rw [show ((a * 4 + u) * 32768 + b) / 32768 % 4 = u by omega]
    by_cases e : u = w <;> simp [e]
  · rw [show ((a * 4 + u) * 2048 + b) / 2048 % 4 = u by omega]
    by_cases e : u = w <;> simp [e]
  · rw [show ((a * 4 + u) * 512 + b) / 512 % 4 = u by omega]
    by_cases e : u = w <;> simp [e]

/-- Over zeroed planes a store reads its new entries, zero where there is none. -/
theorem SMap.get_setPlanes_zeroed {v w n a u b : Nat} {entries : Nat → List (Nat × BitVec v)} {m z : SMap v} (hz : SMap.wf z = true)
    (zero : SMap.get z ((a * 4 + u) * n + b) = if u = w then 0 else SMap.get m ((a * 4 + u) * n + b)) (hw : w < 4)
    (fits : ∀ a, ((entries a).map (·.1)).Nodup ∧ ∀ p ∈ entries a, p.1 < n) (hu : u < 4) (hb : b < n) (ha : a < 8) :
    SMap.get (SMap.setPlanes w n entries 8 z) ((a * 4 + u) * n + b) =
      if u = w then (((entries a).find? fun p => p.1 == b).map (·.2)).getD 0 else SMap.get m ((a * 4 + u) * n + b) := by
  rw [SMap.get_setPlanes hz hw fits hu hb, zero]
  by_cases e : u = w <;> simp [e, ha]

/-- What every list of a list of lists satisfies, each of its lists by number does, the empty one past its end included. -/
theorem getD_of_forall {α : Type} {P : List α → Prop} {ls : List (List α)} (h : ∀ l ∈ ls, P l) (nil : P []) (a : Nat) :
    P (ls.getD a []) := by
  rw [List.getD_eq_getElem?_getD]
  cases e : ls[a]? with
  | none => exact nil
  | some l => exact h l (List.mem_of_getElem? e)

/-- The stores of a group after a latch has been loaded: the image's entries in the latch, zero elsewhere in it, every other latch as
before (R206). -/
theorem TileGroup.get_loadLatch {x : TileGroup} {w : Nat} {f : Fmt} {sp : Bool} {pl ll : Nat} {bs : List (List (Nat × Byte))}
    {sc : List (List (BitVec 16))} {st : List (List (BitVec 32))} (hw : w < 4) (latches : SMap.wf x.latches = true)
    (scales : SMap.wf x.scales = true) (lists : SMap.wf x.lists = true) (hbs : ∀ l ∈ bs, (l.map (·.1)).Nodup ∧ ∀ p ∈ l, p.1 < 32768)
    (hsc : ∀ l ∈ sc, l.length ≤ 2048) (hst : ∀ l ∈ st, l.length ≤ 512) {a u i : Nat} (ha : a < 8) (hu : u < 4) :
    let y := x.loadLatch w f sp pl ll bs sc st
    (i < 32768 → SMap.get y.latches ((a * 4 + u) * 32768 + i) = if u = w then (((bs.getD a []).find? fun p => p.1 == i).map (·.2)).getD 0
      else SMap.get x.latches ((a * 4 + u) * 32768 + i)) ∧
    (i < 2048 → SMap.get y.scales ((a * 4 + u) * 2048 + i) = if u = w then (sc.getD a []).getD i 0
      else SMap.get x.scales ((a * 4 + u) * 2048 + i)) ∧
    (i < 512 → SMap.get y.lists ((a * 4 + u) * 512 + i) = if u = w then (st.getD a []).getD i 0
      else SMap.get x.lists ((a * 4 + u) * 512 + i)) := by
  intro y
  obtain ⟨zeroLatches, zeroScales, zeroLists⟩ := x.get_zeroLatch w a u i hu
  have loaded : y = _ := x.loadLatch_eq w f sp pl ll bs sc st
  have latchPlanes : y.latches = SMap.setPlanes w 32768 (fun a => bs.getD a []) 8 (x.zeroLatch w).latches := by rw [loaded]
  have scalePlanes : y.scales = SMap.setPlanes w 2048 (fun a => numbered (sc.getD a [])) 8 (x.zeroLatch w).scales := by rw [loaded]
  have listPlanes : y.lists = SMap.setPlanes w 512 (fun a => numbered (st.getD a [])) 8 (x.zeroLatch w).lists := by rw [loaded]
  refine ⟨fun hi => ?_, fun hi => ?_, fun hi => ?_⟩
  · have fits : ∀ a, ((bs.getD a []).map (·.1)).Nodup ∧ ∀ p ∈ bs.getD a [], p.1 < 32768 :=
      getD_of_forall (P := fun l : List (Nat × Byte) => (l.map (·.1)).Nodup ∧ ∀ p ∈ l, p.1 < 32768) hbs (by simp)
    rw [latchPlanes]
    exact SMap.get_setPlanes_zeroed (n := 32768) (SMap.filter_wf _ _ latches) (zeroLatches latches hi) hw fits hu hi ha
  · have fits : ∀ a, (sc.getD a []).length ≤ 2048 := getD_of_forall (P := fun l => l.length ≤ 2048) hsc (by simp)
    rw [scalePlanes, ← find?_numbered (sc.getD a [])]
    exact SMap.get_setPlanes_zeroed (n := 2048) (SMap.filter_wf _ _ scales) (zeroScales scales hi) hw
      (fun a => numbered_fits (fits a)) hu hi ha
  · have fits : ∀ a, (st.getD a []).length ≤ 512 := getD_of_forall (P := fun l => l.length ≤ 512) hst (by simp)
    rw [listPlanes, ← find?_numbered (st.getD a [])]
    exact SMap.get_setPlanes_zeroed (n := 512) (SMap.filter_wf _ _ lists) (zeroLists lists hi) hw
      (fun a => numbered_fits (fits a)) hu hi ha

end Sys2Proof.Machine

/-! # What a landing result changes in the registers of its context (01 R19–R25, R28, R35, R42, R44) -/

namespace Sys2Proof.Machine

theorem State.arch_modArch (s : State) (d c : Nat) (f : Arch → Arch) (hd : d < 8) (hc : c < 3) :
    ((s.modArch d c f).ctx d c).arch = f (s.ctx d c).arch := congrArg Ctx.arch (s.ctx_modArch d c f hd hc)

theorem State.arch_modCtx (s : State) (d c : Nat) (f : Ctx → Ctx) (hd : d < 8) (hc : c < 3) :
    ((s.modCtx d c f).ctx d c).arch = (f (s.ctx d c)).arch := congrArg Ctx.arch (s.ctx_modCtx d c f hd hc)

/-! ### Registers of a table of tables -/

theorem tget_tmod_tmod {α : Type} {n m : Nat} (v : Vector (Vector α m) n) (k i : Nat) (f : α → α) (x : Vector α m) (d : α) (hk : k < n)
    (hi : i < m) : tget (tget (tmod v k fun r => tmod r i f) k x) i d = f (tget (tget v k x) i d) := by
  rw [tget_tmod _ _ _ _ hk, tget_tmod _ _ _ _ hi]

theorem tget_tmod_tmod_ne {α : Type} {n m : Nat} (v : Vector (Vector α m) n) {k i k' i' : Nat} (f : α → α) (x : Vector α m) (d : α)
    (hk : k < n) (h : (k', i') ≠ (k, i)) : tget (tget (tmod v k fun r => tmod r i f) k' x) i' d = tget (tget v k' x) i' d := by
  by_cases e : k' = k
  · subst e
    rw [tget_tmod _ _ _ _ hk, tget_tmod_ne _ _ _ _ _ fun e => h (by rw [e])]
  · rw [tget_tmod_ne _ _ _ _ _ e]

/-! ### Scalar registers and predicates -/

/-- A scalar result without a spare register changes its register alone (R19, R322). -/
theorem Ctx.landS_of_no_dup {x : Ctx} (h : x.dup = []) (n : Nat) (v : Word) : x.landS n v = { x with arch := x.arch.setS n v } := by
  simp only [Ctx.landS, h]; rfl

/-- A vector result without a spare register changes its register alone (R322). -/
theorem Ctx.landV_of_no_dup {x : Ctx} (h : x.dup = []) (k n : Nat) (v : VReg) (m : PReg) :
    x.landV k n v m = { x with arch := x.arch.setV k n v m } := by
  simp only [Ctx.landV, h]; rfl

/-- A scalar predicate takes the value that lands; q0 stays true (R19). -/
theorem Arch.qreg_setQ (a : Arch) (n : Nat) (b : Bool) (h : n < 8) : (a.setQ n b).qreg n = (b || n == 0) := by
  by_cases e : n = 0
  · simp [e, Arch.setQ, Arch.qreg]
  · cases b <;> simp [e, h, Arch.setQ, Arch.qreg]

theorem Arch.qreg_setQ_ne (a : Arch) {n k : Nat} (b : Bool) (hk : k < 8) (h : k ≠ n) : (a.setQ n b).qreg k = a.qreg k := by
  by_cases e : n = 0
  · simp [e, Arch.setQ]
  · rcases Nat.lt_or_gt_of_ne h with lt | gt
    · cases b <;> simp [e, Arch.setQ, Arch.qreg, hk, lt]
    · have off : k - n ≠ 0 := by omega
      cases b <;> simp [e, Arch.setQ, Arch.qreg, hk, off]

/-! ### Vector registers, predicates and reduction latches -/

/-- A vector register takes the bytes that the mask selects, and no other register changes (R22). -/
theorem Arch.vphys_setV (a : Arch) (k n : Nat) (v : VReg) (m : PReg) (hk : k < 8) (hn : n < 64) :
    (∀ i < 128, ((a.setV k n v m).vphys k n).extractLsb' (8 * i) 8 = (if m.getLsbD i then v else a.vphys k n).extractLsb' (8 * i) 8) ∧
    ∀ k' n', (k', n') ≠ (k, n) → (a.setV k n v m).vphys k' n' = a.vphys k' n' := by
  refine ⟨fun i hi => ?_, fun k' n' h => tget_tmod_tmod_ne _ _ _ _ hk h⟩
  have : (a.setV k n v m).vphys k n = blendV (a.vphys k n) v m := tget_tmod_tmod _ _ _ _ _ _ hk hn
  rw [this, blendV_byte _ _ _ _ hi]

/-- A predicate takes the bits that the mask selects; p0 is not written (R22). -/
theorem Arch.setP_results (a : Arch) (k n : Nat) (v m : PReg) (hk : k < 8) (hn : n < 16) :
    (0 < n → tget (tget (a.setP k n v m).p k default) n 0 = (tget (tget a.p k default) n 0 &&& ~~~m) ||| (v &&& m)) ∧
    (∀ k' n', (k', n') ≠ (k, n) ∨ n = 0 → tget (tget (a.setP k n v m).p k' default) n' 0 = tget (tget a.p k' default) n' 0) ∧
    { a.setP k n v m with p := a.p } = a := by
  by_cases e : n = 0
  · subst e
    exact ⟨fun h => absurd h (Nat.lt_irrefl 0), fun _ _ _ => rfl, rfl⟩
  · simp only [Arch.setP, if_neg e]
    exact ⟨fun _ => tget_tmod_tmod _ _ _ _ _ _ hk hn, fun k' n' h => tget_tmod_tmod_ne _ _ _ _ hk (h.resolve_right e), trivial⟩

/-- A reduction latch takes the bytes that the mask selects, and no other latch changes (R25). -/
theorem Arch.areg_blend (a : Arch) (n : Nat) (v : VReg) (m : PReg) (hn : n < 4) :
    let b : Arch := { a with a := tmod a.a n fun old => blendV old v m }
    (∀ i < 128, (b.areg n).extractLsb' (8 * i) 8 = (if m.getLsbD i then v else a.areg n).extractLsb' (8 * i) 8) ∧
    ∀ k, k ≠ n → b.areg k = a.areg k := by
  refine ⟨fun i hi => ?_, fun k h => tget_tmod_ne _ _ _ _ _ h⟩
  rw [← blendV_byte _ _ _ _ hi]
  exact congrArg (fun v : VReg => v.extractLsb' (8 * i) 8) (tget_tmod a.a n _ 0 hn)

/-! ### Scale registers (R208) -/

/-- The scale registers of one file after entries have been written from the first place of a register upward. -/
theorem tget_scaleWrite (r : Vector (Vector (Vector (BitVec 16) 64) 8) 4) (k n : Nat) (es : List (BitVec 16)) (hk : k < 4) (hn : n < 8)
    (hes : es.length ≤ 64) (k' n' i : Nat) :
    let r' := tmod r k fun f => tmod f n fun v => (es.mapIdx fun i e => (i, e)).foldl (fun v p => tset v p.1 p.2) v
    (k' = k ∧ n' = n ∧ i < es.length → tget (tget (tget r' k' default) n' default) i 0 = es.getD i 0) ∧
    (¬ (k' = k ∧ n' = n ∧ i < es.length) →
      tget (tget (tget r' k' default) n' default) i 0 = tget (tget (tget r k' default) n' default) i 0) := by
  intro r'
  by_cases here : (k', n') = (k, n)
  · obtain ⟨rfl, rfl⟩ := Prod.mk.inj here
    have row : tget (tget (tget r' k' default) n' default) i 0 =
        if i < es.length then es.getD i 0 else tget (tget (tget r k' default) n' default) i 0 := by
      rw [← tget_foldl_tset _ _ _ _ hes]
      exact congrArg (fun v => tget v i 0) (tget_tmod_tmod r k' n' _ default default hk hn)
    exact ⟨fun ⟨_, _, h⟩ => by rw [row, if_pos h], fun h => by rw [row, if_neg fun hi => h ⟨rfl, rfl, hi⟩]⟩
  · refine ⟨fun ⟨e, e', _⟩ => absurd (by rw [e, e']) here, fun _ => ?_⟩
    exact congrArg (fun v => tget v i 0) (tget_tmod_tmod_ne r _ default default hk here)

end Sys2Proof.Machine

/-! # What a landing result changes in the queues and the scatter engine of its context (01 R26, R27, R33; 07 R189–R198; 09 R254) -/

namespace Sys2Proof.Machine

/-! ### Dated events -/

@[simp] theorem State.schedule_ctx (s : State) (n p : Nat) (m : Micro) (d c : Nat) : (s.schedule n p m).ctx d c = s.ctx d c := rfl
@[simp] theorem State.scheduleBel_ctx (s : State) (n p : Nat) (m : Micro) (d c : Nat) : (s.scheduleBel n p m).ctx d c = s.ctx d c := rfl

theorem State.mem_schedule (s : State) (n p : Nat) (m : Micro) : { at_ := n, phase := p, what := m } ∈ (s.schedule n p m).calendar :=
  List.mem_append_right _ (List.mem_singleton_self _)

/-- What is dated some counts from now on. -/
theorem State.mem_scheduleBel (s : State) (n p : Nat) (m : Micro) :
    { at_ := s.now + n, phase := p, what := m } ∈ (s.scheduleBel (s.bel + n) p m).calendar := by
  rw [State.scheduleBel, Nat.add_sub_cancel_left]
  exact s.mem_schedule _ p m

/-! ### AQ and DQ (R26, R27, R189) -/

theorem State.planAq_ctx (s : State) (d c d' c' : Nat) : (s.planAq d c).ctx d' c' = s.ctx d' c' := by
  unfold State.planAq
  split <;> rfl

/-- Where AQ holds an entry, its issue is dated at a later count. -/
theorem State.planAq_calendar {s : State} {d c : Nat} (h : (s.ctx d c).arch.aq ≠ []) :
    ∃ n, { at_ := s.now + 1 + n, phase := phEdge, what := .ev (.aqEntryIssue d c) } ∈ (s.planAq d c).calendar := by
  refine ⟨Config.freeNat s.free, ?_⟩
  rw [State.planAq, if_neg (by simpa using h)]
  exact List.mem_append_right _ (List.mem_singleton_self _)

theorem State.pushAq_of_unknown {s : State} {d c : Nat} {q : AqEntry} (h : (s.ctx d c).arch.dqEntry? q.id = none) :
    s.pushAq d c q = s := by
  simp [State.pushAq, h]

/-- A push with a DQ entry and a place joins AQ, and is sent at a later count where AQ was empty (R27). -/
theorem State.pushAq_of_place {s : State} {d c : Nat} {q : AqEntry} {e : DqEntry} (hd : d < 8) (hc : c < 3)
    (known : (s.ctx d c).arch.dqEntry? q.id = some e) (place : (s.ctx d c).arch.aq.length < 32) :
    ((s.pushAq d c q).ctx d c).arch = { (s.ctx d c).arch with aq := (s.ctx d c).arch.aq ++ [q] } ∧
    ((s.ctx d c).arch.aq = [] →
      ∃ n, { at_ := s.now + 1 + n, phase := phEdge, what := .ev (.aqEntryIssue d c) } ∈ (s.pushAq d c q).calendar) := by
  have joined := s.arch_modArch d c (fun a => { a with aq := a.aq ++ [q] }) hd hc
  have pushed : s.pushAq d c q = if (s.ctx d c).arch.aq.isEmpty then
      (s.modArch d c fun a => { a with aq := a.aq ++ [q] }).planAq d c else s.modArch d c fun a => { a with aq := a.aq ++ [q] } := by
    rw [State.pushAq, if_neg (by simp [known]; omega)]
  rw [pushed]
  refine ⟨?_, fun empty => ?_⟩
  · split
    · rw [State.planAq_ctx, joined]
    · exact joined
  · rw [if_pos (by simp [empty])]
    exact State.planAq_calendar (by rw [joined]; simp)

/-- A push that awaits no element joins DQ (R27). -/
theorem State.pushDq_of_landed {s : State} {d c : Nat} {e : DqEntry} (landed : e.waiting = [])
    (place : (s.ctx d c).arch.dq.length < 32) :
    s.pushDq d c e = s.modArch d c fun a => { a with dq := a.dq ++ [{ e with step := (s.ctx d c).steps, stages := [], skip := [] }] } := by
  rw [State.pushDq, if_neg (by omega)]
  simp [landed]

/-- IXCLR empties AQ and DQ and drops the pushes on their way into AQ, and no other landing (R193). -/
theorem Arch.clearQueues_results (a : Arch) :
    a.clearQueues.aq = [] ∧ a.clearQueues.dq = [] ∧ (∀ l ∈ a.clearQueues.landing, ∀ q, l.act ≠ .aqPush q) ∧
    ∀ l ∈ a.landing, (∀ q, l.act ≠ .aqPush q) → l ∈ a.clearQueues.landing := by
  refine ⟨rfl, rfl, fun l hl q e => ?_, fun l hl other => ?_⟩
  · have := (List.mem_filter.mp hl).2
    simp [e] at this
  · refine List.mem_filter.mpr ⟨hl, ?_⟩
    split
    · next q e => exact absurd e (other q)
    · rfl

/-! ### OQ (R33, R254) -/

theorem State.pushOq_eq {s : State} {d c : Nat} (v : Word) (place : (s.ctx (pairOf d) c).arch.oq.length < 64) :
    ∃ u : State, s.pushOq d c v = u.scheduleBel (u.bel + 24) phStart (.ev (.oqEntryPoppable (pairOf d) c s.nextId)) ∧ u.now = s.now ∧
      u.dies = (s.modArch (pairOf d) c fun a =>
        { a with oq := a.oq ++ [{ id := s.nextId, value := v, ready := s.bel + 24, poppable := false }] }).dies := by
  refine ⟨({ s with nextId := s.nextId + 1 } : State).modArch (pairOf d) c fun a =>
        { a with oq := a.oq ++ [{ id := s.nextId, value := v, ready := s.bel + 24, poppable := false }] }, ?_, rfl, rfl⟩
  rw [State.pushOq, if_neg (by omega)]
  rfl

/-- A pushed operand joins the OQ of the paired die's context and can be popped 24 counts later (R33). -/
theorem State.pushOq_of_place {s : State} {d c : Nat} (v : Word) (hc : c < 3) (place : (s.ctx (pairOf d) c).arch.oq.length < 64) :
    ((s.pushOq d c v).ctx (pairOf d) c).arch = { (s.ctx (pairOf d) c).arch with
      oq := (s.ctx (pairOf d) c).arch.oq ++ [{ id := s.nextId, value := v, ready := s.bel + 24, poppable := false }] } ∧
    { at_ := s.now + 24, phase := phStart, what := .ev (.oqEntryPoppable (pairOf d) c s.nextId) } ∈ (s.pushOq d c v).calendar := by
  obtain ⟨u, pushed, now, dies⟩ := State.pushOq_eq v place
  rw [pushed, State.scheduleBel_ctx, State.ctx_of_dies dies, ← now]
  exact ⟨State.arch_modArch s _ _ _ (Nat.mod_lt _ (by decide)) hc, u.mem_scheduleBel 24 _ _⟩

/-! ### Windows of the scatter engine (R198) -/

theorem State.closeWindow_of_empty {s : State} {d c r : Nat} (h : (tget (s.ctx d c).arch.scat r default).open_ = []) :
    s.closeWindow d c r = s := by
  simp [State.closeWindow, h]

/-- An open window closes, and is performed at some count from this one on. -/
theorem State.closeWindow_of_open {s : State} {d c r : Nat} (h : (tget (s.ctx d c).arch.scat r default).open_ ≠ []) :
    let t := tget (s.ctx d c).arch.scat r default
    let shut : ScatStream := { open_ := [], closed := t.closed ++ [t.open_] }
    ∃ (u : State) (n : Nat), s.closeWindow d c r = u.schedule (s.now + n) phEnd (.ev (.scatterWindowPerform d c r)) ∧
      u.dies = (s.modArch d c fun a => { a with scat := tset a.scat r shut }).dies := by
  rw [State.closeWindow, if_neg (by simpa using h)]
  exact ⟨_, _, rfl, rfl⟩

theorem State.closeWindow_calendar {s : State} {d c r : Nat} (h : (tget (s.ctx d c).arch.scat r default).open_ ≠ []) :
    ∃ n, { at_ := s.now + n, phase := phEnd, what := .ev (.scatterWindowPerform d c r) } ∈ (s.closeWindow d c r).calendar := by
  obtain ⟨u, n, closed, -⟩ := State.closeWindow_of_open h
  exact ⟨n, by rw [closed]; exact u.mem_schedule _ _ _⟩

/-- The scatter engine after the open window of a region, if it has one, has closed. -/
def Arch.shut (a : Arch) (r : Nat) : Vector ScatStream 8 :=
  let t := tget a.scat r default
  if t.open_ = [] then a.scat else tset a.scat r { open_ := [], closed := t.closed ++ [t.open_] }

/-- The close of a window changes the scatter engine of its context and nothing else of it. -/
theorem State.closeWindow_ctx (s : State) (d c r : Nat) (hd : d < 8) (hc : c < 3) :
    (s.closeWindow d c r).ctx d c =
      { s.ctx d c with arch := { (s.ctx d c).arch with scat := (s.ctx d c).arch.shut r } } := by
  by_cases h : (tget (s.ctx d c).arch.scat r default).open_ = []
  · rw [State.closeWindow_of_empty h, Arch.shut, if_pos h]
  · obtain ⟨u, n, closed, dies⟩ := State.closeWindow_of_open h
    rw [closed, State.schedule_ctx, State.ctx_of_dies dies, State.ctx_modArch _ _ _ _ hd hc, Arch.shut, if_neg h]

/-- An element joins the open window of its region. -/
def State.joinWindow (s : State) (d c r : Nat) (e : ScatElem) : State :=
  s.modArch d c fun a => { a with scat := tmod a.scat r fun t => { t with open_ := t.open_ ++ [e] } }

theorem State.joinWindow_arch (s : State) (d c r : Nat) (e : ScatElem) (hd : d < 8) (hc : c < 3) (hr : r < 8) :
    let t := tget (s.ctx d c).arch.scat r default
    ((s.joinWindow d c r e).ctx d c).arch =
      { (s.ctx d c).arch with scat := tset (s.ctx d c).arch.scat r { t with open_ := t.open_ ++ [e] } } := by
  intro t
  rw [State.joinWindow, State.arch_modArch _ _ _ _ hd hc, tmod_eq_tset _ _ _ default hr]

theorem State.joinWindow_stream (s : State) (d c r : Nat) (e : ScatElem) (hd : d < 8) (hc : c < 3) (hr : r < 8) :
    tget ((s.joinWindow d c r e).ctx d c).arch.scat r default =
      { tget (s.ctx d c).arch.scat r default with open_ := (tget (s.ctx d c).arch.scat r default).open_ ++ [e] } := by
  rw [s.joinWindow_arch d c r e hd hc hr]
  exact tget_tset _ _ _ _ hr

theorem State.joinWindow_run (s : State) (d c r : Nat) (e : ScatElem) (hd : d < 8) (hc : c < 3) :
    ((s.joinWindow d c r e).ctx d c).run = (s.ctx d c).run := by
  rw [State.joinWindow, State.ctx_modArch _ _ _ _ hd hc]

theorem State.feedEnd_of_live {s : State} {d c r : Nat} (h : (s.ctx d c).run ≠ .exited) : s.feedEnd d c r = s := if_neg h

/-- An element that neither fills nor ends its window joins it. -/
theorem State.feed_of_room {s : State} {d c r : Nat} {e : ScatElem} (hd : d < 8) (hc : c < 3) (hr : r < 8)
    (room : ((tget (s.ctx d c).arch.scat r default).open_ ++ [e]).length < 64) (cut : e.cut = false) :
    s.feed d c r e = s.joinWindow d c r e := by
  refine if_neg ?_
  change ¬ (decide (64 ≤ (tget ((s.joinWindow d c r e).ctx d c).arch.scat r default).open_.length) || e.cut) = true
  rw [s.joinWindow_stream d c r e hd hc hr]
  simp only [cut, Bool.or_false, decide_eq_true_eq, Nat.not_le]
  exact room

/-- The element that fills or ends its window closes it (R198). -/
theorem State.feed_of_last {s : State} {d c r : Nat} {e : ScatElem} (hd : d < 8) (hc : c < 3) (hr : r < 8)
    (last : 64 ≤ ((tget (s.ctx d c).arch.scat r default).open_ ++ [e]).length ∨ e.cut = true) :
    s.feed d c r e = (s.joinWindow d c r e).closeWindow d c r := by
  refine if_pos ?_
  change (decide (64 ≤ (tget ((s.joinWindow d c r e).ctx d c).arch.scat r default).open_.length) || e.cut) = true
  rw [s.joinWindow_stream d c r e hd hc hr]
  simpa using last

/-- A push of one element into a region of a context that has not exited (R198). -/
theorem State.scatPush_one {s : State} {d c r : Nat} (e : ScatElem) (hd : d < 8) (hc : c < 3) (hr : r < 8)
    (live : (s.ctx d c).run ≠ .exited) :
    let x := (s.ctx d c).arch
    let t := tget x.scat r default
    let q := t.open_ ++ [e]
    let u := (s.feed d c r e).feedEnd d c r
    (q.length < 64 → e.cut = false → (u.ctx d c).arch = { x with scat := tset x.scat r { t with open_ := q } }) ∧
    (64 ≤ q.length ∨ e.cut = true →
      (u.ctx d c).arch = { x with scat := tset x.scat r { open_ := [], closed := t.closed ++ [q] } } ∧
      ∃ n, { at_ := s.now + n, phase := phEnd, what := .ev (.scatterWindowPerform d c r) } ∈ u.calendar) := by
  intro x t q u
  have joinedRun := s.joinWindow_run d c r e hd hc
  refine ⟨fun room cut => ?_, fun last => ?_⟩
  · have fed := State.feed_of_room hd hc hr room cut
    rw [show u = s.joinWindow d c r e by rw [← fed]; exact State.feedEnd_of_live (by rw [fed, joinedRun]; exact live)]
    exact s.joinWindow_arch d c r e hd hc hr
  · have fed := State.feed_of_last hd hc hr last
    have stream := s.joinWindow_stream d c r e hd hc hr
    have ended := (s.joinWindow d c r e).closeWindow_ctx d c r hd hc
    have whole : (tget ((s.joinWindow d c r e).ctx d c).arch.scat r default).open_ ≠ [] := by rw [stream]; simp
    rw [show u = (s.joinWindow d c r e).closeWindow d c r by
      rw [← fed]; exact State.feedEnd_of_live (by rw [fed, ended]; exact joinedRun ▸ live)]
    refine ⟨?_, State.closeWindow_calendar whole⟩
    rw [ended, Arch.shut, if_neg whole, stream, s.joinWindow_arch d c r e hd hc hr]
    simp only [tset_tset]
    rfl

/-! ### A SACFG cuts the stream of its region (R198) -/

/-- With no push of the region on its way, the open window closes. -/
theorem State.cutStream_of_arrived {s : State} {d c r : Nat}
    (h : ∀ l ∈ (s.ctx d c).arch.landing, ∀ es, l.act = .scatPush r es → es = []) : s.cutStream d c r = s.closeWindow d c r := by
  refine if_neg ?_
  rw [List.any_eq_true]
  rintro ⟨l, hl, coming⟩
  split at coming
  · next k es e =>
    simp only [Bool.and_eq_true, beq_iff_eq, Bool.not_eq_eq_eq_not, Bool.not_true, List.isEmpty_eq_false_iff] at coming
    obtain ⟨rfl, ne⟩ := coming
    exact ne (h l hl es e)
  · exact absurd coming (by decide)

/-- With a push of the region on its way, its last element will end the window. -/
theorem State.cutStream_of_coming {s : State} {d c r : Nat}
    (h : ∃ l ∈ (s.ctx d c).arch.landing, ∃ e es, l.act = .scatPush r (e :: es)) :
    s.cutStream d c r = s.modArch d c fun a => { a with landing := a.landing.map (Landing.cutPush r) } := by
  refine if_pos ?_
  obtain ⟨l, hl, e, es, ha⟩ := h
  rw [List.any_eq_true]
  exact ⟨l, hl, by rw [ha]; simp⟩

theorem State.arch_cutStream_of_arrived {s : State} {d c r : Nat} (hd : d < 8) (hc : c < 3)
    (h : ∀ l ∈ (s.ctx d c).arch.landing, ∀ es, l.act = .scatPush r es → es = []) :
    ((s.cutStream d c r).ctx d c).arch = { (s.ctx d c).arch with scat := (s.ctx d c).arch.shut r } := by
  rw [State.cutStream_of_arrived h, s.closeWindow_ctx d c r hd hc]

theorem State.arch_cutStream_of_coming {s : State} {d c r : Nat} (hd : d < 8) (hc : c < 3)
    (h : ∃ l ∈ (s.ctx d c).arch.landing, ∃ e es, l.act = .scatPush r (e :: es)) :
    ((s.cutStream d c r).ctx d c).arch =
      { (s.ctx d c).arch with landing := (s.ctx d c).arch.landing.map (Landing.cutPush r) } := by
  rw [State.cutStream_of_coming h, State.arch_modArch _ _ _ _ hd hc]

end Sys2Proof.Machine

/-! # What a landing result changes in the deferred set, in frames and requests, and at the end of a context (01 R33; 05 R133–R138; 07 R185;
09 R239–R241, R253–R256) -/

namespace Sys2Proof.Machine

/-! ### The deferred set (R122, R253, R311) -/

theorem State.releaseSoon_of_region {s : State} {d c : Nat} (live : (s.ctx d c).run ≠ .exited) (hc : c ≠ 2) : s.releaseSoon d c = s :=
  if_neg fun h => h.elim live hc

theorem State.checkDeferred_of_room {s : State} {d c : Nat} (cls : Nat) (g : Option Nat)
    (room : (s.ctx d c).deferredGranules.length ≤ deferLimit c) : s.checkDeferred d c cls g = s :=
  if_neg fun h => by omega

/-- What enters the deferred set of a context with a region to end stays in it, where the set's limit leaves room. -/
theorem State.defer_ctx {s : State} {d c : Nat} {f : Ctx → Ctx} (cls : Nat) (g : Option Nat) (hd : d < 8) (hc : c < 2)
    (live : (f (s.ctx d c)).run ≠ .exited) (room : (f (s.ctx d c)).deferredGranules.length ≤ deferLimit c) :
    ((((s.modCtx d c f).releaseSoon d c).checkDeferred d c cls g).ctx d c) = f (s.ctx d c) := by
  have mine := s.ctx_modCtx d c f hd (by omega)
  rw [State.releaseSoon_of_region (by rw [mine]; exact live) (by omega), State.checkDeferred_of_room _ _ (by rw [mine]; exact room), mine]

/-! ### Network frames (R185) -/

theorem dieAt_lt (r c : Nat) : dieAt r c < 8 := by
  unfold dieAt; split <;> decide

theorem neighbour_lt {d e k : Nat} (h : neighbour d e = some k) : k < 8 := by
  unfold neighbour at h
  split at h
  · split at h
    · cases h
    · cases h; exact dieAt_lt _ _
  · split at h
    · cases h
    · cases h; exact dieAt_lt _ _
  · cases h; exact dieAt_lt _ _
  · cases h

/-- A network frame over edges in service comes to the die across its edge after its hop (R185, R334). -/
theorem State.sendNet_of_clear {s : State} {d c e h k : Nat} {bs : List (Nat × Byte)} (hk : neighbour d e = some k)
    (edges : s.edges = BitVec.allOnes 14) (late : s.edgeLate = []) :
    ((s.sendNet d c e h bs).die k).nframes = (s.die k).nframes ++
      [{ id := s.nextId, edge := farEdge e, arrive := s.bel + h, gang := (s.ctx d c).gang, fromDie := d, bytes := bs }] ∧
    { at_ := s.now + h, phase := phStart, what := .ev (.nsendFrameArrival k s.nextId) } ∈ (s.sendNet d c e h bs).calendar := by
  let f : NFrame := { id := s.nextId, edge := farEdge e, arrive := s.bel + h, gang := (s.ctx d c).gang, fromDie := d, bytes := bs }
  have serves : ((dirPath d k).all fun e => s.edges.getLsbD (e % 14)) = true := by
    rw [List.all_eq_true]
    intro e _
    rw [edges, BitVec.getLsbD_allOnes]
    exact decide_eq_true (Nat.mod_lt _ (by decide))
  have sent : ∃ u : State, s.sendNet d c e h bs = u.scheduleBel (u.bel + h) phStart (.ev (.nsendFrameArrival k s.nextId)) ∧
      u.now = s.now ∧ u.dies = (s.modDie k fun x => { x with nframes := x.nframes ++ [f] }).dies := by
    refine ⟨({ s with nextId := s.nextId + 1 } : State).modDie k fun x => { x with nframes := x.nframes ++ [f] }, ?_, rfl, rfl⟩
    simp only [State.sendNet, hk, State.fresh, late, List.any_nil, serves, if_true]
    rfl
  obtain ⟨u, sent, now, dies⟩ := sent
  rw [sent, ← now]
  refine ⟨?_, u.mem_scheduleBel h _ _⟩
  have : (u.die k) = _ := (congrArg (fun v => tget v k default) dies).trans (s.die_modDie k _ (neighbour_lt hk))
  exact congrArg Die.nframes this

/-! ### SEND and RECV (R239–R241, R346) -/

/-- Dated events alone change no frame, no link and no die. -/
theorem State.foldl_scheduleBel (s : State) (l : List Nat) (at_ : State → Nat → Nat) (p : Nat) (m : Nat → Micro) :
    let u := l.foldl (fun s j => s.scheduleBel (at_ s j) p (m j)) s
    u.sends = s.sends ∧ u.lanterns = s.lanterns ∧ u.dies = s.dies :=
  List.foldlRecOn (motive := fun u : State => u.sends = s.sends ∧ u.lanterns = s.lanterns ∧ u.dies = s.dies) l _ ⟨rfl, rfl, rfl⟩
    fun _ h _ _ => h

theorem State.startSend_sends (s : State) (x : SendState) :
    (s.startSend x).sends = s.sends ++ [{ x with id := s.nextId, issued := s.bel }] :=
  (State.foldl_scheduleBel _ _ _ _ _).1

theorem State.startSend_lanterns (s : State) (x : SendState) : (s.startSend x).lanterns = s.lanterns :=
  (State.foldl_scheduleBel _ _ _ _ _).2.1

theorem State.armedCheck_sends (s : State) (i : Nat) : (s.armedCheck i).sends = s.sends := by
  unfold State.armedCheck
  dsimp only
  split
  · split <;> rfl
  · rfl

theorem State.lantern_modLantern (s : State) (i : Nat) (f : Lantern → Lantern) (h : i < 14) :
    (s.modLantern i f).lantern i = f (s.lantern i) := tget_tmod _ _ _ _ h

@[simp] theorem State.schedule_lantern (s : State) (n p : Nat) (m : Micro) (i : Nat) : (s.schedule n p m).lantern i = s.lantern i := rfl

/-- An armed wake that fires leaves the flits that wait (R353). -/
theorem State.armedCheck_txq (s : State) (i : Nat) (h : i < 14) : ((s.armedCheck i).lantern i).txq = (s.lantern i).txq := by
  unfold State.armedCheck
  dsimp only
  split
  · split
    · rw [State.schedule_lantern, State.lantern_modLantern _ _ _ h]; rfl
    · rfl
  · rfl

theorem State.queueFlits_txq (s : State) (i : Nat) (xs : List TxFlit) (h : i < 14) :
    ((s.queueFlits i xs).lantern i).txq = (s.lantern i).txq ++ xs := by
  rw [State.queueFlits, State.armedCheck_txq _ _ h, State.lantern_modLantern _ _ _ h]

theorem State.queueFlits_sends (s : State) (i : Nat) (xs : List TxFlit) : (s.queueFlits i xs).sends = s.sends :=
  State.armedCheck_sends _ _

/-- A SEND to another package joins the frames, and its flits the queue of the identity that carries it (R346). -/
theorem State.sendAway_of_carried {s : State} {d c pkg die ch q b n : Nat} {first : List Byte} {G : Gang} {e : LanEntry}
    {sl : List (Nat × Nat)} {z a : Nat} (gang : s.gangOf d c = some G)
    (carried : carry (s.timetable G) G.carried G.phase (s.ctx d c).member pkg 0 (s.belfry - BitVec.ofNat 64 G.gbase).toNat (1 + n / 64) =
      some (e, sl, z, a)) (lan : e.lan < 14) :
    let t := s.sendAway d c pkg die ch q b n first
    ∃ y, t.sends = s.sends ++ [y] ∧ y.id = s.nextId ∧ y.fromDie = d ∧ y.dstPkg = pkg ∧ y.dstDie = die ∧
      y.chan = ch ∧ y.seq = q ∧ y.n = n ∧ y.data = first ∧ y.ident = e.lan ∧ y.entry = e.ix ∧
      y.leave = G.gbase + 64 * ((s.belfry - BitVec.ofNat 64 G.gbase).toNat / 64 + 2) ∧
      y.arrive = G.gbase + a ∧ y.path = toPort (portOf e.lan) d ∧ (t.lantern e.lan).txq = (s.lantern e.lan).txq ++ y.flits := by
  intro t
  have away : ∃ (u : State) (x : SendState), t = (u.startSend x).queueFlits e.lan x.flits ∧ u.sends = s.sends ∧ u.lanterns = s.lanterns ∧
      x.id = u.nextId ∧ u.nextId = s.nextId ∧ x.fromDie = d ∧ x.dstPkg = pkg ∧ x.dstDie = die ∧
      x.chan = ch ∧ x.seq = q ∧ x.n = n ∧ x.data = first ∧ x.ident = e.lan ∧ x.entry = e.ix ∧
      x.leave = G.gbase + 64 * ((s.belfry - BitVec.ofNat 64 G.gbase).toNat / 64 + 2) ∧
      x.arrive = G.gbase + a ∧ x.path = toPort (portOf e.lan) d := by
    simp only [t, State.sendAway, gang, carried]
    exact ⟨_, _, rfl, rfl, rfl, rfl, rfl, rfl, rfl, rfl, rfl, rfl, rfl, rfl, rfl, rfl, rfl, rfl, rfl⟩
  obtain ⟨u, x, sent, sends, lanterns, id, next, fields⟩ := away
  have flits : ({ x with id := u.nextId, issued := u.bel } : SendState).flits = x.flits := by rw [← id]; rfl
  refine ⟨{ x with id := u.nextId, issued := u.bel }, ?_, next, ?_⟩
  · rw [sent, State.queueFlits_sends, State.startSend_sends, sends]
  · obtain ⟨h1, h2, h3, h4, h5, h6, h7, h8, h9, h10, h11, h12⟩ := fields
    refine ⟨h1, h2, h3, h4, h5, h6, h7, h8, h9, h10, h11, h12, ?_⟩
    rw [sent, State.queueFlits_txq _ _ _ lan, flits, State.lantern, State.startSend_lanterns, lanterns]
    rfl

/-- RECV takes its frame from staging (R241). -/
theorem State.takeFrame_ctx {s : State} {d c b : Nat} {key : Nat × Nat × Nat × Nat} {f : StagedFrame} (hd : d < 8) (hc : c < 3)
    (staged : (s.die d).staged key = some f) :
    (s.takeFrame d c key b).ctx d c =
      { s.ctx d c with taken := (s.ctx d c).taken ++ [key], takes := (s.ctx d c).takes ++ [(s.nextId, b, f.data)] } := by
  have taken : (s.takeFrame d c key b).dies = (s.modCtx d c fun x =>
      { x with taken := x.taken ++ [key], takes := x.takes ++ [(s.nextId, b, f.data)] }).dies := by
    simp only [State.takeFrame, staged]
    exact (State.foldl_scheduleBel _ _ _ _ _).2.2
  rw [State.ctx_of_dies taken, State.ctx_modCtx _ _ _ _ hd hc]

/-! ### Requests to a Lantern and the choice of a phase (R255, R256) -/

theorem State.freeBelow_lt (s : State) (n : Nat) (h : 0 < n) : (s.freeBelow n).1 < n := by
  rw [State.freeBelow, if_neg (Nat.ne_of_gt h)]
  exact Nat.mod_lt _ h

/-- A Lantern request acts within 256 counts (R255). -/
theorem State.queueLantern_results (s : State) (d c i : Nat) (m : BitVec 64) (w : Bool) (arm : Option Nat) :
    ∃ k < 256, (s.queueLantern d c i m w arm).lanternReqs = s.lanternReqs ++
        [{ id := s.nextId, ident := i, mask := m, wake := w, arm := arm, die := d, gang := (s.ctx d c).gang, at_ := s.now + 1 + k }] ∧
      { at_ := s.now + 1 + k, phase := phStart, what := .ev (.lanternRequestAct s.nextId) } ∈ (s.queueLantern d c i m w arm).calendar :=
  ⟨(s.freeBelow 256).1, s.freeBelow_lt 256 (by decide), rfl, List.mem_append_right _ (List.mem_singleton_self _)⟩

/-- The gang with an identifier after a change of the gangs that have it. -/
theorem State.gang?_modGang {s : State} {g : Nat} {G : Gang} {f : Gang → Gang} (h : s.gang? g = some G) (keeps : ∀ x, (f x).id = x.id) :
    (s.modGang g f).gang? g = some (f G) := by
  have id : G.id = g := eq_of_beq (List.find?_some (p := fun x : Gang => x.id == g) h)
  have same : ((fun x : Gang => x.id == g) ∘ fun x => if x.id = g then f x else x) = fun x => x.id == g := by
    funext x
    by_cases e : x.id = g <;> simp [e, keeps]
  rw [State.gang?, State.modGang, List.find?_map, same]
  rw [State.gang?] at h
  rw [h, Option.map_some, if_pos id]

/-- The served gang will switch its phase at its next period boundary (R256). -/
theorem State.choosePhase_results {s : State} {d c : Nat} {G : Gang} (p : Nat) (h : s.gangOf d c = some G) :
    (s.choosePhase d c p).gang? G.id = some { G with nextPhase := some p } ∧
    { at_ := s.now + (leastCongruent (s.bel + 1) 0 G.tp - s.bel), phase := phStart, what := .ev (.phaseSwitch G.id) } ∈
      (s.choosePhase d c p).calendar := by
  have own : s.gang? G.id = some G := by
    have id : G.id = (s.ctx d c).gang := eq_of_beq (List.find?_some (p := fun x : Gang => x.id == (s.ctx d c).gang) h)
    rw [id]; exact h
  rw [State.choosePhase, h]
  exact ⟨State.gang?_modGang (f := fun x => { x with nextPhase := some p }) own fun _ => rfl,
    List.mem_append_right _ (List.mem_singleton_self _)⟩

/-! ### The end of a context (R133, R135, R138, R319) -/

/-- A change of a die beside its contexts leaves every context. -/
theorem State.ctx_modDie {s : State} {d d' : Nat} (c : Nat) {f : Die → Die} (hd : d < 8) (h : ∀ x, (f x).ctx = x.ctx) :
    (s.modDie d f).ctx d' c = s.ctx d' c := by
  by_cases e : d' = d
  · subst e
    rw [State.ctx, State.die_modDie _ _ _ hd, h]; rfl
  · rw [State.ctx, State.die_modDie_ne _ _ _ _ e]; rfl

theorem State.freeFrames_ctx (s : State) (d c : Nat) (hd : d < 8) (hc : c < 3) :
    (s.freeFrames d c).ctx d c = { s.ctx d c with taken := [] } := by
  rw [State.freeFrames, State.ctx_modCtx _ _ _ _ hd hc, State.ctx_modDie _ hd]
  exact fun _ => rfl

/-- A context that defers nothing releases nothing (R133). -/
theorem State.release_of_empty {s : State} {d c : Nat} (defers : (s.ctx d c).deferred = []) (arrives : (s.ctx d c).arrivals = [])
    (scatters : (s.ctx d c).deferScat = []) :
    s.release d c = s.modCtx d c fun x => { x with deferred := [], arrivals := [], deferScat := [],
                                                   unjoined := if x.deferred.any (·.cq) then [] else x.unjoined } := by
  simp [State.release, defers, arrives, scatters, mergeAll, rangesOf]

theorem State.closeWindows_of_idle {s : State} {d c : Nat} (h : (s.ctx d c).arch.scatIdle = true) : s.closeWindows d c = s := by
  have shut : ∀ r < 8, (tget (s.ctx d c).arch.scat r default).open_ = [] := by
    intro r hr
    simp only [Arch.scatIdle, Bool.and_eq_true, List.all_eq_true, List.mem_range] at h
    exact List.isEmpty_iff.mp (h.1 r hr).1
  refine List.foldlRecOn (motive := fun u : State => u = s) _ _ rfl fun u hu r hr => ?_
  rw [hu, State.closeWindow_of_empty (shut r (List.mem_range.mp hr))]

theorem State.freeFrames_pendings (s : State) (d c : Nat) : (s.freeFrames d c).pendings = s.pendings := rfl

/-- The end of a region that defers nothing: what the region kept is freed, and nothing is released (R309 steps 1 and 2). -/
theorem State.endRegion_of_empty {s : State} {d c : Nat} (hd : d < 8) (hc : c < 3) (defers : (s.ctx d c).deferred = [])
    (arrives : (s.ctx d c).arrivals = []) (scatters : (s.ctx d c).deferScat = []) :
    let x := s.ctx d c
    let y := (s.endRegion d c).ctx d c
    y.run = x.run ∧ y.succ = x.succ ∧ y.before = [] ∧ y.staging = [] ∧ y.atomLog = [] ∧ y.arch.s = x.arch.s ∧
      (s.endRegion d c).pendings = s.pendings := by
  rw [State.endRegion, State.release_of_empty defers arrives scatters]
  simp [State.ctx_modCtx _ _ _ _ hd hc, State.freeFrames_ctx _ _ _ hd hc, State.freeFrames_pendings]

/-- What an EXIT with nothing deferred and nothing open makes of its context before the region ends (R135). -/
theorem State.exitCtx_eq_endRegion {s : State} {d c : Nat} (k : Option Nat) (hd : d < 8) (hc : c < 2) (defers : (s.ctx d c).deferred = [])
    (reqs : (s.ctx d c).reqs = []) (idle : (s.ctx d c).arch.scatIdle = true) :
    ∃ u : State, s.exitCtx d c k = u.endRegion d c ∧ u.ctx d c = { s.ctx d c with run := .exited, succ := k, deferred := [] } ∧
      u.pendings = s.pendings := by
  have mine : (s.modCtx d c fun x => { x with run := .exited, succ := k, deferred := x.deferred ++ x.outHolders }).ctx d c =
      { s.ctx d c with run := .exited, succ := k, deferred := [] } := by
    rw [State.ctx_modCtx _ _ _ _ hd (by omega), defers]
    simp [Ctx.outHolders, reqs]
  refine ⟨_, ?_, mine, rfl⟩
  rw [State.exitCtx, if_neg (by omega)]
  dsimp only
  rw [State.closeWindows_of_idle (by rw [mine]; exact idle)]

/-- EXIT of a context with nothing deferred, staged or open: its region ends, and nothing is released (R135). -/
theorem State.exitCtx_of_empty {s : State} {d c : Nat} (k : Option Nat) (hd : d < 8) (hc : c < 2) (defers : (s.ctx d c).deferred = [])
    (arrives : (s.ctx d c).arrivals = []) (scatters : (s.ctx d c).deferScat = []) (reqs : (s.ctx d c).reqs = [])
    (idle : (s.ctx d c).arch.scatIdle = true) :
    let y := (s.exitCtx d c k).ctx d c
    y.run = .exited ∧ y.succ = k ∧ y.before = [] ∧ y.staging = [] ∧ y.atomLog = [] ∧ y.arch.s = (s.ctx d c).arch.s ∧
      (s.exitCtx d c k).pendings = s.pendings := by
  obtain ⟨u, ended, mine, pendings⟩ := State.exitCtx_eq_endRegion k hd hc defers reqs idle
  have region := State.endRegion_of_empty (s := u) (d := d) (c := c) hd (by omega) (by rw [mine]) (by rw [mine]; exact arrives)
    (by rw [mine]; exact scatters)
  rw [mine, pendings] at region
  rw [ended]
  exact region

theorem State.handledMember_ctx (s : State) (g : Gang) (d c : Nat) (k : Option Nat) (d' c' : Nat) :
    (s.handledMember g d c k).ctx d' c' = s.ctx d' c' := by
  unfold State.handledMember
  dsimp only
  split
  · rfl
  · split <;> rfl

/-- A handler's EXIT aborts the gang that it serves (R319). -/
theorem State.exitCtx_handler {s : State} {d : Nat} {G : Gang} (k : Option Nat) (hd : d < 8) (h : s.gangOf d 2 = some G) :
    ((s.exitCtx d 2 k).ctx d 2).run = .absent ∧ (s.exitCtx d 2 k).agenda = .ev (.gangAbort G.id .trap) :: s.agenda := by
  rw [State.exitCtx, if_pos rfl, h]
  exact ⟨congrArg Ctx.run (s.ctx_modCtx d 2 (fun x => { x with run := .absent }) hd (by decide)), rfl⟩

/-- RETT to a checkpoint that the served image does not have is fatal (R138). -/
theorem State.returnTo_of_missing {s : State} {d n : Nat} {G : Gang} (h : s.gangOf d 2 = some G)
    (missing : (checkpointOffsets (s.code d (s.ctx d 2).served)).length < n) :
    s.returnTo d n = s.abortByTrap G d (s.ctx d 2).served { code := 0x08, info := n, cls := 0, clus := none } := by
  rw [State.returnTo, h]
  exact if_neg (by omega)

/-- RETT to a checkpoint of the served image ends the handler (R138). -/
theorem State.returnTo_of_checkpoint {s : State} {d n : Nat} {G : Gang} (hd : d < 8) (h : s.gangOf d 2 = some G)
    (has : n ≤ (checkpointOffsets (s.code d (s.ctx d 2).served)).length) : ((s.returnTo d n).ctx d 2).run = .absent := by
  have returned : s.returnTo d n = s.rettMember G d (s.ctx d 2).served n := by
    rw [State.returnTo, h]
    exact if_pos has
  rw [returned, State.rettMember, State.handledMember_ctx, State.ctx_modCtx _ _ _ _ hd (by decide)]

end Sys2Proof.Machine

/-! # Results as they land -/

namespace Sys2Proof.Machine

/-- Settles O45: each effect goes through the lemmas about the operation that it is. -/
theorem landingResults : Obligations.LandingResults := by
  intro s d c cls g hd hc dup x u after gr gr'
  have arch : ∀ f : Arch → Arch, ((s.modArch d c f).ctx d c).arch = f x := fun f => s.arch_modArch d c f hd hc
  have group : ∀ k < 4, ∀ f, tget ((s.modGroup d k f).die d).groups k default = f (gr k) := fun k hk f => s.group_modGroup d k f hd hk
  have others : ∀ k f, ∀ j, j ≠ k → tget ((s.modGroup d k f).die d).groups j default = gr j :=
    fun k f j h => s.group_modGroup_ne d k j f hd h
  refine ⟨?scalar, ?predicate, ?vector, fun k => rfl, rfl, ?vpred, ?latchReg, fun n l _ => arch _, fun f => arch _, fun v => arch _,
    fun v => arch _, fun b => arch _, ?sysreg, ?bank, ?wbuf, ?tags, ?scale, ?busy, ?tile, ?latch, fun k n hk => group k hk _,
    ?aqPush, ?dqPush, fun id => arch _, ?ixclr, arch _, ?oqPush, ?scatPush, ?scatArrived, ?scatComing, ?defer, ?arrive, ?nframeOff,
    ?nframe, ?ntake, ?sendFrame, ?sendTimed, ?takeFrame, ?lantern, ?selectPhase, ?exit, ?handler⟩
  case scalar =>
    intro n v _
    exact (s.arch_modCtx d c _ hd hc).trans (congrArg Ctx.arch (Ctx.landS_of_no_dup dup n v))
  case predicate =>
    intro n b hn
    rw [show after (.q n b) = x.setQ n b from arch _]
    exact ⟨x.qreg_setQ n b hn, fun k hk h => x.qreg_setQ_ne b hk h⟩
  case vector =>
    intro k n v m hk hn
    rw [show after (.v k n v m) = x.setV k n v m from
      (s.arch_modCtx d c _ hd hc).trans (congrArg Ctx.arch (Ctx.landV_of_no_dup dup k n v m))]
    exact x.vphys_setV k n v m hk hn
  case vpred =>
    intro k n v m hk hn
    rw [show after (.p k n v m) = x.setP k n v m from arch _]
    exact x.setP_results k n v m hk hn
  case latchReg =>
    intro n v m hn
    rw [show after (.a n v m) = { x with a := tmod x.a n fun old => blendV old v m } from arch _]
    exact x.areg_blend n v m hn
  case sysreg =>
    rintro rfl v
    have written : ∀ n, after (.sysreg n v) = ((s.ctx d 0).writeSr (kindOf d) n v).arch := fun n => s.arch_modCtx d 0 _ hd hc
    exact ⟨written _, written _, written _, written _, written _⟩
  case bank =>
    intro plate bs wf nodup
    rw [show ((u (.bank plate bs)).die d).bank = _ from s.ownBankWrite_bank d c cls g plate bs hd]
    exact ⟨fun a b h => SMap.get_setAll_of_mem wf nodup h, fun a h => SMap.get_setAll_of_not_mem wf nodup h⟩
  case wbuf =>
    intro bs wf nodup
    rw [show ((u (.wbuf bs)).die d).wbuf = _ from s.wbufWrite_wbuf d c cls g bs hd]
    exact ⟨fun a b h => SMap.get_setAll_of_mem wf nodup h, fun a h => SMap.get_setAll_of_not_mem wf nodup h⟩
  case tags =>
    intro wf n v k
    rw [show ((u (.tag n v)).die d).tags = SMap.set (s.die d).tags n v from s.tagWrite_tags d c cls g [(n, v)] hd,
      show ((u (.clearTags n k)).die d).tags = _ from s.tagWrite_tags d c cls g _ hd]
    exact ⟨SMap.get_set_same _ 0 n v wf, fun a h => SMap.get_set_other _ 0 n a v wf h, fun a => SMap.get_clearTags _ n k a wf⟩
  case scale =>
    intro k kj n es hk hn hes reg k' n' i
    cases kj
    · rw [show after (.scale k false n es) = { x with kreg := _ } from arch _]
      exact ⟨(tget_scaleWrite x.kreg k n es hk hn hes k' n' i).1, (tget_scaleWrite x.kreg k n es hk hn hes k' n' i).2, rfl⟩
    · rw [show after (.scale k true n es) = { x with jreg := _ } from arch _]
      exact ⟨(tget_scaleWrite x.jreg k n es hk hn hes k' n' i).1, (tget_scaleWrite x.jreg k n es hk hn hes k' n' i).2, rfl⟩
  case busy =>
    intro k t hk ht
    constructor
    · intro n pair mma form clear a old
      have marked : gr' a k = (gr k).modBits t _ := (group k hk _).trans (TileGroup.setBusy_eq n pair mma clear)
      rw [marked]
      exact ⟨TileGroup.tileBits_modBits _ _ _ ht, fun j h => TileGroup.tileBits_modBits_ne _ _ _ _ h, others k _, rfl⟩
    · intro n pair mma form a
      rw [show gr' a k = _ from group k hk _]
      exact TileGroup.setBusy_clears n pair mma ht form
  case tile =>
    intro k t cells hk ht wf nodup mine put
    have whole := TileGroup.tileSet_results (x := gr k) ht wf nodup
    have freed := TileGroup.tileFree_results (x := gr k) ht wf
    have written : gr' (.tile k t cells) k = { gr k with tiles := SMap.setAll (gr k).tiles cells } := group k hk _
    rw [written, show gr' (.tileSet k t cells) k = _ from group k hk _, show gr' (.tileFree k t) k = _ from group k hk _]
    exact ⟨fun a => SMap.get_setAll _ _ nodup _ wf, rfl, whole.1, whole.2.1, whole.2.2, freed.1, freed.2,
      fun j h => ⟨others k _ j h, others k _ j h, others k _ j h⟩⟩
  case latch =>
    intro k w f sp pl ll bs sc st hk hw latches scales lists hbs hsc hst y z
    have loaded : y = (gr k).loadLatch w f sp pl ll bs sc st := group k hk _
    have freed : z = ((gr k).zeroLatch w).modAnnex w fun _ => default := group k hk _
    have annex : y.annex = tmod (gr k).annex w _ := loaded ▸ congrArg TileGroup.annex (TileGroup.loadLatch_eq ..)
    have entries := fun {a w' i} (ha : a < 8) (hw' : w' < 4) =>
      TileGroup.get_loadLatch (f := f) (sp := sp) (pl := pl) (ll := ll) (i := i) hw latches scales lists hbs hsc hst ha hw'
    have zeroes := (gr k).get_zeroLatch w
    rw [annex, freed, loaded]
    exact ⟨tget_tmod _ _ _ _ hw, tget_tmod _ _ _ _ hw, fun w' h => ⟨tget_tmod_ne _ _ _ _ _ h, tget_tmod_ne _ _ _ _ _ h⟩,
      fun a w' b ha hw' hb => ⟨(entries ha hw').1 hb, (zeroes a w' b hw').1 latches hb⟩,
      fun a w' i ha hw' hi => (entries ha hw').2.1 hi, fun a w' i ha hw' hi => (entries ha hw').2.2 hi,
      fun j h => ⟨others k _ j h, others k _ j h⟩⟩
  case aqPush =>
    intro q
    exact ⟨fun unknown => State.pushAq_of_unknown unknown, fun e known place => State.pushAq_of_place hd hc known place⟩
  case dqPush =>
    intro e q landed place
    exact (congrArg (fun t : State => (t.ctx d c).arch) (State.pushDq_of_landed (e := { e with gstep := g }) landed place)).trans (arch _)
  case ixclr =>
    rw [show after .ixclr = x.clearQueues from arch _]
    exact x.clearQueues_results
  case oqPush =>
    intro v m place
    exact State.pushOq_of_place v hc place
  case scatPush =>
    intro r e hr live
    exact State.scatPush_one { e with gstep := g } hd hc hr live
  case scatArrived =>
    intro r cfg hr arrived t old shut
    have cut : ((s.cutStream d c r).ctx d c).arch = { x with scat := shut } := State.arch_cutStream_of_arrived hd hc arrived
    have status : ∀ f, (((s.cutStream d c r).modArch d c fun a => { a with regions := tmod a.regions r f }).ctx d c).arch =
        { x with scat := shut, regions := tset x.regions r (f old) } := fun f => by
      rw [State.arch_modArch _ _ _ _ hd hc, cut, tmod_eq_tset _ _ _ default hr]
    exact ⟨cut, status _, status _⟩
  case scatComing =>
    intro r cfg hr coming
    have cut : ((s.cutStream d c r).ctx d c).arch = { x with landing := x.landing.map (Landing.cutPush r) } :=
      State.arch_cutStream_of_coming hd hc coming
    have status : ∀ f, (((s.cutStream d c r).modArch d c fun a => { a with regions := tmod a.regions r f }).ctx d c).arch.scat =
        x.scat := fun f => by
      rw [State.arch_modArch _ _ _ _ hd hc, cut]
    exact ⟨(congrArg Arch.scat cut :), status _, status _, (congrArg Arch.landing cut :)⟩
  case defer =>
    intro ws h2 live y room
    exact State.defer_ctx (f := fun x => { x with deferred := x.deferred ++ ws.map fun w => { w with cls := cls, step := x.steps } })
      cls (some g) hd h2 live room
  case arrive =>
    intro r h2 live y room
    exact State.defer_ctx (f := fun x => { x with arrivals := x.arrivals ++ [r] }) cls (some g) hd h2 live room
  case nframeOff =>
    intro e h bs off
    change s.sendNet d c e h bs = s
    rw [State.sendNet, off]
  case nframe =>
    intro e h bs k hk edges late
    exact State.sendNet_of_clear hk edges late
  case ntake =>
    intro e
    exact congrArg Die.nframes (s.die_modDie d _ hd)
  case sendFrame =>
    intro dst ch q b n first
    exact ⟨_, s.startSend_sends _, rfl, rfl, rfl, rfl, rfl, rfl, rfl, rfl, rfl, rfl, rfl, rfl, rfl⟩
  case sendTimed =>
    intro pkg die ch q b n first G gang gs e sl z a carried lan
    exact State.sendAway_of_carried gang carried lan
  case takeFrame =>
    intro key b f staged
    rw [show (u (.takeFrame key b)).ctx d c = _ from State.takeFrame_ctx hd hc staged]
    exact ⟨rfl, rfl⟩
  case lantern =>
    intro i m w arm
    exact s.queueLantern_results d c i m w arm
  case selectPhase =>
    intro p G gang
    exact State.choosePhase_results p gang
  case exit =>
    intro k h2 defers arrives scatters _ reqs idle
    exact State.exitCtx_of_empty k hd h2 defers arrives scatters reqs idle
  case handler =>
    rintro k G rfl gang v
    obtain ⟨absent, aborts⟩ := State.exitCtx_handler k hd gang
    exact ⟨absent, aborts, fun n => ⟨fun missing => State.returnTo_of_missing gang missing,
      fun has => State.returnTo_of_checkpoint hd gang has⟩⟩

end Sys2Proof.Machine

/-! # Decoding and encoding of slot words (02 R56–R64, 03 R74–R86) -/

namespace Sys2Proof.Laws

/-- In the class of a well-formed slot instruction its opcode has an entry that makes exactly it (R74): the lemmas of the
single instructions taken together. -/
theorem assigned (i : Instr) : Assigned.Statement i := by
  cases i with
  | add h o => exact Assigned.add h o
  | sub h o => exact Assigned.sub h o
  | addi h o => exact Assigned.addi h o
  | li h o => exact Assigned.li h o
  | lih h o => exact Assigned.lih h o
  | sel h o => exact Assigned.sel h o
  | min h o => exact Assigned.min h o
  | max h o => exact Assigned.max h o
  | minn h o => exact Assigned.minn h o
  | maxn h o => exact Assigned.maxn h o
  | cmp h o => exact Assigned.cmp h o
  | and h o => exact Assigned.and h o
  | or h o => exact Assigned.or h o
  | xor h o => exact Assigned.xor h o
  | andn h o => exact Assigned.andn h o
  | orn h o => exact Assigned.orn h o
  | shl h o => exact Assigned.shl h o
  | shr h o => exact Assigned.shr h o
  | shra h o => exact Assigned.shra h o
  | rotl h o => exact Assigned.rotl h o
  | clz h o => exact Assigned.clz h o
  | popc h o => exact Assigned.popc h o
  | bfx h o => exact Assigned.bfx h o
  | bfi h o => exact Assigned.bfi h o
  | mul h o => exact Assigned.mul h o
  | mulh h o => exact Assigned.mulh h o
  | mulhn h o => exact Assigned.mulhn h o
  | madd h o => exact Assigned.madd h o
  | divs h o => exact Assigned.divs h o
  | divn h o => exact Assigned.divn h o
  | rems h o => exact Assigned.rems h o
  | remn h o => exact Assigned.remn h o
  | fadd h o => exact Assigned.fadd h o
  | fmul h o => exact Assigned.fmul h o
  | fma h o => exact Assigned.fma h o
  | fdiv h o => exact Assigned.fdiv h o
  | fcvt h o => exact Assigned.fcvt h o
  | fcmp h o => exact Assigned.fcmp h o
  | lds h o => exact Assigned.lds h o
  | sts h o => exact Assigned.sts h o
  | ldh h o => exact Assigned.ldh h o
  | sth h o => exact Assigned.sth h o
  | aadd h o => exact Assigned.aadd h o
  | ainc h o => exact Assigned.ainc h o
  | acas h o => exact Assigned.acas h o
  | axchg h o => exact Assigned.axchg h o
  | br h o => exact Assigned.br h o
  | brc h o => exact Assigned.brc h o
  | call h o => exact Assigned.call h o
  | ret h o => exact Assigned.ret h o
  | jmpi h o => exact Assigned.jmpi h o
  | loop h o => exact Assigned.loop h o
  | waitt h o => exact Assigned.waitt h o
  | waitb h o => exact Assigned.waitb h o
  | exit h o => exact Assigned.exit h o
  | exits h o => exact Assigned.exits h o
  | trap h o => exact Assigned.trap h o
  | rett h o => exact Assigned.rett h o
  | rdsr h o => exact Assigned.rdsr h o
  | wrsr h o => exact Assigned.wrsr h o
  | fence h o => exact Assigned.fence h o
  | drain h o => exact Assigned.drain h o
  | guardEnter h o => exact Assigned.guardEnter h o
  | guardLeave h o => exact Assigned.guardLeave h o
  | vadd h o => exact Assigned.vadd h o
  | vsub h o => exact Assigned.vsub h o
  | vmul h o => exact Assigned.vmul h o
  | vmulh h o => exact Assigned.vmulh h o
  | vfma h o => exact Assigned.vfma h o
  | vfms h o => exact Assigned.vfms h o
  | vmin h o => exact Assigned.vmin h o
  | vmax h o => exact Assigned.vmax h o
  | vabs h o => exact Assigned.vabs h o
  | vneg h o => exact Assigned.vneg h o
  | vmulw h o => exact Assigned.vmulw h o
  | vand h o => exact Assigned.vand h o
  | vor h o => exact Assigned.vor h o
  | vxor h o => exact Assigned.vxor h o
  | vandn h o => exact Assigned.vandn h o
  | vshl h o => exact Assigned.vshl h o
  | vshr h o => exact Assigned.vshr h o
  | vshra h o => exact Assigned.vshra h o
  | vaddi h o => exact Assigned.vaddi h o
  | vmovi h o => exact Assigned.vmovi h o
  | vclz h o => exact Assigned.vclz h o
  | vpopc h o => exact Assigned.vpopc h o
  | vcmp h o => exact Assigned.vcmp h o
  | vcmpi h o => exact Assigned.vcmpi h o
  | vcswp h o => exact Assigned.vcswp h o
  | vsel h o => exact Assigned.vsel h o
  | vbcs h o => exact Assigned.vbcs h o
  | vidx h o => exact Assigned.vidx h o
  | vshuf h o => exact Assigned.vshuf h o
  | vxcp h o => exact Assigned.vxcp h o
  | vcvt h o => exact Assigned.vcvt h o
  | vrndi h o => exact Assigned.vrndi h o
  | vsf h o => exact Assigned.vsf h o
  | vqblk h o => exact Assigned.vqblk h o
  | vdq h o => exact Assigned.vdq h o
  | pand h o => exact Assigned.pand h o
  | por h o => exact Assigned.por h o
  | pxor h o => exact Assigned.pxor h o
  | pnot h o => exact Assigned.pnot h o
  | pmov h o => exact Assigned.pmov h o
  | pfirst h o => exact Assigned.pfirst h o
  | pcnt h o => exact Assigned.pcnt h o
  | pset h o => exact Assigned.pset h o
  | racc h o => exact Assigned.racc h o
  | rsum h o => exact Assigned.rsum h o
  | rmax h o => exact Assigned.rmax h o
  | rmin h o => exact Assigned.rmin h o
  | rargmax h o => exact Assigned.rargmax h o
  | rscan h o => exact Assigned.rscan h o
  | rseg h o => exact Assigned.rseg h o
  | rdrn h o => exact Assigned.rdrn h o
  | rclr h o => exact Assigned.rclr h o
  | rcmb h o => exact Assigned.rcmb h o
  | ixpush h o => exact Assigned.ixpush h o
  | ixpop h o => exact Assigned.ixpop h o
  | ixcnt h o => exact Assigned.ixcnt h o
  | ixclr h o => exact Assigned.ixclr h o
  | tlook h o => exact Assigned.tlook h o
  | tlookRead h o => exact Assigned.tlookRead h o
  | tset h o => exact Assigned.tset h o
  | tclr h o => exact Assigned.tclr h o
  | tclrAll h o => exact Assigned.tclrAll h o
  | scat h o => exact Assigned.scat h o
  | sacfgSet h o => exact Assigned.sacfgSet h o
  | sacfgStat h o => exact Assigned.sacfgStat h o
  | sacfgClr h o => exact Assigned.sacfgClr h o
  | nrd h o => exact Assigned.nrd h o
  | nrdl h o => exact Assigned.nrdl h o
  | nwr h o => exact Assigned.nwr h o
  | nwrTile h o => exact Assigned.nwrTile h o
  | nwrl h o => exact Assigned.nwrl h o
  | ncopy h o => exact Assigned.ncopy h o
  | nfill h o => exact Assigned.nfill h o
  | nsend h o => exact Assigned.nsend h o
  | nrecv h o => exact Assigned.nrecv h o
  | npass h o => exact Assigned.npass h o
  | trace h o => exact Assigned.trace h o
  | mwb h o => exact Assigned.mwb h o
  | mldw h o => exact Assigned.mldw h o
  | mma h o => exact Assigned.mma h o
  | mmaz h o => exact Assigned.mmaz h o
  | mmaF64 h o => exact Assigned.mmaF64 h o
  | mclr h o => exact Assigned.mclr h o
  | mcopy h o => exact Assigned.mcopy h o
  | mfree h o => exact Assigned.mfree h o
  | mfreeLatch h o => exact Assigned.mfreeLatch h o
  | mst h o => exact Assigned.mst h o
  | mqst h o => exact Assigned.mqst h o
  | mstat h o => exact Assigned.mstat h o
  | msel h o => exact Assigned.msel h o
  | mscld h o => exact Assigned.mscld h o
  | oqpop h o => exact Assigned.oqpop h o
  | tdmaIn h o => exact Assigned.tdmaIn h o
  | tdmaOut h o => exact Assigned.tdmaOut h o
  | rld h o => exact Assigned.rld h o
  | rst h o => exact Assigned.rst h o
  | send h o => exact Assigned.send h o
  | recv h o => exact Assigned.recv h o
  | xpose h o => exact Assigned.xpose h o
  | xred h o => exact Assigned.xred h o
  | cqpost h o => exact Assigned.cqpost h o
  | barinit h o => exact Assigned.barinit h o
  | bararr h o => exact Assigned.bararr h o
  | oqpush h o => exact Assigned.oqpush h o
  | lpark h o => exact Assigned.lpark h o
  | lwake h o => exact Assigned.lwake h o
  | ttsel h o => exact Assigned.ttsel h o
  | resync h o => exact Assigned.resync h o
  | _ => exact assigned_event rfl

/-- An entry of the opcode map reads back what it makes: the operand bits of the word hold the operands, and no bit beside them
is set (Table 2-4). -/
theorem read_of_made (op : BitVec 8) {e : Entry} {h : Hdr} {o : Operands} {i : Instr} (hm : made e h o = some i) :
    e.read h (slotPrefix op h ++ o.body) = ⟨i, []⟩ := by
  cases e with
  | rrr f => cases o <;> cases hm; exact congrArg (Parsed.build · (f h)) (rrr_read op h _)
  | ri f => cases o <;> cases hm; exact congrArg (Parsed.build · (f h)) (ri_read op h _)
  | branch f => cases o <;> cases hm; exact congrArg (Parsed.build · (f h)) (branch_read op h _)
  | sys f => cases o <;> cases hm; exact congrArg (Parsed.build · (f h)) (sys_read op h _)
  | vrrrr f => cases o <;> cases hm; exact congrArg (Parsed.build · (f h)) (vrrrr_read op h _)
  | vrri f => cases o <;> cases hm; exact congrArg (Parsed.build · (f h)) (vrri_read op h _)
  | net f => cases o <;> cases hm; exact congrArg (Parsed.build · (f h)) (net_read op h _)
  | idx f => cases o <;> cases hm; exact congrArg (Parsed.build · (f h)) (idx_read op h _)
  | tile f => cases o <;> cases hm; exact congrArg (Parsed.build · (f h)) (tile_read op h _)
  | tileSt f => cases o <;> cases hm; exact congrArg (Parsed.build · (f h)) (tileSt_read op h _)
  | scale f => cases o <;> cases hm; exact congrArg (Parsed.build · (f h)) (scale_read op h _)
  | xfer f => cases o <;> cases hm; exact congrArg (Parsed.build · (f h)) (xfer_read op h _)

/-- The encoded word of a slot instruction is its prefix and the bits of its operands (Tables 2-3 and 2-4). -/
theorem encodeSlot_eq_some {i : Instr} {h : Hdr} {w : Word} (hh : i.hdr = some h) (hw : encodeSlot i = some w) :
    ∃ o, i.operands = some o ∧ w = slotPrefix i.opcode h ++ o.body := by
  unfold encodeSlot at hw
  rw [hh] at hw
  cases ho : i.operands with
  | none => rw [ho] at hw; cases hw
  | some o => rw [ho] at hw; cases hw; exact ⟨o, rfl, rfl⟩

/-- Where the X bit says whether an extension is lent, the decoder takes the extension as it is (R61). -/
theorem ext_of_isSome (x : Option (BitVec 20)) : (if x.isSome then x else none) = x := by cases x <;> rfl

/-- The decoder accepts a word whose opcode's entry makes an instruction with no field rejected (R66). -/
theorem decodeSlot_of_entry {k : DieKind} {hnd : Bool} {h : Hdr} {o : Operands} {op : BitVec 8} {e : Entry} {i : Instr}
    (he : opcodeEntry k h.cls.toNat op.toNat = some e) (hm : made e h o = some i) (hr : i.fieldRejects k hnd = []) :
    decodeSlot k hnd h.cls (slotPrefix op h ++ o.body) h.ext = .ok i := by
  simp only [decodeSlot, word_opcode, he, word_guard, word_guardNot, word_extended, ext_of_isSome, read_of_made op hm, hr]
  cases h.ext <;> rfl

/-- Decoding the word of a well-formed slot instruction, in its class and with its extension, gives it back: its opcode has an entry
that makes the instruction, and the entry's format reads back every field of the word. -/
theorem decodeSlot_encodeSlot {k : DieKind} {hnd : Bool} {i : Instr} {c g : BitVec 4} {gn : Bool} {x : Option (BitVec 20)} {w : Word}
    (wf : i.WellFormed k hnd) (hh : i.hdr = some ⟨c, g, gn, x⟩) (hw : encodeSlot i = some w) : decodeSlot k hnd c w x = .ok i := by
  obtain ⟨o, ho, rfl⟩ := encodeSlot_eq_some hh hw
  obtain ⟨e, he, hm⟩ := assigned i k hnd ⟨c, g, gn, x⟩ o hh ho wf
  obtain ⟨-, hr⟩ := wf
  exact decodeSlot_of_entry he hm hr

/-- Settles O40: every field of an encoded word is read back under the entry of its opcode. -/
theorem slotRoundTrip : Obligations.SlotRoundTrip := fun _ _ _ _ _ => decodeSlot_encodeSlot

/-- Settles O39: each of the instructions is well formed and is encoded as the written word. -/
theorem sampleWords : Obligations.SampleWords := by
  refine ⟨?_, ?_, ?_, ?_, ?_, ?_, ?_, ?_⟩
  all_goals exact decodeSlot_encodeSlot ⟨rfl, rfl⟩ rfl rfl

end Sys2Proof.Laws
